-- ==== Sys2Proof/Word.lean ====
section
/-!
DEFINITION. The words of the machine, and the operand records an instruction carries.

A scalar, guard or side word is 64 bits (R91, R94, R120); an instruction word is 32 bits (R70). The operand records
name the fields of the six formats of R70 with the register classes of R71 and R82, so that a class violation is a
decoding error and never reaches the machine.
-/
namespace Sys2Proof

/-- One byte of memory (R1). -/
abbrev Byte := BitVec 8

/-- A 64-bit scalar, guard, handle or control word (R91, R94). -/
abbrev Word := BitVec 64

/-- A 32-bit instruction or prefix word (R70). -/
abbrev IWord := BitVec 32

/-- A scalar register number s0 to s63 (R71). -/
abbrev SReg := BitVec 6

/-- A vector register number v0 to v31 (R71). -/
abbrev VNum := BitVec 5

/-- A guard register number k0 to k7 (R71). -/
abbrev KReg := BitVec 3

/-- A handle register number h0 to h15 (R71). -/
abbrev HReg := BitVec 4

/-- The format codes of R52. Codes 13 to 15 are reserved and have no constructor. -/
inductive Fmt where
  | i64 | i32 | i16 | i8 | n32 | n16 | n8 | fp32 | bf16 | fp16 | e5m2 | e4m3 | e2m1x
  deriving DecidableEq, Repr

/-- The code of a format (R52). -/
def Fmt.code : Fmt → Nat
  | .i64 => 0 | .i32 => 1 | .i16 => 2 | .i8 => 3 | .n32 => 4 | .n16 => 5 | .n8 => 6
  | .fp32 => 7 | .bf16 => 8 | .fp16 => 9 | .e5m2 => 10 | .e4m3 => 11 | .e2m1x => 12

/-- The format of a code, `none` for the reserved codes (R52). -/
def Fmt.ofCode : Nat → Option Fmt
  | 0 => some .i64 | 1 => some .i32 | 2 => some .i16 | 3 => some .i8 | 4 => some .n32
  | 5 => some .n16 | 6 => some .n8 | 7 => some .fp32 | 8 => some .bf16 | 9 => some .fp16
  | 10 => some .e5m2 | 11 => some .e4m3 | 12 => some .e2m1x | _ => none

theorem Fmt.code_lt (f : Fmt) : f.code < 13 := by cases f <;> decide

theorem Fmt.ofCode_code (f : Fmt) : Fmt.ofCode f.code = some f := by cases f <;> rfl

/-- The guard fields of the R and B formats (R70, R74). -/
structure Guard where
  slot : KReg
  inv  : Bool
  deriving DecidableEq, Repr

/-- R format with three scalar fields (R70, R82). -/
structure R3 where
  d : SReg
  a : SReg
  b : SReg
  ta : Bool
  tb : Bool
  g : Guard
  deriving DecidableEq, Repr

/-- R format with scalar d and a, b and tb reserved (CLZ, POPC, MOV, FSQRT, JRL; R82). -/
structure R2 where
  d : SReg
  a : SReg
  ta : Bool
  g : Guard
  deriving DecidableEq, Repr

/-- R format with only a scalar a (JR; R82). -/
structure RA where
  a : SReg
  ta : Bool
  g : Guard
  deriving DecidableEq, Repr

/-- R format with only a scalar d (RDCYC; R82). -/
structure RD where
  d : SReg
  g : Guard
  deriving DecidableEq, Repr

/-- I format: scalar d and a with an 11-bit immediate (R70). -/
structure I2 where
  d : SReg
  a : SReg
  ta : Bool
  imm : BitVec 11
  deriving DecidableEq, Repr

/-- I format shift: the count is imm11 [5:0] (R82). -/
structure ISh where
  d : SReg
  a : SReg
  ta : Bool
  n : BitVec 6
  deriving DecidableEq, Repr

/-- I format with a destination or counter d and an immediate (MOVI, LOOP; R82). -/
structure ID where
  d : SReg
  imm : BitVec 11
  deriving DecidableEq, Repr

/-- I format control-register read (GETC; R117). -/
structure IGet where
  d : SReg
  n : BitVec 6
  deriving DecidableEq, Repr

/-- I format control-register write (SETC; R117). -/
structure ISet where
  a : SReg
  ta : Bool
  n : BitVec 6
  deriving DecidableEq, Repr

/-- R format compare: condition and destination guard in cc:k (R83). -/
structure RCmp where
  cc : BitVec 3
  k : KReg
  a : SReg
  b : SReg
  ta : Bool
  tb : Bool
  g : Guard
  deriving DecidableEq, Repr

/-- I format compare (R83, R105). -/
structure ICmp where
  cc : BitVec 3
  k : KReg
  a : SReg
  ta : Bool
  imm : BitVec 11
  deriving DecidableEq, Repr

/-- R format guard operation of two sources (R106). -/
structure K3 where
  d : KReg
  a : KReg
  b : KReg
  ta : Bool
  tb : Bool
  g : Guard
  deriving DecidableEq, Repr

/-- R format guard operation of one source (KNOT, KMOV; R106). -/
structure K2 where
  d : KReg
  a : KReg
  ta : Bool
  g : Guard
  deriving DecidableEq, Repr

/-- KGET: a scalar from a guard (R106). -/
structure KG where
  d : SReg
  a : KReg
  ta : Bool
  g : Guard
  deriving DecidableEq, Repr

/-- KCLR: a guard only (R106). -/
structure KD where
  d : KReg
  g : Guard
  deriving DecidableEq, Repr

/-- FCVT: scalar d and a with a format (R110). -/
structure RCvt where
  d : SReg
  a : SReg
  f : Fmt
  ta : Bool
  g : Guard
  deriving DecidableEq, Repr

/-- B format: guard and signed word offset (R70, R111). -/
structure BOff where
  g : Guard
  off : BitVec 20
  deriving DecidableEq, Repr

/-- R format with three vector fields (R82). -/
structure V3 where
  d : VNum
  a : VNum
  b : VNum
  ta : Bool
  tb : Bool
  g : Guard
  deriving DecidableEq, Repr

/-- R format with vector d and a (R82). -/
structure V2 where
  d : VNum
  a : VNum
  ta : Bool
  g : Guard
  deriving DecidableEq, Repr

/-- R format vector compare (R132). -/
structure VCmp where
  cc : BitVec 3
  k : KReg
  a : VNum
  b : VNum
  ta : Bool
  tb : Bool
  g : Guard
  deriving DecidableEq, Repr

/-- VBCAST: vector d, scalar a, format (R135). -/
structure VSF where
  d : VNum
  a : SReg
  f : Fmt
  ta : Bool
  g : Guard
  deriving DecidableEq, Repr

/-- VEXTR: scalar d, vector a, scalar b (R136). -/
structure VEx where
  d : SReg
  a : VNum
  b : SReg
  ta : Bool
  tb : Bool
  g : Guard
  deriving DecidableEq, Repr

/-- VINS: vector d, scalars a and b (R137). -/
structure VIn where
  d : VNum
  a : SReg
  b : SReg
  ta : Bool
  tb : Bool
  g : Guard
  deriving DecidableEq, Repr

/-- VSLIDE: vector d and a, scalar b (R139). -/
structure VSl where
  d : VNum
  a : VNum
  b : SReg
  ta : Bool
  tb : Bool
  g : Guard
  deriving DecidableEq, Repr

/-- VNZ: guard d, vector a (R133). -/
structure VNzO where
  k : KReg
  a : VNum
  ta : Bool
  g : Guard
  deriving DecidableEq, Repr

/-- VIOTA, VTAG, VZERO: vector d and a format (R142 to R144). -/
structure VF where
  d : VNum
  f : Fmt
  g : Guard
  deriving DecidableEq, Repr

/-- VRSUM, VRMAX, VRMIN, VSIDE.get: scalar d, vector a (R145, R146). -/
structure SV where
  d : SReg
  a : VNum
  ta : Bool
  g : Guard
  deriving DecidableEq, Repr

/-- VDOT: scalar d, vectors a and b (R146). -/
structure SV2 where
  d : SReg
  a : VNum
  b : VNum
  ta : Bool
  tb : Bool
  g : Guard
  deriving DecidableEq, Repr

/-- VCVT: vector d and a with a format (R147). -/
structure VCv where
  d : VNum
  a : VNum
  f : Fmt
  ta : Bool
  g : Guard
  deriving DecidableEq, Repr

/-- VSIDE.set: vector d, scalar a (R145). -/
structure VS where
  d : VNum
  a : SReg
  ta : Bool
  g : Guard
  deriving DecidableEq, Repr

/-- M format load or store (R70): d is the destination or the store data. -/
structure MOp where
  d : SReg
  a : SReg
  q : BitVec 2
  disp : BitVec 10
  deriving DecidableEq, Repr

/-- M format PREF (R178): base and displacement. -/
structure MPref where
  a : SReg
  disp : BitVec 10
  deriving DecidableEq, Repr

/-- V format LDV or STV (R164). -/
structure VMem where
  v : VNum
  a : SReg
  q : BitVec 2
  f : Fmt
  disp : BitVec 6
  deriving DecidableEq, Repr

/-- LDX or STX (R166): base, offset vector, qualifier, offset width, log2 of the element bytes. -/
structure XMem where
  v : VNum
  a : SReg
  b : VNum
  q : BitVec 2
  o16 : Bool
  sz : BitVec 2
  deriving DecidableEq, Repr

/-- TLD or TST (R275): vector, first coordinate register, handle, qualifier. -/
structure TMem where
  v : VNum
  a : SReg
  h : HReg
  q : BitVec 2
  deriving DecidableEq, Repr

/-- The ten operations of ATOM (R85, R168). -/
inductive AtomOp where
  | add | fadd32 | min | max | minn | maxn | and | or | xor | swap
  deriving DecidableEq, Repr

/-- The operation code of ATOM, sub6 [3:0] (R85). -/
def AtomOp.code : AtomOp → Nat
  | .add => 0 | .fadd32 => 1 | .min => 2 | .max => 3 | .minn => 4 | .maxn => 5
  | .and => 6 | .or => 7 | .xor => 8 | .swap => 9

/-- The operation of an ATOM code; 10 to 15 are reserved (R85). -/
def AtomOp.ofCode : Nat → Option AtomOp
  | 0 => some .add | 1 => some .fadd32 | 2 => some .min | 3 => some .max | 4 => some .minn
  | 5 => some .maxn | 6 => some .and | 7 => some .or | 8 => some .xor | 9 => some .swap
  | _ => none

/-- ATOM (R168): destination, address, operand, operation, size bit (1 = 32-bit). -/
structure EAtom where
  d : SReg
  a : SReg
  b : SReg
  w32 : Bool
  op : AtomOp
  deriving DecidableEq, Repr

/-- CAS (R169): compare value and destination, address, new value, size bit. -/
structure ECas where
  d : SReg
  a : SReg
  b : SReg
  w32 : Bool
  deriving DecidableEq, Repr

/-- The scopes of FENCE (R85). -/
inductive Scope where
  | core | pier | deck | device | fabric
  deriving DecidableEq, Repr

def Scope.code : Scope → Nat
  | .core => 0 | .pier => 1 | .deck => 2 | .device => 3 | .fabric => 4

def Scope.ofCode : Nat → Option Scope
  | 0 => some .core | 1 => some .pier | 2 => some .deck | 3 => some .device | 4 => some .fabric
  | _ => none

/-- The kinds of FENCE (R85). -/
inductive FenceKind where
  | acquire | release | full
  deriving DecidableEq, Repr

def FenceKind.code : FenceKind → Nat
  | .acquire => 1 | .release => 2 | .full => 3

def FenceKind.ofCode : Nat → Option FenceKind
  | 1 => some .acquire | 2 => some .release | 3 => some .full | _ => none

/-- FENCE (R170). -/
structure EFence where
  scope : Scope
  kind : FenceKind
  deriving DecidableEq, Repr

/-- FESET (R171): address, count, value. -/
structure EFeset where
  a : SReg
  b : SReg
  v : Bool
  deriving DecidableEq, Repr

/-- E format with scalar d, a and b (R70). -/
structure E3 where
  d : SReg
  a : SReg
  b : SReg
  deriving DecidableEq, Repr

/-- E format with scalar d and a. -/
structure EDA where
  d : SReg
  a : SReg
  deriving DecidableEq, Repr

/-- E format with scalar a and b. -/
structure EAB where
  a : SReg
  b : SReg
  deriving DecidableEq, Repr

/-- E format with scalar d and b (SENDC; R327). -/
structure EDB where
  d : SReg
  b : SReg
  deriving DecidableEq, Repr

/-- E format with scalar a. -/
structure EA where
  a : SReg
  deriving DecidableEq, Repr

/-- E format with scalar b (ERET.end; R383). -/
structure EB where
  b : SReg
  deriving DecidableEq, Repr

/-- CGATH (R180): d, a, b and the 16-bit offset bit. -/
structure EGath where
  d : SReg
  a : SReg
  b : SReg
  o16 : Bool
  deriving DecidableEq, Repr

/-- The store kinds of CSCAT (R181). -/
inductive ScatKind where
  | store | add32 | add16
  deriving DecidableEq, Repr

def ScatKind.code : ScatKind → Nat
  | .store => 0 | .add32 => 1 | .add16 => 2

def ScatKind.ofCode : Nat → Option ScatKind
  | 0 => some .store | 1 => some .add32 | 2 => some .add16 | _ => none

/-- CSCAT (R181). -/
structure EScat where
  d : SReg
  a : SReg
  b : SReg
  scl : Bool
  kind : ScatKind
  o16 : Bool
  deriving DecidableEq, Repr

/-- MMA (R197): trim code sub6 [5:4] (0, 2, 4, 6 low bits), overwrite sub6 [3]. -/
structure EMma where
  d : SReg
  a : SReg
  b : SReg
  trim : BitVec 2
  ow : Bool
  deriving DecidableEq, Repr

/-- ACCVT (R202): saturate sub6 [4], format code sub6 [3:0]; a code that R202 does not list is an error of the job. -/
structure EAccvt where
  d : SReg
  a : SReg
  b : SReg
  sat : Bool
  f : BitVec 4
  deriving DecidableEq, Repr

/-- HSET (R292): handle, record address, second operand. -/
structure EHset where
  h : HReg
  a : SReg
  b : SReg
  deriving DecidableEq, Repr

/-- HGET, RELAYOUT and RLWAIT (R293 to R295): scalar d, handle a, scalar b. -/
structure EHget where
  d : SReg
  h : HReg
  b : SReg
  deriving DecidableEq, Repr

/-- EXPECT (R349): guard selector in sub6 [2:0]. -/
structure EExpect where
  d : SReg
  a : SReg
  b : SReg
  k : KReg
  deriving DecidableEq, Repr

/-- The reach of TLBINV, sub6 [3:2] (R266). -/
inductive TlbScope where
  | pier | deck | device
  deriving DecidableEq, Repr

def TlbScope.code : TlbScope → Nat
  | .pier => 0 | .deck => 1 | .device => 2

def TlbScope.ofCode : Nat → Option TlbScope
  | 0 => some .pier | 1 => some .deck | 2 => some .device | _ => none

/-- TLBINV (R266). -/
structure ETlb where
  a : SReg
  b : SReg
  scope : TlbScope
  deriving DecidableEq, Repr

/-- What a PREEMPT names, sub6 [1:0] (R391). -/
inductive PreemptSel where
  | cores | vd | job
  deriving DecidableEq, Repr

def PreemptSel.code : PreemptSel → Nat
  | .cores => 0 | .vd => 1 | .job => 2

def PreemptSel.ofCode : Nat → Option PreemptSel
  | 0 => some .cores | 1 => some .vd | 2 => some .job | _ => none

/-- PREEMPT (R391). -/
structure EPre where
  d : SReg
  a : SReg
  sel : PreemptSel
  deriving DecidableEq, Repr

end Sys2Proof
end

