-- ==== Sys2Proof/Machine/Flags.lean ====
section
/-!
DEFINITION. FLAGS (R64), rounding modes (R60), and the one rounding step from an exact value to a format with the
flags it sets (R61, R62). Every flag computation of the machine goes through this file.

An exact value is an `FVal`. A finite value is a sign and a dyadic m × 2^e. A value that is not a dyadic (a quotient, a
root, 2^x, log2 x) enters as a dyadic that lies strictly between the same two neighbours of every format: its
magnitude truncated to more bits than any format holds, with one further 1 bit below (log 40).
-/
namespace Sys2Proof.Machine

/-- The five sticky bits of FLAGS: NV [0], DZ [1], OF [2], UF [3], NX [4] (R64). -/
abbrev Flags := BitVec 5

namespace FlagBits
def none : Flags := 0
def nv : Flags := 1
def dz : Flags := 2
def ovf : Flags := 4
def unf : Flags := 8
def nx : Flags := 16
end FlagBits

/-- Flags are only ever added (R64). -/
def orFlags (fs : List Flags) : Flags := fs.foldl (fun x y => x ||| y) 0

/-- The rounding modes of R60. -/
inductive RMode where
  | nearest | zero | down | up
  deriving DecidableEq, Repr

/-- The mode of RMODE [1:0] (R60). -/
def RMode.ofCode (c : Nat) : RMode :=
  match c % 4 with
  | 0 => .nearest | 1 => .zero | 2 => .down | _ => .up

/-- An exact value on its way to a format: NaN, a signed infinity, or sign × m × 2^e (R53, R5). -/
inductive FVal where
  | nan
  | inf (neg : Bool)
  | fin (neg : Bool) (m : Nat) (e : Int)
  deriving DecidableEq, Repr

namespace FVal

/-- Negation, as MOD's negate and subtraction use it (R78). -/
def neg : FVal → FVal
  | nan => nan
  | inf s => inf (!s)
  | fin s m e => fin (!s) m e

/-- Absolute value, as MOD's absolute fields use it (R78). -/
def abs : FVal → FVal
  | nan => nan
  | inf _ => inf false
  | fin _ m e => fin false m e

def isNaN : FVal → Bool
  | nan => true
  | _ => false

def isInf : FVal → Bool
  | inf _ => true
  | _ => false

/-- True of +0 and −0. -/
def isZero : FVal → Bool
  | fin _ m _ => m == 0
  | _ => false

def isFinite : FVal → Bool
  | fin _ _ _ => true
  | _ => false

/-- The sign bit; false for NaN (R63). -/
def sign : FVal → Bool
  | nan => false
  | inf s => s
  | fin s _ _ => s

def zero (s : Bool) : FVal := fin s 0 0

/-- The exact integer z; zero is +0. -/
def ofInt (z : Int) : FVal := fin (decide (z < 0)) z.natAbs 0

/-- The magnitude scaled to units of 2^q, for q at most the value's own exponent. -/
def unitsAt (m : Nat) (e q : Int) : Nat := m <<< (e - q).toNat

/-- The signed integer of a finite value in units of 2^q. -/
def intAt (s : Bool) (m : Nat) (e q : Int) : Int :=
  if s then -(unitsAt m e q : Int) else (unitsAt m e q : Int)

/-- Exact comparison of two values that are not NaN; −0 equals +0 (R83). -/
def cmp : FVal → FVal → Ordering
  | inf s, inf t => if s == t then .eq else if s then .lt else .gt
  | inf s, _ => if s then .lt else .gt
  | _, inf t => if t then .gt else .lt
  | fin s m e, fin t n f =>
    let q := min e f
    compare (intAt s m e q) (intAt t n f q)
  | _, _ => .eq

/-- Multiply by 2^n; a special result is unchanged (R78). -/
def scale (v : FVal) (n : Int) : FVal :=
  match v with
  | fin s m e => fin s m (e + n)
  | v => v

end FVal

/-- The shape of a binary float format (R53): precision with the hidden bit, exponent bits, bias, largest finite value
as mantissa × 2^exponent, and whether the format has infinities. -/
structure FloatFmt where
  prec : Nat
  ebits : Nat
  bias : Nat
  maxM : Nat
  maxE : Int
  hasInf : Bool
  deriving DecidableEq, Repr

namespace FloatFmt
def fp32 : FloatFmt := ⟨24, 8, 127, 2 ^ 24 - 1, 104, true⟩
def bf16 : FloatFmt := ⟨8, 8, 127, 2 ^ 8 - 1, 120, true⟩
def fp16 : FloatFmt := ⟨11, 5, 15, 2 ^ 11 - 1, 5, true⟩
def e5m2 : FloatFmt := ⟨3, 5, 15, 7, 13, true⟩
/-- 448 = 14 × 2^5 (R53, R54). -/
def e4m3 : FloatFmt := ⟨4, 4, 7, 14, 5, false⟩

/-- Exponent of the least normal magnitude, 1 − bias. -/
def emin (f : FloatFmt) : Int := 1 - (f.bias : Int)

/-- Stored mantissa bits. -/
def mbits (f : FloatFmt) : Nat := f.prec - 1

/-- Width of the format in bits. -/
def width (f : FloatFmt) : Nat := f.ebits + f.prec

/-- The largest finite value with a sign. -/
def largest (f : FloatFmt) (s : Bool) : FVal := .fin s f.maxM f.maxE
end FloatFmt

/-- The float shape of a format code; `none` for integers and E2M1X (R52). -/
def floatOf : Fmt → Option FloatFmt
  | .fp32 => some .fp32 | .bf16 => some .bf16 | .fp16 => some .fp16
  | .e5m2 => some .e5m2 | .e4m3 => some .e4m3 | _ => none

/-- Decode a bit pattern of a float format (R53, R54). -/
def decodeFloat (f : FloatFmt) (bits : Nat) : FVal :=
  let m := bits % 2 ^ f.mbits
  let e := bits / 2 ^ f.mbits % 2 ^ f.ebits
  let s := bits / 2 ^ (f.mbits + f.ebits) % 2 == 1
  let top := 2 ^ f.ebits - 1
  if e == top && f.hasInf then
    if m == 0 then .inf s else .nan
  else if e == top && m == 2 ^ f.mbits - 1 then .nan
  else if e == 0 then .fin s m (f.emin - f.mbits)
  else .fin s (m + 2 ^ f.mbits) ((e : Int) - f.bias - f.mbits)

/-- The canonical NaN of a float format: sign 0, quiet bit set, payload zero; 0x7F in E4M3 (R54, R63). -/
def canonicalNaN (f : FloatFmt) : Nat :=
  if f.hasInf then (2 ^ f.ebits - 1) * 2 ^ f.mbits + 2 ^ (f.mbits - 1)
  else 2 ^ (f.mbits + f.ebits) - 1

/-- Encode a value the format represents exactly (the result of rounding to it). -/
def encodeFloat (f : FloatFmt) (v : FVal) : Nat :=
  let sgn (s : Bool) : Nat := if s then 2 ^ (f.mbits + f.ebits) else 0
  match v with
  | .nan => canonicalNaN f
  | .inf s => sgn s + (2 ^ f.ebits - 1) * 2 ^ f.mbits
  | .fin s m e =>
    if m == 0 then sgn s
    else
      let top : Int := (m.log2 : Int) + e
      if top < f.emin then
        -- a subnormal: the mantissa in units of 2^(emin − mbits)
        let q : Int := f.emin - f.mbits
        sgn s + (if e ≥ q then m <<< (e - q).toNat else m >>> (q - e).toNat)
      else
        let q : Int := top - f.mbits
        let mant := if e ≥ q then m <<< (e - q).toNat else m >>> (q - e).toNat
        sgn s + (top + f.bias).toNat * 2 ^ f.mbits + (mant - 2 ^ f.mbits)

/-- Round a magnitude of `rem` out of `2^k` above an integer `n` by mode and sign; the result is `n` or `n + 1` (R60). -/
def roundUnits (mode : RMode) (neg : Bool) (n rem k : Nat) : Nat :=
  let half := 2 ^ k
  match mode with
  | .nearest => if 2 * rem > half then n + 1 else if 2 * rem == half then n + n % 2 else n
  | .zero => n
  | .down => if neg && rem != 0 then n + 1 else n
  | .up => if !neg && rem != 0 then n + 1 else n

/-- Round m × 2^e to a multiple of 2^q: the multiple, and whether it is inexact. -/
def roundAt (mode : RMode) (neg : Bool) (m : Nat) (e q : Int) : Nat × Bool :=
  if e ≥ q then (m <<< (e - q).toNat, false)
  else
    let k := (q - e).toNat
    let rem := m % 2 ^ k
    (roundUnits mode neg (m / 2 ^ k) rem k, rem != 0)

/-- Does the mode round an overflowing value of this sign towards zero (R62)? -/
def towardsZero (mode : RMode) (neg : Bool) : Bool :=
  match mode with
  | .nearest => false
  | .zero => true
  | .down => !neg
  | .up => neg

/-- Round a nonzero finite magnitude to a float format: the value in the format and the flags (R61, R62).
Overflow is judged after rounding with an unbounded exponent. -/
def roundFin (f : FloatFmt) (mode : RMode) (sat : Bool) (neg : Bool) (m : Nat) (e : Int) : FVal × Flags :=
  let top : Int := (m.log2 : Int) + e
  let qn : Int := top - f.mbits
  -- with an unbounded exponent
  let un := roundAt mode neg m e qn
  -- magnitude un.1 × 2^qn against the largest finite value
  let atEnd : Bool :=
    let q := min qn f.maxE
    FVal.unitsAt un.1 qn q > FVal.unitsAt f.maxM f.maxE q
  if atEnd then
    let fl := FlagBits.ovf ||| FlagBits.nx
    if sat || towardsZero mode neg then (f.largest neg, fl)
    else if f.hasInf then (.inf neg, fl)
    else (.nan, fl)
  else
    let tiny : Bool :=
      let q := min qn f.emin
      FVal.unitsAt un.1 qn q < FVal.unitsAt 1 f.emin q
    let q : Int := max qn (f.emin - f.mbits)
    let r := roundAt mode neg m e q
    let fl := if r.2 then (if tiny then FlagBits.unf ||| FlagBits.nx else FlagBits.nx) else FlagBits.none
    (.fin neg r.1 q, fl)

/-- Round an exact value once to a float format (R62). An infinity in E4M3 is the canonical NaN with NV. -/
def roundFloat (f : FloatFmt) (mode : RMode) (sat : Bool) (v : FVal) : FVal × Flags :=
  match v with
  | .nan => (.nan, FlagBits.none)
  | .inf s => if f.hasInf then (.inf s, FlagBits.none) else if sat then (f.largest s, FlagBits.none) else (.nan, FlagBits.nv)
  | .fin s m e => if m == 0 then (.fin s 0 0, FlagBits.none) else roundFin f mode sat s m e

/-- Rounded and encoded. -/
def roundBits (f : FloatFmt) (mode : RMode) (v : FVal) : Nat × Flags :=
  let r := roundFloat f mode false v
  (encodeFloat f r.1, r.2)

/-- Rne32 of R6 with its flags. -/
def rne32 (v : FVal) : Nat × Flags := roundBits .fp32 .nearest v

/-- Rne16 of R6 with its flags. -/
def rne16 (v : FVal) : Nat × Flags := roundBits .bf16 .nearest v

end Sys2Proof.Machine
end

