-- ==== Sys2Proof/Machine/Formats.lean ====
section
/-!
DEFINITION. Number formats and arithmetic (R52 to R68, R78, R147): exact operations, the MOD steps, conversions,
E2M1X blocks, the summation tree, the exact block sums of the matrix engine, and trim.
-/
namespace Sys2Proof.Machine

/-! ### Format shapes (R52) -/

/-- Bits per element. -/
def fmtBits : Fmt → Nat
  | .i64 => 64 | .i32 => 32 | .i16 => 16 | .i8 => 8 | .n32 => 32 | .n16 => 16 | .n8 => 8
  | .fp32 => 32 | .bf16 => 16 | .fp16 => 16 | .e5m2 => 8 | .e4m3 => 8 | .e2m1x => 4

/-- Elements per vector register. -/
def fmtLanes (f : Fmt) : Nat := 1024 / fmtBits f

/-- A signed integer format. -/
def fmtSigned : Fmt → Bool
  | .i64 | .i32 | .i16 | .i8 => true
  | _ => false

/-- An integer format. -/
def fmtIsInt : Fmt → Bool
  | .i64 | .i32 | .i16 | .i8 | .n32 | .n16 | .n8 => true
  | _ => false

/-- The integer a bit pattern holds, two's complement for the I formats (R52, R55). -/
def intOfBits (signed : Bool) (w bits : Nat) : Int :=
  let x := bits % 2 ^ w
  if signed && 2 ^ (w - 1) ≤ x then (x : Int) - (2 ^ w : Nat) else (x : Int)

/-- The low w bits of an integer (R55). -/
def bitsOfInt (w : Nat) (z : Int) : Nat := (z % ((2 ^ w : Nat) : Int)).toNat

/-- Least and greatest value of an integer format. -/
def intMin (signed : Bool) (w : Nat) : Int := if signed then -((2 ^ (w - 1) : Nat) : Int) else 0
def intMax (signed : Bool) (w : Nat) : Int :=
  if signed then ((2 ^ (w - 1) : Nat) : Int) - 1 else ((2 ^ w : Nat) : Int) - 1

/-- Sat of R6: clamped to the least and greatest values of the format. -/
def satInt (signed : Bool) (w : Nat) (z : Int) : Int :=
  min (max z (intMin signed w)) (intMax signed w)

/-! ### Exact operations -/

/-- The sign of an exact zero sum of terms that are not both zeros of one sign (R107). -/
def zeroSumSign (mode : RMode) : Bool := mode == .down

/-- Exact a + b; the flag is NV for ∞ − ∞ (R107). -/
def addX (mode : RMode) (a b : FVal) : FVal × Flags :=
  match a, b with
  | .nan, _ => (.nan, FlagBits.none)
  | _, .nan => (.nan, FlagBits.none)
  | .inf s, .inf t => if s == t then (.inf s, FlagBits.none) else (.nan, FlagBits.nv)
  | .inf s, _ => (.inf s, FlagBits.none)
  | _, .inf t => (.inf t, FlagBits.none)
  | .fin s m e, .fin t n f =>
    if m == 0 && n == 0 then
      (.fin (if s == t then s else zeroSumSign mode) 0 0, FlagBits.none)
    else
      let q := min e f
      let z := FVal.intAt s m e q + FVal.intAt t n f q
      if z == 0 then (.fin (zeroSumSign mode) 0 0, FlagBits.none)
      else (.fin (decide (z < 0)) z.natAbs q, FlagBits.none)

/-- Exact a × b; NV for 0 × ∞ (R107). -/
def mulX (a b : FVal) : FVal × Flags :=
  match a, b with
  | .nan, _ => (.nan, FlagBits.none)
  | _, .nan => (.nan, FlagBits.none)
  | .inf s, .inf t => (.inf (s != t), FlagBits.none)
  | .inf s, .fin t n _ => if n == 0 then (.nan, FlagBits.nv) else (.inf (s != t), FlagBits.none)
  | .fin s m _, .inf t => if m == 0 then (.nan, FlagBits.nv) else (.inf (s != t), FlagBits.none)
  | .fin s m e, .fin t n f => (.fin (s != t) (m * n) (e + f), FlagBits.none)

/-- m × 2^e with one further bit below it: a value strictly above m × 2^e and below (m + 1) × 2^e. -/
def sticky (s exact : Bool) (m : Nat) (e : Int) : FVal :=
  if exact then .fin s m e else .fin s (2 * m + 1) (e - 1)

/-- Exact quotient (R107): NV for 0/0 and ∞/∞, DZ for finite nonzero by zero. -/
def divX (a b : FVal) : FVal × Flags :=
  match a, b with
  | .nan, _ => (.nan, FlagBits.none)
  | _, .nan => (.nan, FlagBits.none)
  | .inf _, .inf _ => (.nan, FlagBits.nv)
  | .inf s, .fin t _ _ => (.inf (s != t), FlagBits.none)
  | .fin s _ _, .inf t => (.fin (s != t) 0 0, FlagBits.none)
  | .fin s m e, .fin t n f =>
    if n == 0 then
      if m == 0 then (.nan, FlagBits.nv) else (.inf (s != t), FlagBits.dz)
    else if m == 0 then (.fin (s != t) 0 0, FlagBits.none)
    else
      let k := 80 + n.log2
      let q := (m <<< k) / n
      (sticky (s != t) ((m <<< k) % n == 0) q (e - f - k), FlagBits.none)

/-- The integer square root, by one bit of the root per step from bit k − 1 down. -/
def isqrtAux (m : Nat) : Nat → Nat → Nat
  | 0, r => r
  | k + 1, r =>
    let r' := r + 2 ^ k
    isqrtAux m k (if r' * r' ≤ m then r' else r)

def isqrt (m : Nat) : Nat := isqrtAux m (m.log2 / 2 + 1) 0

/-- Exact square root (R107): √−0 is −0, NV below zero. -/
def sqrtX (a : FVal) : FVal × Flags :=
  match a with
  | .nan => (.nan, FlagBits.none)
  | .inf s => if s then (.nan, FlagBits.nv) else (.inf false, FlagBits.none)
  | .fin s m e =>
    if m == 0 then (.fin s 0 0, FlagBits.none)
    else if s then (.nan, FlagBits.nv)
    else
      -- an even exponent, and 160 further bits
      let m1 := if e % 2 == 0 then m else 2 * m
      let e1 := if e % 2 == 0 then e else e - 1
      let m2 := m1 <<< 160
      let r := isqrt m2
      (sticky false (r * r == m2) r ((e1 - 160) / 2), FlagBits.none)

/-- 1 / a with the special values of R129. -/
def rcpX (a : FVal) : FVal × Flags := divX (.fin false 1 0) a

/-- 1 / √a with the special values of R129: ±0 gives an infinity of the zero's sign with DZ. -/
def rsqX (a : FVal) : FVal × Flags :=
  match a with
  | .nan => (.nan, FlagBits.none)
  | .inf s => if s then (.nan, FlagBits.nv) else (.fin false 0 0, FlagBits.none)
  | .fin s m e =>
    if m == 0 then (.inf s, FlagBits.dz)
    else if s then (.nan, FlagBits.nv)
    else
      let m1 := if e % 2 == 0 then m else 2 * m
      let e1 := if e % 2 == 0 then e else e - 1
      -- r = ⌊2^k / √m1⌋
      let k := 120 + m1.log2
      let r := isqrt (2 ^ (2 * k) / m1)
      (sticky false (r * r * m1 == 2 ^ (2 * k)) r (-(k : Int) - e1 / 2), FlagBits.none)

/-! ### 2^x and log2 x (R129), in fixed point with 320 fraction bits -/

/-- Fraction bits of the fixed-point series. -/
def fxBits : Nat := 320

/-- Σ z^(2i+1)/(2i+1) from the current power, `k` terms: atanh z, z in units of 2^−320. -/
def atanhAux (z2 : Nat) : Nat → Nat → Nat → Nat → Nat
  | 0, _, _, acc => acc
  | k + 1, pw, d, acc => atanhAux z2 k ((pw * z2) >>> fxBits) (d + 2) (acc + pw / d)

/-- 2 × atanh z. -/
def twoAtanh (z : Nat) : Nat := 2 * atanhAux ((z * z) >>> fxBits) 110 z 1 0

/-- ln 2 = 2 atanh (1/3). -/
def ln2Fx : Nat := twoAtanh (2 ^ fxBits / 3)

/-- Σ y^i / i!, `k` terms. -/
def expAux (y : Nat) : Nat → Nat → Nat → Nat → Nat
  | 0, _, _, acc => acc
  | k + 1, i, term, acc => expAux y k (i + 1) ((term * y) >>> fxBits / i) (acc + term)

/-- e^y for 0 ≤ y < 1. -/
def expFx (y : Nat) : Nat := expAux y 80 1 (2 ^ fxBits) 0

/-- 2^x (R129). An argument beyond ±2^20 is far outside every format's range and enters as 2^(±2^20). -/
def exp2X (a : FVal) : FVal × Flags :=
  match a with
  | .nan => (.nan, FlagBits.none)
  | .inf s => if s then (.fin false 0 0, FlagBits.none) else (.inf false, FlagBits.none)
  | .fin s m e =>
    if m == 0 then (.fin false 1 0, FlagBits.none)
    else if (m.log2 : Int) + e ≥ 20 then
      (.fin false 1 (if s then -(2 ^ 20 : Nat) else ((2 ^ 20 : Nat) : Int)), FlagBits.none)
    else
      -- x in units of 2^−320, rounded towards −∞; every operand of an instruction is exact there
      let z : Int := if e + fxBits ≥ 0 then FVal.intAt s m e (-(fxBits : Int))
        else FVal.intAt s (m >>> (-(e + fxBits)).toNat) 0 0
      let one : Int := ((2 ^ fxBits : Nat) : Int)
      let i := z / one
      let f := (z % one).toNat
      if f == 0 then (.fin false 1 i, FlagBits.none)
      else
        let y := (f * ln2Fx) >>> fxBits
        (sticky false false (expFx y) (i - fxBits), FlagBits.none)

/-- log2 x (R129). -/
def log2X (a : FVal) : FVal × Flags :=
  match a with
  | .nan => (.nan, FlagBits.none)
  | .inf s => if s then (.nan, FlagBits.nv) else (.inf false, FlagBits.none)
  | .fin s m e =>
    if m == 0 then (.inf true, FlagBits.dz)
    else if s then (.nan, FlagBits.nv)
    else
      let t := m.log2
      let i : Int := (t : Int) + e
      if m == 2 ^ t then (FVal.ofInt i, FlagBits.none)
      else
        -- ln (m / 2^t) = 2 atanh ((m − 2^t) / (m + 2^t))
        let z := ((m - 2 ^ t) <<< fxBits) / (m + 2 ^ t)
        let f := (twoAtanh z <<< fxBits) / ln2Fx
        let v : Int := i * ((2 ^ fxBits : Nat) : Int) + f
        (sticky (decide (v < 0)) false v.natAbs (-(fxBits : Int)), FlagBits.none)

/-- FMIN of R108: −0 below +0, one NaN gives the other operand. -/
def minX (a b : FVal) : FVal :=
  match a, b with
  | .nan, b => b
  | a, .nan => a
  | a, b =>
    match FVal.cmp a b with
    | .lt => a
    | .gt => b
    | .eq => if a.sign then a else b

/-- FMAX of R108. -/
def maxX (a b : FVal) : FVal :=
  match a, b with
  | .nan, b => b
  | a, .nan => a
  | a, b =>
    match FVal.cmp a b with
    | .lt => b
    | .gt => a
    | .eq => if a.sign then b else a

/-! ### MOD fields (R77) and the formation of a result (R78) -/

/-- The arithmetic fields of a MOD word. -/
structure Mods where
  sat : Bool
  clamp : Nat
  na : Bool
  nb : Bool
  aa : Bool
  ab : Bool
  scale : Int
  round : Nat
  deriving DecidableEq, Repr

/-- A group without MOD. -/
def Mods.none : Mods := ⟨false, 0, false, false, false, false, 0, 0⟩

/-- No field of it changes a value that the format holds. -/
def Mods.keeps (m : Mods) : Bool := !m.sat && m.clamp == 0 && !m.na && !m.aa && m.scale == 0

/-- The fields of a MOD word (R77). -/
def Mods.ofWord (w : IWord) : Mods :=
  let x := w.toNat
  { sat := x.testBit 23, clamp := x / 2 ^ 21 % 4, na := x.testBit 20, nb := x.testBit 19
    aa := x.testBit 18, ab := x.testBit 17, scale := intOfBits true 5 (x / 2 ^ 12), round := x / 2 ^ 10 % 4 }

/-- Absolute value, then negation, of source a (R78). -/
def Mods.srcA (m : Mods) (a : FVal) : FVal :=
  let a := if m.aa then a.abs else a
  if m.na then a.neg else a

/-- Absolute value, then negation, of source b (R78). -/
def Mods.srcB (m : Mods) (b : FVal) : FVal :=
  let b := if m.ab then b.abs else b
  if m.nb then b.neg else b

/-- The mode of the instruction: MOD's override, else RMODE (R60, R78). -/
def Mods.mode (m : Mods) (rm : RMode) : RMode := if m.round == 0 then rm else RMode.ofCode m.round

/-- The clamp of R78 on a rounded value: 1 is [0, 1], 2 is [−1, 1], 3 is [0, +∞); NaN passes; −0 becomes +0 when lo = 0. -/
def clampF (c : Nat) (y : FVal) : FVal :=
  let one (s : Bool) : FVal := .fin s 1 0
  match c, y with
  | _, .nan => .nan
  | 1, y =>
    if y.sign || y.isZero then .zero false
    else if FVal.cmp y (one false) == .gt then one false else y
  | 2, y =>
    if FVal.cmp y (one false) == .gt then one false
    else if FVal.cmp y (one true) == .lt then one true else y
  | 3, y => if y.sign || y.isZero then .zero false else y
  | _, y => y

/-- The clamp on an integer result (R147). -/
def clampI (c : Nat) (z : Int) : Int :=
  match c with
  | 1 => min (max z 0) 1
  | 2 => min (max z (-1)) 1
  | 3 => max z 0
  | _ => z

/-- Scale, round once, saturate and clamp the exact value of an operation (R78). -/
def finishF (f : FloatFmt) (m : Mods) (rm : RMode) (x : FVal × Flags) : Nat × Flags :=
  let r := roundFloat f (m.mode rm) m.sat (x.1.scale m.scale)
  (encodeFloat f (clampF m.clamp r.1), x.2 ||| r.2)

/-- A float result of two sources by R78. -/
def arith2 (op : RMode → FVal → FVal → FVal × Flags) (f : FloatFmt) (m : Mods) (rm : RMode) (a b : Nat) : Nat × Flags :=
  finishF f m rm (op (m.mode rm) (m.srcA (decodeFloat f a)) (m.srcB (decodeFloat f b)))

/-- A float result of one source by R78. -/
def arith1 (op : FVal → FVal × Flags) (f : FloatFmt) (m : Mods) (rm : RMode) (a : Nat) : Nat × Flags :=
  finishF f m rm (op (m.srcA (decodeFloat f a)))

/-- a × b × 2^n + d, rounded once (R78, R107); the product and the sum are judged each on its own operands (R63). -/
def arithFma (f : FloatFmt) (m : Mods) (rm : RMode) (a b d : Nat) : Nat × Flags :=
  let p := mulX (m.srcA (decodeFloat f a)) (m.srcB (decodeFloat f b))
  let s := addX (m.mode rm) (p.1.scale m.scale) (decodeFloat f d)
  let r := roundFloat f (m.mode rm) m.sat s.1
  (encodeFloat f (clampF m.clamp r.1), p.2 ||| s.2 ||| r.2)

def opAdd (mode : RMode) (a b : FVal) : FVal × Flags := addX mode a b
def opSub (mode : RMode) (a b : FVal) : FVal × Flags := addX mode a b.neg
def opMul (_ : RMode) (a b : FVal) : FVal × Flags := mulX a b
def opDiv (_ : RMode) (a b : FVal) : FVal × Flags := divX a b
def opMin (_ : RMode) (a b : FVal) : FVal × Flags := (minX a b, FlagBits.none)
def opMax (_ : RMode) (a b : FVal) : FVal × Flags := (maxX a b, FlagBits.none)

/-! ### Conditions (R83) -/

/-- Integer conditions; BS and BC test the bits of a AND b. -/
def condInt (cc : Nat) (a b : Int) (bitsA bitsB : Nat) : Bool :=
  match cc % 8 with
  | 0 => a == b
  | 1 => a != b
  | 2 => decide (a < b)
  | 3 => decide (b ≤ a)
  | 4 => decide (a ≤ b)
  | 5 => decide (b < a)
  | 6 => (bitsA &&& bitsB) != 0
  | _ => (bitsA &&& bitsB) == 0

/-- Float conditions: +0 equals −0; NE and UN hold when unordered. -/
def condFloat (cc : Nat) (a b : FVal) : Bool :=
  let un := a.isNaN || b.isNaN
  let c := FVal.cmp a b
  match cc % 8 with
  | 0 => !un && c == .eq
  | 1 => un || c != .eq
  | 2 => !un && c == .lt
  | 3 => !un && c != .lt
  | 4 => !un && c != .gt
  | 5 => !un && c == .gt
  | 6 => un
  | _ => !un

/-! ### Conversions (R62, R78, R147) -/

/-- A finite value rounded to an integer, and whether that was inexact. -/
def roundToInt (mode : RMode) (s : Bool) (m : Nat) (e : Int) : Int × Bool :=
  let r := roundAt mode s m e 0
  (if s then -(r.1 : Int) else (r.1 : Int), r.2)

/-- A float value to an integer format: NaN gives 0 with NV; out of range and infinities give Sat with NV; an inexact
in-range result sets NX. The range is judged after rounding (R62). -/
def floatToInt (signed : Bool) (w : Nat) (mode : RMode) (clamp : Nat) (v : FVal) : Nat × Flags :=
  match v with
  | .nan => (0, FlagBits.nv)
  | .inf s =>
    (bitsOfInt w (clampI clamp (if s then intMin signed w else intMax signed w)), FlagBits.nv)
  | .fin s m e =>
    let r := roundToInt mode s m e
    let z := satInt signed w r.1
    let fl := if z != r.1 then FlagBits.nv else if r.2 then FlagBits.nx else FlagBits.none
    (bitsOfInt w (clampI clamp z), fl)

/-- An integer source under MOD: absolute value and negation on the exact integer (R78). -/
def Mods.srcI (m : Mods) (z : Int) : Int :=
  let z := if m.aa then (z.natAbs : Int) else z
  if m.na then -z else z

/-- Between integer formats under MOD (R147); without MOD the low bits are kept. -/
def intToInt (signed : Bool) (w : Nat) (m : Mods) (rm : RMode) (z : Int) : Nat × Flags :=
  let z1 := m.srcI z
  let r := roundToInt (m.mode rm) (decide (z1 < 0)) z1.natAbs m.scale
  let kept : Int := if m.sat then satInt signed w r.1 else intOfBits signed w (bitsOfInt w r.1)
  (bitsOfInt w (clampI m.clamp kept), if r.2 then FlagBits.nx else FlagBits.none)

/-- A float result of a conversion: an infinite source under saturate becomes the largest finite value with no flag
(R62, R78). -/
def finishCvt (f : FloatFmt) (m : Mods) (rm : RMode) (v : FVal) : Nat × Flags :=
  match v with
  | .inf s => if m.sat then (encodeFloat f (clampF m.clamp (f.largest s)), FlagBits.none) else finishF f m rm (v, FlagBits.none)
  | v => finishF f m rm (v, FlagBits.none)

/-- Convert the low bits of an element from one format to another (R62), with the MOD steps of R78 and R147.
E2M1X is neither source nor destination of an instruction's conversion (R110, R147). -/
def convert (src dst : Fmt) (m : Mods) (rm : RMode) (bits : Nat) : Nat × Flags :=
  match floatOf src, floatOf dst with
  | some fs, some fd => finishCvt fd m rm (m.srcA (decodeFloat fs bits))
  | some fs, none =>
    floatToInt (fmtSigned dst) (fmtBits dst) (m.mode rm) m.clamp ((m.srcA (decodeFloat fs bits)).scale m.scale)
  | none, some fd =>
    finishCvt fd m rm (FVal.ofInt (m.srcI (intOfBits (fmtSigned src) (fmtBits src) bits)))
  | none, none =>
    intToInt (fmtSigned dst) (fmtBits dst) m rm (intOfBits (fmtSigned src) (fmtBits src) bits)

/-- The exact value of an element of any format but E2M1X: a float decodes, an integer is exact (R52, R53). -/
def valueOf (f : Fmt) (bits : Nat) : FVal :=
  match floatOf f with
  | some ff => decodeFloat ff bits
  | none => FVal.ofInt (intOfBits (fmtSigned f) (fmtBits f) bits)

/-! ### E2M1X (R56 to R59) -/

/-- Twice the grid magnitude of code bits [2:0] (R57). -/
def grid2 (c : Nat) : Nat :=
  match c % 8 with
  | 0 => 0 | 1 => 1 | 2 => 2 | 3 => 3 | 4 => 4 | 5 => 6 | 6 => 8 | _ => 12

/-- A zero without its sign: no code of a block decodes to −0 (R57). -/
def FVal.plusZero (v : FVal) : FVal := if v.isZero then .zero false else v

/-- An element of a block with scale S and spare P (R57). A spare of ±0 makes the element +0. -/
def decodeE2 (S P code : Nat) : FVal :=
  if S == 255 then .nan
  else if code % 16 == 8 then ((decodeFloat .e4m3 P).scale ((S : Int) - 127)).plusZero
  else .fin (code / 8 % 2 == 1 && grid2 code != 0) (grid2 code) ((S : Int) - 128)

/-- Units of the packing arithmetic: every scaled input is a multiple of 2^−300. -/
def packUnit : Nat := 300

/-- A magnitude m × 2^e × 2^(127 − S) in units of 2^−300; exact for FP32 inputs. -/
def packMag (S m : Nat) (e : Int) : Nat := m <<< (e + 127 - S + packUnit).toNat

/-- The grid code nearest a magnitude in packing units, saturating at 6; a tie goes to the code whose bits end in 0. -/
def nearestGrid (y : Nat) : Nat :=
  let g (c : Nat) : Nat := grid2 c <<< (packUnit - 1)
  (List.range 8).foldl (fun best c =>
    let db := if y ≥ g best then y - g best else g best - y
    let dc := if y ≥ g c then y - g c else g c - y
    if dc < db then c else if dc == db && c % 2 == 0 then c else best) 0

/-- A packed block: 64 codes, S, P and the flags (R59). -/
structure Packed where
  codes : List Nat
  S : Nat
  P : Nat
  flags : Flags
  deriving DecidableEq, Repr

/-- Distance of two signed magnitudes in packing units. -/
def signedDist (s : Bool) (x : Nat) (t : Bool) (y : Nat) : Nat :=
  if s == t then (if x ≥ y then x - y else y - x) else x + y

/-- The procedure of R59 on 64 FP32 values. -/
def packBlock (xs : List FVal) : Packed :=
  if xs.any (fun x => x.isNaN || x.isInf) then ⟨xs.map (fun _ => 0), 255, 0, FlagBits.nv⟩
  else
    let parts : List (Bool × Nat × Int) := xs.map (fun x => match x with | .fin s m e => (s, m, e) | _ => (false, 0, 0))
    if parts.all (fun p => p.2.1 == 0) then ⟨xs.map (fun _ => 0), 127, 0, FlagBits.none⟩
    else
      let top : Int := parts.foldl (fun t p => if p.2.1 == 0 then t else max t ((p.2.1.log2 : Int) + p.2.2)) (-1000)
      let S : Nat := (top - 2 + 127).toNat
      let ys : List (Bool × Nat) := parts.map (fun p => (p.1, packMag S p.2.1 p.2.2))
      let gs : List (Bool × Nat × Nat × Nat) := ys.map (fun y =>
        let c := nearestGrid y.2
        let g := grid2 c <<< (packUnit - 1)
        (y.1, y.2, c, if y.2 ≥ g then y.2 - g else g - y.2))
      let worst := gs.foldl (fun (b : Bool × Nat × Nat) q => if q.2.2.2 > b.2.2 then (q.1, q.2.1, q.2.2.2) else b)
        (match gs with | q :: _ => (q.1, q.2.1, q.2.2.2) | [] => (false, 0, 0))
      let pr := roundFloat .e4m3 .nearest false (.fin worst.1 worst.2.1 (-(packUnit : Int)))
      let P := encodeFloat .e4m3 pr.1
      let ps : Bool × Nat := match decodeFloat .e4m3 P with
        | .fin s m e => (s, m <<< (e + packUnit).toNat)
        | _ => (false, 0)
      let codes := gs.map (fun q =>
        let base := if q.2.2.1 == 0 then 0 else (if q.1 then 8 else 0) + q.2.2.1
        if signedDist q.1 q.2.1 ps.1 ps.2 < q.2.2.2 then 8 else base)
      let exact := (codes.zip ys).all (fun cy =>
        match decodeE2 127 P cy.1 with
        | .fin s m e => m <<< (e + packUnit).toNat == cy.2.2 && (cy.2.2 == 0 || s == cy.2.1)
        | _ => false)
      ⟨codes, S, P, if exact then FlagBits.none else FlagBits.nx⟩

/-! ### FP32 steps and the summation tree (R66) -/

/-- Rne32(a + b) on bit patterns. -/
def add32 (a b : Nat) : Nat × Flags :=
  let x := addX .nearest (decodeFloat .fp32 a) (decodeFloat .fp32 b)
  let r := rne32 x.1
  (r.1, x.2 ||| r.2)

/-- Rne32(a − b). -/
def sub32 (a b : Nat) : Nat × Flags :=
  let x := addX .nearest (decodeFloat .fp32 a) (decodeFloat .fp32 b).neg
  let r := rne32 x.1
  (r.1, x.2 ||| r.2)

/-- Rne32(a × b). -/
def mul32 (a b : Nat) : Nat × Flags :=
  let x := mulX (decodeFloat .fp32 a) (decodeFloat .fp32 b)
  let r := rne32 x.1
  (r.1, x.2 ||| r.2)

/-- Rne32(a / b). -/
def div32 (a b : Nat) : Nat × Flags :=
  let x := divX (decodeFloat .fp32 a) (decodeFloat .fp32 b)
  let r := rne32 x.1
  (r.1, x.2 ||| r.2)

/-- Rne32(a × b + c), one rounding; product and sum judged each on its own operands (R63). -/
def fma32 (a b c : Nat) : Nat × Flags :=
  let p := mulX (decodeFloat .fp32 a) (decodeFloat .fp32 b)
  let x := addX .nearest p.1 (decodeFloat .fp32 c)
  let r := rne32 x.1
  (r.1, p.2 ||| x.2 ||| r.2)

/-- An exact change of format to FP32 bits (R62, first row). -/
def toFp32 (f : Fmt) (bits : Nat) : Nat := (rne32 (valueOf f bits)).1

/-- One level of the tree: neighbours added pairwise. -/
def treeLevel : List Nat → List Nat × Flags
  | a :: b :: rest =>
    let r := add32 a b
    let t := treeLevel rest
    (r.1 :: t.1, r.2 ||| t.2)
  | xs => (xs, FlagBits.none)

/-- The levels of the tree; six are enough for 64 values. -/
def treeLoop : Nat → List Nat → Flags → Nat × Flags
  | 0, xs, fl => (xs.headD 0, fl)
  | k + 1, xs, fl =>
    match xs with
    | [x] => (x, fl)
    | xs => let t := treeLevel xs; treeLoop k t.1 (fl ||| t.2)

/-- Tree(v, n) for n = 16, 32 or 64 FP32 bit patterns (R66). -/
def tree (xs : List Nat) : Nat × Flags := treeLoop 7 xs FlagBits.none

/-- Energy(r) of a 64-lane FP32 span (R66). -/
def energy (xs : List Nat) : Nat × Flags :=
  let ws := xs.map (fun x => mul32 x x)
  let t := tree (ws.map Prod.fst)
  (t.1, orFlags (ws.map Prod.snd) ||| t.2)

/-! ### Exact block sums (R67) and trim (R68) -/

/-- One more term in an exact sum; the flag is NV for ∞ − ∞. A NaN stays. The sign of an exact zero is immaterial. -/
def sumX (acc : FVal × Flags) (p : FVal × Flags) : FVal × Flags :=
  let s := addX .nearest acc.1 p.1
  (s.1, acc.2 ||| p.2 ||| s.2)

/-- The exact sum of products of one block: NaN and NV when it holds infinities of both signs or ∞ × 0, an infinity when
it holds infinities of one sign (R67). -/
def blockSum (as bs : List FVal) : FVal × Flags :=
  let ps := (as.zip bs).map (fun ab => mulX ab.1 ab.2)
  let fl := orFlags (ps.map Prod.snd)
  let pos := ps.any (fun p => p.1 == .inf false)
  let neg := ps.any (fun p => p.1 == .inf true)
  let nan := ps.any (fun p => p.1.isNaN)
  let fl := if pos && neg then fl ||| FlagBits.nv else fl
  if nan || (pos && neg) then (.nan, fl)
  else if pos then (.inf false, fl)
  else if neg then (.inf true, fl)
  else (((ps.map Prod.fst).foldl (fun a p => (addX .nearest a p).1) (FVal.zero false)), fl)

/-- c + p with the single rounding of R67; an exact finite zero p leaves c unchanged, but a NaN in c gives
the canonical NaN. -/
def blockAdd (c : Nat) (p : FVal × Flags) : Nat × Flags :=
  if p.1.isZero && !(decodeFloat .fp32 c).isNaN then (c, p.2)
  else
    let x := addX .nearest (decodeFloat .fp32 c) p.1
    let r := rne32 x.1
    (r.1, p.2 ||| x.2 ||| r.2)

/-- Zero the low min(t, w − 1) bits of a w-bit magnitude (R68). -/
def trimMag (t w m : Nat) : Nat :=
  let k := min t (w - 1)
  m / 2 ^ k * 2 ^ k

/-- Trim of an A element of a format other than E2M1X (R68). The magnitude of a float is its mantissa with the hidden
bit; an element whose magnitude becomes zero is an exact zero. -/
def trimValue (f : Fmt) (t : Nat) (bits : Nat) : FVal :=
  match f, floatOf f with
  | _, some ff =>
    match decodeFloat ff bits with
    | .fin s m e => .fin s (trimMag t ff.prec m) e
    | v => v
  | _, none =>
    let z := intOfBits (fmtSigned f) (fmtBits f) bits
    .fin (decide (z < 0)) (trimMag t 8 z.natAbs) 0

/-- The grid value as significand × 2^exponent, the significand being hidden bit and mantissa bit of the code; 0.5 is the
subnormal 0b01 (R68, log 43). -/
def gridSig (c : Nat) : Nat × Int :=
  match c % 8 with
  | 0 => (0, 0) | 1 => (1, -1) | 2 => (2, -1) | 3 => (3, -1)
  | 4 => (2, 0) | 5 => (3, 0) | 6 => (2, 1) | _ => (3, 1)

/-- Trim of an E2M1X element: the spare as an E4M3 magnitude, a grid code by its significand of two bits (R68). -/
def trimE2 (t S P code : Nat) : FVal :=
  if S == 255 then .nan
  else if code % 16 == 8 then ((trimValue .e4m3 t P).scale ((S : Int) - 127)).plusZero
  else
    let g := gridSig code
    .fin (code / 8 % 2 == 1) (trimMag t 2 g.1) (g.2 + (S : Int) - 127)

end Sys2Proof.Machine
end

