-- ==== Sys2Proof/Machine/Lanes.lean ====
section
/-!
DEFINITION. Vector register values and the lane computations of the vector instructions (R52, R58, R120 to R149), as
functions of register values and a guard. Waiting, full bits, tag checks and fault order are Operands.lean's.
-/
namespace Sys2Proof.Machine

/-- The contents of a vector register: lanes, format tag (a code of R52) and side word (R120). -/
structure VReg where
  bits : BitVec 1024
  tag : BitVec 4
  side : Word
  deriving DecidableEq, Repr

/-- The register of R23 and R120: zero lanes, tag I64, zero side word. -/
def VReg.zero : VReg := ⟨0, 0, 0⟩

/-- The format of a register's tag; `none` for a reserved code, which only a frame that software wrote can hold. -/
def VReg.fmt? (r : VReg) : Option Fmt := Fmt.ofCode r.tag.toNat

/-- Lane n of width w in a bit pattern (R52). -/
def laneAt (w bits n : Nat) : Nat := bits >>> (w * n) % 2 ^ w

/-- The lanes 0 to n − 1. -/
def lanesOf (w n bits : Nat) : List Nat := (List.range n).map (laneAt w bits)

/-- The bit pattern of a list of lanes, lane 0 lowest. -/
def packLanes (w : Nat) : List Nat → Nat
  | [] => 0
  | x :: xs => x % 2 ^ w + 2 ^ w * packLanes w xs

/-- The lanes of a register read in format f. -/
def VReg.lanes (r : VReg) (f : Fmt) : List Nat := lanesOf (fmtBits f) (fmtLanes f) r.bits.toNat

/-- The guard bit that enables lane n of L (R123). -/
def guardBit (L n : Nat) : Nat :=
  if L == 128 then n / 2 else if L == 256 then n / 4 else n

/-- Is lane n of L enabled (R123)? -/
def laneOn (g : Word) (L n : Nat) : Bool := g.toNat.testBit (guardBit L n)

/-- Which lanes of a format are enabled. -/
def enabled (g : Word) (f : Fmt) : List Bool := (List.range (fmtLanes f)).map (laneOn g (fmtLanes f))

/-- Every lane enabled. -/
def allOn (g : Word) (f : Fmt) : Bool := (enabled g f).all id

/-- Some lane enabled. -/
def anyOn (g : Word) (f : Fmt) : Bool := (enabled g f).any id

/-- The lanes of a result: computed where enabled, the old lane elsewhere (R124). -/
def mergeLanes (en : List Bool) (new old : List Nat) : List Nat :=
  (en.zip (new.zip old)).map (fun x => if x.1 then x.2.1 else x.2.2)

/-- The side word after a write of result format f: zero unless the format is E2M1X, where `keep` stands (R121). -/
def sideAfter (f : Fmt) (keep : Word) : Word := if f == .e2m1x then keep else 0

/-- The destination after a write of the lanes `new` in format f under guard g (R124, R121). -/
def writeLanes (g : Word) (f : Fmt) (new : List Nat) (old : VReg) : VReg :=
  let merged := mergeLanes (enabled g f) new (old.lanes f)
  ⟨BitVec.ofNat 1024 (packLanes (fmtBits f) merged), BitVec.ofNat 4 f.code, sideAfter f old.side⟩

/-- Flags of the enabled lanes, ORed (R128). -/
def laneFlags (en : List Bool) (fl : List Flags) : Flags :=
  orFlags ((en.zip fl).map (fun x => if x.1 then x.2 else 0))

/-- A lane-by-lane operation of two sources: the lanes and their flags. -/
def map2Lanes (f : Fmt) (op : Nat → Nat → Nat × Flags) (a b : VReg) : List (Nat × Flags) :=
  ((a.lanes f).zip (b.lanes f)).map (fun x => op x.1 x.2)

/-- A lane-by-lane operation of one source. -/
def map1Lanes (f : Fmt) (op : Nat → Nat × Flags) (a : VReg) : List (Nat × Flags) := (a.lanes f).map op

/-- Write computed lanes with their flags. -/
def writeComputed (g : Word) (f : Fmt) (rs : List (Nat × Flags)) (old : VReg) : VReg × Flags :=
  (writeLanes g f (rs.map Prod.fst) old, laneFlags (enabled g f) (rs.map Prod.snd))

/-- Integer lane operation: exact result, low bits or Sat (R130). -/
def intLane (f : Fmt) (sat : Bool) (op : Int → Int → Int) (a b : Nat) : Nat × Flags :=
  let w := fmtBits f
  let sg := fmtSigned f
  let z := op (intOfBits sg w a) (intOfBits sg w b)
  (bitsOfInt w (if sat then satInt sg w z else z), 0)

/-- Shift lane operations with count b mod w (R130). -/
def shlLane (f : Fmt) (a b : Nat) : Nat × Flags := ((a <<< (b % fmtBits f)) % 2 ^ fmtBits f, 0)
def shrLane (f : Fmt) (a b : Nat) : Nat × Flags := (a >>> (b % fmtBits f), 0)
/-- The signedness of the shift follows the tag: sign fill for I tags, zero fill for N tags (R130, log 30). -/
def sarLane (f : Fmt) (a b : Nat) : Nat × Flags :=
  let w := fmtBits f
  (bitsOfInt w (intOfBits (fmtSigned f) w a / ((2 ^ (b % w) : Nat) : Int)), 0)

/-- Minimum and maximum by the tag's signedness (R130). -/
def intMinOp (a b : Int) : Int := min a b
def intMaxOp (a b : Int) : Int := max a b

/-- A guard value from lane conditions: bit n where lane n is enabled and the condition holds (R132, R133). -/
def guardOfLanes (en : List Bool) (cs : List Bool) : Word :=
  BitVec.ofNat 64 (packLanes 1 ((en.zip cs).map (fun x => if x.1 && x.2 then 1 else 0)))

/-- Lane conditions of VCMP and VICMP (R132). -/
def cmpLanes (f : Fmt) (cc : Nat) (a b : VReg) : List Bool :=
  ((a.lanes f).zip (b.lanes f)).map (fun x =>
    match floatOf f with
    | some ff => condFloat cc (decodeFloat ff x.1) (decodeFloat ff x.2)
    | none =>
      condInt cc (intOfBits (fmtSigned f) (fmtBits f) x.1) (intOfBits (fmtSigned f) (fmtBits f) x.2) x.1 x.2)

/-- A lane that is not zero; a float lane is zero when it is ±0 (R133). -/
def laneNonZero (f : Fmt) (x : Nat) : Bool :=
  match floatOf f with
  | some ff => !(decodeFloat ff x).isZero
  | none => x != 0

/-- VEXTR's scalar: sign-extended for the I formats, zero-extended otherwise (R136). -/
def extractLane (f : Fmt) (x : Nat) : Word :=
  if fmtSigned f then BitVec.ofInt 64 (intOfBits true (fmtBits f) x) else BitVec.ofNat 64 x

/-- VPERM's index tags (R138). -/
def permTagOk (a b : Fmt) : Bool :=
  fmtIsInt b && fmtBits a == fmtBits b

/-- Lanes of VPERM (R138). -/
def permLanes (f : Fmt) (a : VReg) (idx : List Nat) : List Nat :=
  let L := fmtLanes f
  idx.map (fun i => laneAt (fmtBits f) a.bits.toNat (i % L))

/-- Lanes of VSLIDE by the signed count k from the sequence lower, a, upper (R139); a register that k does not reach may
be any value. -/
def slideLanes (f : Fmt) (k : Int) (lower a upper : VReg) : List Nat :=
  let L := fmtLanes f
  let w := fmtBits f
  (List.range L).map (fun (n : Nat) =>
    let p : Int := (L : Int) + (n : Int) + k
    if p < 0 || p ≥ 3 * (L : Int) then 0
    else
      let q := p.toNat
      if q < L then laneAt w lower.bits.toNat q
      else if q < 2 * L then laneAt w a.bits.toNat (q - L)
      else laneAt w upper.bits.toNat (q - 2 * L))

/-- VCOMP: the enabled lanes moved down, zeros above (R141). -/
def compLanes (en : List Bool) (xs : List Nat) : List Nat :=
  let kept := ((en.zip xs).filter (fun x => x.1)).map Prod.snd
  kept ++ List.replicate (xs.length - kept.length) 0

/-- VEXPD: the lanes of a handed out to the enabled lanes in order (R141); the value at a disabled lane is not used. -/
def expdLanes : List Bool → List Nat → List Nat
  | [], _ => []
  | true :: en, x :: xs => x :: expdLanes en xs
  | true :: en, [] => 0 :: expdLanes en []
  | false :: en, xs => 0 :: expdLanes en xs

/-- The value n in a format of VIOTA (R142); exact. -/
def iotaLane (f : Fmt) (n : Nat) : Nat :=
  match floatOf f with
  | some ff => encodeFloat ff (.fin false n 0)
  | none => n

/-- The side word of VZERO with E2M1X: blocks whose sixteen guard bits are all enabled get S = 127, P = 0 (R143). -/
def zeroSide (g : Word) (old : Word) : Word :=
  BitVec.ofNat 64 (packLanes 16 ((List.range 4).map (fun b =>
    if g.toNat / 2 ^ (16 * b) % 2 ^ 16 == 2 ^ 16 - 1 then 127 else old.toNat / 2 ^ (16 * b) % 2 ^ 16)))

/-- Lane conversion of VCVT (R147): the first min(La, Ld) elements, zero above. A conversion to the source's own format
without MOD fields copies the lanes. -/
def cvtLanes (src dst : Fmt) (m : Mods) (rm : RMode) (a : VReg) : List (Nat × Flags) :=
  let La := fmtLanes src
  (List.range (fmtLanes dst)).map (fun n =>
    if n < La then
      let x := laneAt (fmtBits src) a.bits.toNat n
      if src == dst && m.keeps then (x, 0) else convert src dst m rm x
    else (0, 0))

/-- The side pair of block b: S in the low byte, P in the high byte (R58). -/
def sidePair (side : Word) (b : Nat) : Nat × Nat :=
  (side.toNat / 2 ^ (16 * b) % 256, side.toNat / 2 ^ (16 * b + 8) % 256)

/-- Is block b named by guard bit 16 b (R148, R149)? -/
def blockOn (g : Word) (b : Nat) : Bool := g.toNat.testBit (16 * b)

/-- VPACK (R148): blocks whose guard bit is set are packed from the four sources, the others stand. -/
def packRegs (g : Word) (src : Nat → VReg) (old : VReg) : VReg × Flags :=
  let blk (b : Nat) : Nat × Nat × Flags :=
    if blockOn g b then
      let p := packBlock (((src b).lanes .bf16).map (fun x => decodeFloat .bf16 x))
      (packLanes 4 p.codes, p.S + 256 * p.P, p.flags)
    else (laneAt 256 old.bits.toNat b, laneAt 16 old.side.toNat b, 0)
  let bs := (List.range 4).map blk
  (⟨BitVec.ofNat 1024 (packLanes 256 (bs.map (fun x => x.1))), 12,
    BitVec.ofNat 64 (packLanes 16 (bs.map (fun x => x.2.1)))⟩, orFlags (bs.map (fun x => x.2.2)))

/-- One destination of VUNPK: block b of an E2M1X register as BF16 (R149). -/
def unpackBlock (a : VReg) (b : Nat) : VReg × Flags :=
  let sp := sidePair a.side b
  let codes := lanesOf 4 64 (laneAt 256 a.bits.toNat b)
  let rs := codes.map (fun c => rne16 (decodeE2 sp.1 sp.2 c))
  (⟨BitVec.ofNat 1024 (packLanes 16 (rs.map Prod.fst)), 8, 0⟩, orFlags (rs.map Prod.snd))

/-- A −0 in FP32: what a disabled lane contributes to a tree (R146). -/
def negZero32 : Nat := 2 ^ 31

/-- VRSUM of a float register (R146). -/
def rsumFloat (f : Fmt) (g : Word) (a : VReg) : Nat × Flags :=
  tree ((((enabled g f).zip (a.lanes f)).map (fun x => if x.1 then toFp32 f x.2 else negZero32)))

/-- VDOT of float registers (R146). -/
def rdotFloat (f : Fmt) (g : Word) (a b : VReg) : Nat × Flags :=
  let ws := ((enabled g f).zip ((a.lanes f).zip (b.lanes f))).map (fun x =>
    if x.1 then mul32 (toFp32 f x.2.1) (toFp32 f x.2.2) else (negZero32, (0 : Flags)))
  let t := tree (ws.map Prod.fst)
  (t.1, orFlags (ws.map Prod.snd) ||| t.2)

/-- Exact integer sums, low 64 bits (R146). -/
def rsumInt (f : Fmt) (g : Word) (a : VReg) : Nat :=
  bitsOfInt 64 (((enabled g f).zip (a.lanes f)).foldl
    (fun z x => if x.1 then z + intOfBits (fmtSigned f) (fmtBits f) x.2 else z) 0)

def rdotInt (f : Fmt) (g : Word) (a b : VReg) : Nat :=
  bitsOfInt 64 (((enabled g f).zip ((a.lanes f).zip (b.lanes f))).foldl
    (fun z x => if x.1 then
        z + intOfBits (fmtSigned f) (fmtBits f) x.2.1 * intOfBits (fmtSigned f) (fmtBits f) x.2.2 else z) 0)

/-- VRMAX and VRMIN of a float register: R108 over the enabled lanes, −∞ or +∞ when there is none (R146). The running
value starts at the identity; a NaN lane is passed over, and lanes that are all NaN give the canonical NaN. -/
def rextFloat (isMax : Bool) (f : Fmt) (g : Word) (a : VReg) : Nat :=
  let vs := (((enabled g f).zip (a.lanes f)).filter (fun x => x.1)).map (fun x => valueOf f x.2)
  match vs with
  | [] => encodeFloat .fp32 (.inf isMax)
  | v :: vs => encodeFloat .fp32 (vs.foldl (fun acc x => if isMax then maxX acc x else minX acc x) v)

/-- VRMAX and VRMIN of an integer register (R146). -/
def rextInt (isMax : Bool) (f : Fmt) (g : Word) (a : VReg) : Nat :=
  let sg := fmtSigned f
  let w := fmtBits f
  let start := if isMax then intMin sg w else intMax sg w
  bitsOfInt 64 (((enabled g f).zip (a.lanes f)).foldl
    (fun z x => if x.1 then (if isMax then max z (intOfBits sg w x.2) else min z (intOfBits sg w x.2)) else z) start)

end Sys2Proof.Machine
end

