-- ==== Sys2Proof/Machine/Pieces.lean ====
section
/-!
DEFINITION. The parts of the module's state as plain data: contexts, cores, piers, decks, engine jobs, messages, virtual
devices, jobs, launches, queues, counters, translation, fabric and management items. State.lean puts them together.

Numbers. A pier is y × 200 + x (R9), a core is pier × 8 + core, a context is core × 4 + context. Virtual addresses, local
physical addresses and ids are Nat; register contents are words.
-/
namespace Sys2Proof.Machine

/-- Bytes in address order. -/
abbrev Bytes := List Byte

/-- A byte memory: addresses strictly rising, no cell equal to what an unlisted address reads as, which is zero (log 2). -/
abbrev Mem := List Host.Cell

/-- A table keyed by number, keys strictly rising. -/
abbrev KMap (α : Type) := List (Nat × α)

/-- The causes of R377. -/
inductive Cause where
  | none | illegal | privilege | emptyRead | format | address | page | writeProtect | leaseViolation | purity | budget
  | handlerOverrun | handlerBlock | overflowFull | badEntry | badAtom | frameWait | frameExhausted | fabricUnknown
  | memerr | cancelled | trap | preempted
  deriving DecidableEq, Repr

/-- The code of a cause (R377). -/
def Cause.code : Cause → Nat
  | .none => 0 | .illegal => 1 | .privilege => 2 | .emptyRead => 3 | .format => 4 | .address => 5 | .page => 6
  | .writeProtect => 7 | .leaseViolation => 8 | .purity => 9 | .budget => 10 | .handlerOverrun => 11
  | .handlerBlock => 12 | .overflowFull => 13 | .badEntry => 14 | .badAtom => 15 | .frameWait => 16
  | .frameExhausted => 17 | .fabricUnknown => 18 | .memerr => 19 | .cancelled => 20 | .trap => 21 | .preempted => 22

/-- The cause of a code; codes above 0x0016 are reserved (R377). -/
def Cause.ofCode : Nat → Option Cause
  | 0 => some .none | 1 => some .illegal | 2 => some .privilege | 3 => some .emptyRead | 4 => some .format
  | 5 => some .address | 6 => some .page | 7 => some .writeProtect | 8 => some .leaseViolation | 9 => some .purity
  | 10 => some .budget | 11 => some .handlerOverrun | 12 => some .handlerBlock | 13 => some .overflowFull
  | 14 => some .badEntry | 15 => some .badAtom | 16 => some .frameWait | 17 => some .frameExhausted
  | 18 => some .fabricUnknown | 19 => some .memerr | 20 => some .cancelled | 21 => some .trap | 22 => some .preempted
  | _ => none

/-! ### Contexts -/

/-- What a fault entry was started for (R378, R379, R381). -/
inductive EntryKind where
  | unit | notice | handlerRecord
  deriving DecidableEq, Repr

/-- What a context runs: nothing, a unit (level 0), a handler (1), a fault entry (2) or firmware (3) (R97). -/
inductive Role where
  | idle | unit | handler | entry (k : EntryKind) | firmware
  deriving DecidableEq, Repr

/-- What follows once a context has stopped (R25, R43, R262, R380): the fault entry runs on it, the pager has the cause, the
unit is parked, the entry is abandoned and its unit parked, or the unit becomes DONE with the cause. -/
inductive StopKind where
  | deliver | pager | park | abandon | finish
  deriving DecidableEq, Repr

/-- A stop in progress: the context has stopped at a boundary and is not yet saved (R43, R44, R387). -/
structure Stop where
  kind : StopKind
  cause : Cause
  code : Nat
  faddr : Word
  fpc : Word
  resume : Nat
  pfx : List IWord
  /-- State and cause are in the record; the frame waits for the pools (R44). -/
  held : Bool
  deriving DecidableEq, Repr

/-- How the bytes of a completed load reach their register (R92, R122). -/
inductive LoadDst where
  /-- A scalar: size in bytes, sign extension. -/
  | scalar (d : SReg) (size : Nat) (signed : Bool)
  /-- A scalar result that is no load's: of RECV or of a vector instruction (R93). -/
  | word (d : SReg)
  /-- A vector: format, guard, whether the side word is kept (LDV of E2M1X, R164). -/
  | vector (d : VNum) (f : Fmt) (g : Word) (keep : Bool)
  deriving DecidableEq, Repr

/-- A long-latency producer in flight (R92, R93): its bytes so far, the remote requests it still waits for, and the MEMERR
its data carry (R389). -/
structure PendLoad where
  dst : LoadDst
  bytes : Bytes
  /-- (remote request, first byte of its answer, offset in `bytes`, count) still outstanding. -/
  need : List (Nat × Nat × Nat × Nat)
  memerr : Option Word
  fpc : Nat
  deriving DecidableEq, Repr

/-- A handle binding: record address, read-only flag, and the copy of the record (R274, R292). -/
structure Handle where
  addr : Nat
  ro : Bool
  copy : Bytes
  deriving DecidableEq, Repr

/-- A hardware context (R21, R91 to R98, R120, R274). -/
structure Ctx where
  role : Role
  /-- Scalar registers by number; an unlisted one holds zero. -/
  s : KMap Word
  /-- Bit n is set when s n is empty (R91). -/
  sEmpty : BitVec 64
  v : KMap VReg
  vEmpty : BitVec 32
  k : KMap Word
  kEmpty : BitVec 8
  h : KMap Handle
  pc : Nat
  /-- Prefix words of the group that have issued (R46, R75). -/
  pfx : List IWord
  flags : Flags
  rmode : BitVec 2
  urgency : BitVec 32
  budget : BitVec 32
  stkbase : Word
  frame : Word
  cause : Word
  faddr : Word
  fpc : Word
  enck : BitVec 4
  enctau : BitVec 32
  enceps : BitVec 32
  encdict : BitVec 2
  lastjob : BitVec 16
  handlercap : BitVec 9
  /-- The virtual device, job, launch and unit index it runs for (TENANT, JOBID, LAUNCHID, UNITIDX). -/
  vd : Nat
  tenant : BitVec 16
  jobid : BitVec 32
  launchid : BitVec 32
  unitidx : BitVec 32
  /-- Address of the record of the unit, notice or trapped handler; 0 for none. -/
  record : Nat
  strict : Bool
  pure : Bool
  coresUnit : Bool
  loads : List PendLoad
  stop : Option Stop
  /-- A pre-emption request has reached the core and takes the next boundary (R49). -/
  preemptReq : Bool
  /-- A cancellation takes the next boundary (R25). -/
  cancelReq : Bool
  /-- A MEMERR that takes the next boundary (R389): FADDR and the address of the load's group. -/
  memerr : Option (Word × Nat)
  /-- First unknown remote outcome not yet reported (R386, R387). -/
  unknown : Option Word
  /-- No group issues until every remote access has its outcome (R254, R364). -/
  fencing : Bool
  /-- That fence acquires at FABRIC scope: the pier's CACHE lines go once the outcomes are there (R254, R364). -/
  fenceLines : Bool
  /-- Its store found too little room in the store buffer for its several entries: it waits for an empty one (R358). -/
  sbWait : Bool
  /-- The pier FIFO that its QPUSH or QPOP waits on, and whether it pops (R322). -/
  fifoWait : Option (Nat × Bool)
  /-- An END waits in R116 and has discarded the commands held on empty guards (R74). -/
  ending : Bool
  /-- The outcome of a CNEW, EXPECT or CWAIT request of this group, once the slice has replied (R345). -/
  reply : Option (List Word)
  /-- A request of this group is at a slice, the pager or a remote owner (R267, R345, R353). -/
  asked : Bool
  /-- The context waits without issuing for the pager: a handler's, entry's or firmware's PAGE (R380). -/
  pageWait : Bool
  /-- Reserved for the co-resident launch of this id (R39, R40). -/
  reserved : Option Nat
  /-- The record of a co-resident unit that stands on this reserved context while it is suspended (R40). -/
  heldUnit : Option Nat
  /-- The context has freed and has not yet popped its deque (R32). -/
  freed : Bool
  /-- It asked a victim for a record and waits for it (R32). -/
  stealing : Bool
  /-- MODEL: its next group is only tried, to see whether it can issue (R21); set in no state that a step leaves. -/
  probe : Bool
  deriving DecidableEq, Repr

/-! ### Memory operations in flight -/

/-- Where one byte range of an access is performed (R151, R241, R246). -/
inductive Loc where
  /-- A scratchpad: core, offset. -/
  | spad (core : Nat) (off : Nat)
  /-- This module's memory: local physical address. -/
  | here (pa : Nat)
  /-- A peer's memory: prefix, local physical address there, held in a CACHE line or not. -/
  | there (prefix20 : Nat) (pa : Nat) (cache : Bool)
  deriving DecidableEq, Repr

/-- Place of a handle element while a conversion may cover its tile (R279): virtual device, record, virtual address of the
tile's header, local and virtual address of the tile, element size, Tag read, i, j, and the module of the tile where that is
not this one. -/
structure TilePlace where
  vd : Nat
  record : Nat
  hdr : Nat
  tile : Nat
  va : Nat
  w : Nat
  tag : Nat
  i : Nat
  j : Nat
  far : Option Nat
  deriving DecidableEq, Repr

/-- A store-buffer entry (R358): the bytes of one granule, line or scalar store, with their place. -/
structure SbEntry where
  ctx : Nat
  /-- Where each byte is performed, and its value. -/
  cells : List (Loc × Byte)
  /-- Generic address of each of these bytes (R390). -/
  addrs : List Nat
  /-- Set the touched granules full when performed (qualifiers 10 and 11, R155). -/
  fill : Bool
  /-- Set or clear granule bits only (FESET, R171): core, first granule, count, value. -/
  feset : Option (Nat × Nat × Nat × Bool)
  /-- Headers of the tracked tiles that this write advances (R159). -/
  hdrs : List Nat
  /-- Handle placement, when the bytes follow a tile's layout (R279). -/
  place : List (TilePlace × Bytes)
  /-- The next entry is of the same store and is performed with this one in one operation (R159, R165, R277). -/
  more : Bool
  deriving DecidableEq, Repr

/-- What a remote request is for, and who takes its answer (R384, R385, R404). -/
inductive RemoteFor where
  /-- A load, ATOM or CAS of a context's producer list. -/
  | load (ctx : Nat)
  /-- A store of a context. -/
  | store (ctx : Nat)
  /-- An operand, fetch or walk read of a context, or an engine read, keyed by its agent. -/
  | operand (agent : Nat)
  /-- A write of an engine agent (R370). -/
  | engine (agent : Nat)
  /-- An ATOM or CAS of another module that was queued at the old owner: source prefix, number, address here (R249). -/
  | forward (src seq pa : Nat)
  /-- A page part on its way: virtual device, address, frame, and the tables that splitting may use (R396). -/
  | page (vd va frame : Nat) (tables : List Nat)
  deriving DecidableEq, Repr

/-- The kind of a remote request: flit kinds 1 to 4 of R404, and the page pull. -/
inductive RemoteKind where
  | read | write | atom | cas | pull
  deriving DecidableEq, Repr

/-- A remote access that left the module (R384, R385). -/
structure RemoteReq where
  uid : Nat
  target : Nat
  seq : Nat
  kind : RemoteKind
  pa : Nat
  size : Nat
  data : Bytes
  opw : Word
  cmpw : Word
  who : RemoteFor
  /-- Global virtual address, for FABRIC_UNKNOWN (R386). -/
  va : Nat
  /-- CACHE line to fill: deck, pier (R247). -/
  fillFor : Option (Nat × Nat)
  /-- How often it was sent; 0 while it waits for an earlier access to the same bytes or for a free number (R356, R384). -/
  attempts : Nat
  port : Nat
  deriving DecidableEq, Repr

/-- Bytes that arrived for an operand or engine read and were not yet taken (R429). -/
structure Arrived where
  agent : Nat
  target : Nat
  pa : Nat
  bytes : Bytes
  /-- Its outcome is unknown (R385), or its data are poisoned (R389). -/
  fault : Option Cause
  /-- Virtual address of the request. -/
  va : Nat
  deriving DecidableEq, Repr

/-! ### Messages -/

/-- A message on the mesh or held at an ingress (R314): source and destination core, its words, header word first. -/
structure Msg where
  src : Nat
  dst : Nat
  words : List (BitVec 32)
  /-- SEND or SENDC job to complete on acceptance: pier, job id (R316). -/
  job : Option (Nat × Nat)
  vd : Nat
  jobid : Nat
  /-- MODEL: its place among all that the mesh ever carried (R15, R320). -/
  seq : Nat
  deriving DecidableEq, Repr

/-- A DVER announcement (R229): dictionary id, version, changed atoms, and the DVER job to complete. -/
structure Announce where
  src : Nat
  pier : Nat
  id : Nat
  ver : Nat
  atoms : List Nat
  job : Option (Nat × Nat)
  /-- MODEL: its place among all that the mesh ever carried. -/
  seq : Nat
  deriving DecidableEq, Repr

/-- A mesh item in the order its source core sent it (R15). -/
inductive MeshItem where
  | msg (m : Msg)
  | ann (a : Announce)
  deriving DecidableEq, Repr

/-- A posted receive (R317). -/
structure Recv where
  job : Nat
  vd : Nat
  jobid : Nat
  stk : Nat
  strict : Bool
  pure : Bool
  launch : Nat
  level : Nat
  descr : Nat
  buffer : Nat
  tag : Nat
  anyTag : Bool
  anySrc : Bool
  srcCore : Nat
  sink : Bool
  code : Bool
  cap : Nat
  deriving DecidableEq, Repr

/-- A finished or outstanding receive as RECV sees it (R328, R329): job, who posted it, its status word once valid. -/
structure RecvState where
  job : Nat
  unit : Nat
  ctx : Nat
  vd : Nat
  core : Nat
  status : Option Word
  deriving DecidableEq, Repr

/-- An entry of the overflow queue: the message and the cause of its envelope (R315, R320). -/
structure OvMsg where
  msg : Msg
  cause : Cause
  deriving DecidableEq, Repr

/-- A delivery into a receive that is not over (R430): how many words of the message there are, how many are written, and
whether it waits on PAGE. -/
structure Delivery where
  recv : Recv
  msg : Msg
  avail : Nat
  done : Nat
  paged : Bool
  deriving DecidableEq, Repr

/-! ### Engine jobs -/

/-- The pier engines a command can enter (R84, R203, R300). -/
inductive Engine where
  | matrix | span | copy | message
  deriving DecidableEq, Repr

/-- The engine commands of R84. -/
inductive Cmd where
  | copy | copyg | zscan | zscanIb
  | cgath (o16 : Bool)
  | cscat (scl : Bool) (kind : ScatKind) (o16 : Bool)
  | trld | trfree
  | mma (trim : Nat) (ow : Bool)
  | acrd | acwr | acz | wmark
  | accvt (sat : Bool) (f : BitVec 4)
  | dinst | datom | dver | dret | dqry | enc | dec | acci | imgbld | imginv | imgld
  | send | sendc | sendcM | post
  deriving DecidableEq, Repr

/-- Who an engine job, a receive or an access acts for: the checks of R242 and R262 need it. -/
structure Who where
  vd : Nat
  level : Nat
  launch : Nat
  strict : Bool
  pure : Bool
  /-- STKBASE captured at issue (R84, R153). -/
  stk : Nat
  /-- The core whose scratchpad and micro-TLB are used. -/
  core : Nat
  deriving DecidableEq, Repr

/-- The statuses of R172 and R206. -/
inductive JStat where
  | running | done | faulted | discarded | error | parkedVersion | stale
  /-- It will be ERROR once its writes at other modules have their outcomes (R372, R374); until then it reads as RUNNING. -/
  | failing
  deriving DecidableEq, Repr

def JStat.code : JStat → Nat
  | .running => 0 | .done => 1 | .faulted => 2 | .discarded => 3 | .error => 4 | .parkedVersion => 5 | .stale => 6 | .failing => 0

/-- An engine job on its pier (R84, R172). -/
structure Job where
  id : Nat
  eng : Engine
  cmd : Cmd
  core : Nat
  ctx : Nat
  /-- Record address of the issuing unit; 0 for a receive-started ACCI (R236). -/
  unit : Nat
  who : Who
  jobid : Nat
  a : Word
  b : Word
  /-- Register of DQRY or WMARK still to be written (R84). -/
  dreg : Option SReg
  /-- Held on this guard of the issuing context until it fills (R74). -/
  held : Option Guard
  enck : Nat
  enctau : Nat
  enceps : Nat
  encdict : Nat
  inq : Bool
  started : Bool
  status : JStat
  flags : Flags
  cause : Cause
  faddr : Word
  /-- Template, descriptor or record bytes read at start or issue. -/
  tmpl : Bytes
  tmpl2 : Bytes
  list : List Nat
  /-- Steps, sectors, rows, spans or requests completed. -/
  prog : Nat
  prog2 : Nat
  bytesDone : Nat
  /-- Address of the claimed ring slot (R175). -/
  ring : Option Nat
  /-- Working values: partial sums, output row, message words. -/
  work : List Nat
  msg : Option Msg
  ver : Nat
  dictId : Nat
  /-- Image buffer that the current term holds in use (R223). -/
  use : Option Nat
  /-- SEND or SENDC whose words are all injected and not yet accepted (R316). -/
  sent : Bool
  /-- Released from PARKED_VERSION and waiting to restart (R221). -/
  released : Bool
  /-- Its ERROR or flags were already merged or reported (R65, R382). -/
  reported : Bool
  deriving DecidableEq, Repr

/-! ### Pier, core and deck -/

/-- A cached leaf: virtual base, page bytes, leaf word, level of a system-only flag is in the leaf (R257). -/
structure TlbEntry where
  base : Nat
  size : Nat
  leaf : Nat
  deriving DecidableEq, Repr

/-- A walk-cache entry: root, level 1 to 3, virtual address prefix at that level, table address (R257). -/
structure WalkEntry where
  root : Nat
  lvl : Nat
  pre : Nat
  table : Nat
  deriving DecidableEq, Repr

/-- A core (R10, R21, R358, R392). -/
structure Core where
  /-- The store buffer, oldest entry first. Entries from the seventeenth on have not entered yet: they are the rest of a store
  that needs more than sixteen (R358). -/
  sb : List SbEntry
  cycles : BitVec 64
  mweight : BitVec 4
  utlb : List TlbEntry
  halted : Bool
  stepping : Bool
  /-- The context that issued last, for the round robin of R21. -/
  lastIssue : Nat
  /-- How often the group that issued last has been replayed (R69). -/
  replays : Nat
  /-- Code stream: messages of stream-mode ENC not yet taken, each with its words so far and whether ENC has ended it, and
  whether it ended with ERROR (R216). -/
  stream : List (Nat × List (BitVec 32) × Bool × Bool)
  ingress : List Msg
  deriving DecidableEq, Repr

/-- A B slot of the truss bank: state, format code and side field (R182). -/
structure Slot where
  loaded : Bool
  fmt : BitVec 4
  side : Bytes
  deriving DecidableEq, Repr

/-- State of a dictionary slot (R208). -/
inductive DState where
  | empty | installing | ready
  deriving DecidableEq, Repr

/-- A dictionary slot (R208). -/
structure DSlot where
  state : DState
  id : Nat
  ver : Nat
  n : Nat
  row : Nat
  descr : Nat
  atomArr : Nat
  deriving DecidableEq, Repr

/-- A tracked dictionary id (R219). -/
structure Tracked where
  id : Nat
  newest : Nat
  oldest : Nat
  held : List Announce
  deriving DecidableEq, Repr

/-- An entry of the pier image table (R222). -/
structure ImgEntry where
  id : Nat
  s : Nat
  j : Nat
  vlo : Nat
  vhi : Nat
  buf : Nat
  /-- Order of last use by an ACCI (R223). -/
  lru : Nat
  deriving DecidableEq, Repr

/-- A record waiting in a deque (R31). -/
structure DqEntry where
  urgency : Nat
  record : Nat
  vd : Nat
  deriving DecidableEq, Repr

/-- A pier (R10, R96, R182, R186, R187, R208, R219, R222, R300, R322, R352). -/
structure Pier where
  owner : Option Nat
  trsplit : Nat
  split : Nat
  /-- Cores whose later matrix commands wait for E = T (R184). -/
  splitWait : List Nat
  slots : KMap Slot
  marks : KMap Nat
  jobs : List Job
  nextJob : Nat
  dslots : KMap DSlot
  tracked : List Tracked
  images : KMap ImgEntry
  imgClock : Nat
  /-- Released jobs and ends of the table controller happen in arrival order. -/
  recvs : List (Nat × Recv)
  recvStates : List RecvState
  overflow : List (Nat × OvMsg)
  deliveries : List (Nat × Delivery)
  /-- Messages held at the pier ingress for lack of entries (R320). -/
  held : List Msg
  fullRaised : Bool
  /-- Announcements held at the ingress behind sixteen held ones (R220). -/
  annHeld : List Announce
  fifos : KMap (List Word)
  deque : List DqEntry
  dqWait : List DqEntry
  stealr : Nat
  events : KMap (BitVec 64)
  freq : Nat
  overScaled : Bool
  entries : KMap Nat
  tlb : List TlbEntry
  rotM : Nat × Nat
  rotE : Nat × Nat
  rotA : Nat × Nat
  rotC : Nat × Nat
  rotP : Nat × Nat
  poweredDown : Bool
  deriving DecidableEq, Repr

/-- A held CACHE line of a remote page: target prefix, line address, bytes, pier it is tagged with (R247). -/
structure CacheLine where
  target : Nat
  pa : Nat
  bytes : Bytes
  pier : Nat
  deriving DecidableEq, Repr

/-- A deck: counters, home-cache lines of remote pages, walk cache, packet processors' verified triples, telemetry and
boot state (R161, R257, R306, R339, R407, R412). -/
structure Deck where
  lines : List CacheLine
  walks : List WalkEntry
  triples : List (Nat × Nat × Bytes)
  booted : Bool
  junction : BitVec 16
  power : BitVec 32
  cacheCorr : BitVec 64
  hbmCorr : BitVec 64
  uncorr : BitVec 64
  stopped : Bool
  throttle : BitVec 8
  discards : BitVec 64
  deriving DecidableEq, Repr

/-! ### Virtual devices, jobs, launches, queues, counters -/

/-- A completion record whose pier field is still that of the source: its slot, its job, the pier there and here (R393). -/
structure RecFix where
  slot : Nat
  id : Nat
  old : Nat
  new : Nat
  deriving DecidableEq, Repr

/-- A virtual device: its piers in (y, x) order, tables and pools (R44, R237, R244, R255, R285). -/
structure VDev where
  piers : List Nat
  root : Nat
  peerTab : Nat
  tracking : Nat
  migThresh : Nat
  tenant : Nat
  recPool : List Nat
  framePool : List Nat
  stackPool : List Nat
  reuseBase : Nat
  reuseQuota : Nat
  reuseFree : List Nat
  /-- The co-resident launch that is reserving contexts (R39). -/
  reserving : Option Nat
  /-- Admitted co-resident launches that wait to reserve, in admission order (R39). -/
  coresQ : List Nat
  /-- Quiesce has begun (R394). -/
  quiesced : Bool
  /-- The module it has moved to; the module it came from, while pages are still there (R396, R398). -/
  movedTo : Option Nat
  movedFrom : Option Nat
  /-- Completion records of carried jobs that stand on pages still to be pulled (R393). -/
  recFixes : List RecFix
  /-- Tables of 4 KiB that the pager keeps for the virtual device's page table (R237). -/
  tablePool : List Nat
  /-- Hosts enrolled for its queues are named by their queue. -/
  jobs : List Nat
  deriving DecidableEq, Repr

/-- A job (R24, R263, R290, R339, JOB_ADMISSION). -/
structure JobRec where
  vd : Nat
  tenant : Nat
  fentry : Nat
  handlers : Bool
  entryTab : Nat
  counterQuota : Nat
  frameQuota : Nat
  cancelled : Bool
  cause : Cause
  deriving DecidableEq, Repr

/-- A lease range (R261). -/
structure LeaseRange where
  base : Nat
  pages : Nat
  write : Bool
  deriving DecidableEq, Repr

/-- The phase of a launch's life after admission. -/
inductive LPhase where
  | generating | coresWait | running | ending | recording | ended
  deriving DecidableEq, Repr

/-- A copy of a reuse hit (R286): the unit's record, what the matched entry gave when it passed its check (virtual device, stored
result records, their generations), and the sectors copied. -/
structure ReuseCopy where
  record : Nat
  vd : Nat
  stored : List Bytes
  gens : List Nat
  done : Nat
  deriving DecidableEq, Repr

/-- An admitted launch (R308 to R311). -/
structure Launch where
  vd : Nat
  jobid : Nat
  queue : Nat
  seq : Nat
  deck : Nat
  phase : LPhase
  pkt : Bytes
  units : Nat
  next : Nat
  /-- Next index for units that SPAWN and FORK create (R27). -/
  spawnNext : Nat
  /-- Generated records still walking or waiting in deques (R310). -/
  unplaced : List Nat
  /-- Record addresses of the launch's live units. -/
  live : List Nat
  leases : KMap LeaseRange
  retired : Nat
  status : Nat
  cause : Cause
  /-- Pure launches: argument and result records, code hash, M up to the unit index (R284). -/
  args : List Bytes
  results : List Bytes
  argAddrs : List Nat
  resAddrs : List Nat
  codeHash : Bytes
  msgM : Bytes
  argGens : List Nat
  /-- A reuse copy in progress (R286). -/
  reuseCopy : Option ReuseCopy
  /-- Indices that were cancelled before they were generated (R25, R351). -/
  skip : List Nat
  deriving DecidableEq, Repr

/-- Where a packet stands in R308: not looked at, the checks of step 2, ACQ, the dependences, the pure list, the ranges, the
launch id; or its completion record is on its way (R311). -/
inductive PktWait where
  | check | acq | depend | pure | leases | number | record
  deriving DecidableEq, Repr

/-- What the packet processor has read for the packet it admits (R306, R308): ranges, argument and result records with their
addresses, the code hash, whether the pager has pinned the ranges, and the status and cause that the packet ends with. -/
structure PktInfo where
  ranges : List LeaseRange
  args : List Bytes
  results : List Bytes
  argAddrs : List Nat
  resAddrs : List Nat
  hash : Bytes
  granted : Bool
  status : Nat
  cause : Cause
  /-- MODEL: the packet's record is written, or there is none to write. -/
  written : Bool
  deriving DecidableEq, Repr

/-- A user launch queue (R302 to R304). -/
structure Queue where
  vd : Nat
  jobid : Nat
  ring : Nat
  logSize : Nat
  regPa : Nat
  deck : Nat
  widx : Nat
  ridx : Nat
  error : Bool
  enabled : Bool
  host : Option Nat
  /-- The packet being admitted, its sequence number, and the step it waits in. -/
  pkt : Option (Nat × Bytes)
  wait : PktWait
  info : PktInfo
  /-- Sequence numbers of earlier packets whose completion record is not yet written (ACQ, R308). -/
  pending : List Nat
  /-- Graph counters that were cancelled, with WIDX at that time: earlier packets that name one are dropped (R351). -/
  drops : List (Nat × Nat)
  deriving DecidableEq, Repr

/-- The kinds of a counter (R340). -/
inductive CKind where
  | plain | phase | level
  deriving DecidableEq, Repr

/-- What a waiter waits for (R342, R348). -/
inductive WaitCond where
  | zero
  | le (b : Int)
  | phaseNot (p : Nat)
  deriving DecidableEq, Repr

/-- A waiter: virtual device, record address, pier where it suspended, condition (R340). -/
structure Waiter where
  vd : Nat
  record : Nat
  pier : Nat
  cond : WaitCond
  deriving DecidableEq, Repr

/-- A counter entry (R340). -/
structure Counter where
  owner : Nat
  phase : Nat
  base : Nat
  kind : CKind
  cancelled : Bool
  value : Int
  waiters : List Waiter
  /-- Allocated by a CNEW that has not issued (R345). -/
  provisional : Bool
  deriving DecidableEq, Repr

/-- The operations that reach a counter slice (R341, R345). -/
inductive CtrOp where
  | add (v : Int)
  | arrive (n : Nat)
  | cancelLevel (kind : Nat) (idx : Nat)
  | cnew (phase : Bool) (deck : Nat) (v : Int)
  | cfree
  | expect (phase : Nat) (n : Nat)
  | cwait (c : WaitCond)
  deriving DecidableEq, Repr

/-- A counter operation on its way to a slice: source context, target id, operation (R345). -/
structure CtrReq where
  ctx : Nat
  record : Nat
  jobid : Nat
  level : Nat
  id : Nat
  op : CtrOp
  deriving DecidableEq, Repr

/-- A fault found at a counter slice, raised at the next FENCE or END of its source (R345): virtual device, record (0 for a
handler), context, level. -/
structure SliceFault where
  vd : Nat
  record : Nat
  ctx : Nat
  level : Nat
  cause : Cause
  faddr : Word
  deriving DecidableEq, Repr

/-- A reuse-table entry: (set, way) is the key of its map (R282). -/
structure Reuse where
  key : Bytes
  tag : Bytes
  tenant : Nat
  summary : Nat
  vd : Nat
  lru : Nat
  deriving DecidableEq, Repr

/-- A record in the placement network: record, virtual device, pier where it stands (R29, R30). -/
structure Walk where
  record : Nat
  vd : Nat
  pier : Nat
  /-- It has been offered to the pier it stands at, so that it moves on. -/
  offered : Bool
  deriving DecidableEq, Repr

/-- A relayout in progress (R280). -/
structure Conv where
  vd : Nat
  record : Nat
  base : Nat
  shadow : Nat
  tiles : Nat
  w : Nat
  tag : Nat
  target : Nat
  /-- The step of R280: 1 pinning, 3 converting, 5 draining, 6 finishing; 0 for an entry that is kept for a RELAYOUT whose CAS is at
  the record's module (R294). -/
  step : Nat
  done : List Nat
  acks : List Nat
  /-- Records of conversions that shared tiles with it and are over (R281). -/
  others : List Nat
  /-- Tiles that are locked: step 1 of R278 is done, step 2 is not. -/
  locked : List Nat
  deriving DecidableEq, Repr

/-- A notice waiting for firmware to place it (R379). -/
structure Notice where
  vd : Nat
  jobid : Nat
  cause : Cause
  faddr : Word
  fpc : Word
  word2 : Word
  pier : Nat
  /-- Address of its record once firmware has placed it; 0 before. -/
  record : Nat
  deriving DecidableEq, Repr

/-- A DONE unit whose launch counter waits for its started engine jobs (R25): virtual device, launch, record. -/
structure Dying where
  vd : Nat
  launch : Nat
  record : Nat
  deriving DecidableEq, Repr

/-- A shoot-down in progress: issuing context, range (none for all), piers still to invalidate and to acknowledge (R259). -/
structure Shoot where
  ctx : Option Nat
  vd : Nat
  range : Option (Nat × Nat)
  todo : List Nat
  acks : List Nat
  deriving DecidableEq, Repr

/-- A page in transfer at its owner (R249): page base address here, size, new owner, held writes and queued atomics. A held
write has its source: the prefix of another module, or `heldBy` of an agent of this one. -/
structure Transfer where
  pa : Nat
  size : Nat
  vd : Nat
  va : Nat
  toPeer : Nat
  toPrefix : Nat
  toPa : Nat
  heldWrites : List (Nat × Nat × Bytes)
  queued : List RemoteReq
  /-- Writes of other modules that are held, to acknowledge at hand-over: source prefix, number, address. -/
  acks : List (Nat × Nat × Nat)
  handed : Bool
  deriving DecidableEq, Repr

/-- The target's window of one stream: numbers performed with their kept replies, and the highest number (R384). -/
structure Stream where
  top : Nat
  seen : List (Nat × Bytes)
  deriving DecidableEq, Repr

/-- A firmware image (R407, R409): its public key, its bytes, its signature, its security version, and, in a loader, the key
hash that it holds for the stage after it. -/
structure Image where
  key : Bytes
  body : Bytes
  sig : Bytes
  secver : Nat
  next : Bytes
  deriving DecidableEq, Repr

/-- The boot chain of one deck's controller: whether its ROM runs, two flash slots for each of stages 1 and 2 with the number
of the active one, measurements, and the images that have booted (R407, R409). -/
structure Boot where
  romOk : Bool
  slots1 : List Image
  slots2 : List Image
  active1 : Nat
  active2 : Nat
  meas : List Bytes
  bootedImages : List Image
  deriving DecidableEq, Repr

/-- A storage transfer in progress (R403). -/
structure Storage where
  vd : Nat
  base : Nat
  bytes : Nat
  ring : Nat
  write : Bool
  /-- Controller, namespace, first block. -/
  nvme : List Nat
  /-- The cause and the address for which the transfer is refused. -/
  refused : Option (Cause × Nat)
  /-- MODEL: its number among the transfers in progress, the record's slot once it is claimed, and once the controller has ended:
  its success and the bytes moved. -/
  tag : Nat
  slot : Option Nat
  ended : Option (Bool × Nat)
  deriving DecidableEq, Repr

/-- A page's access counters at this owner, by local page address: peer number to count (R248). -/
structure PageCount where
  vd : Nat
  va : Nat
  counts : KMap Nat
  deriving DecidableEq, Repr

/-- Advice passed to the pager and not yet applied (R269). -/
structure Advice where
  vd : Nat
  unit : Nat
  base : Nat
  pages : Nat
  kind : Nat
  arg : Word
  deriving DecidableEq, Repr

/-- A LEASE request at the pager (R267): context, launch, range, and whether it is resident. -/
structure LeaseReq where
  record : Nat
  launch : Nat
  range : LeaseRange
  ready : Bool
  deriving DecidableEq, Repr

/-- What firmware gives a pier with a grant (R184, R186, R237, R255, R301). -/
structure GrantCfg where
  vd : Nat
  piers : List Nat
  root : Nat
  peerTab : Nat
  tracking : Nat
  /-- MIGTHRESH; 0 leaves it at its reset value, 256 (R248). -/
  migThresh : Nat
  tenant : Nat
  recPool : List Nat
  framePool : List Nat
  stackPool : List Nat
  reuseBase : Nat
  reuseQuota : Nat
  tablePool : List Nat
  deriving DecidableEq, Repr

/-- What a job admission sets (JOB_ADMISSION, R22, R96, R263, R290). -/
structure JobCfg where
  vd : Nat
  deck : Nat
  fentry : Nat
  handlers : Bool
  entryTab : Nat
  counterQuota : Nat
  frameQuota : Nat
  deriving DecidableEq, Repr

/-- What one pier gives to a relocation (R395): its own state, its dictionaries (slot, descriptor as it stands in memory, atoms), and its cores with their scratchpads and empty granules. -/
structure PierImage where
  pier : Pier
  dicts : List (Nat × Bytes × Bytes)
  cores : List (Core × Mem × List Nat)
  deriving DecidableEq, Repr

/-- A read-duplicated range of a virtual device (R251): base and pages, the peer number of its duplicate master (0 for this module),
whether its advice allows splitting, and writes. -/
structure DupRange where
  vd : Nat
  base : Nat
  pages : Nat
  master : Nat
  split : Bool
  writes : Bool
  deriving DecidableEq, Repr

/-- The state of a virtual device on its way to another module (R395): where it comes from and goes to; the numbers of its
piers; memory that is carried, by virtual address; every leaf with the module that holds its frame; its piers; its other
items; and which context each co-resident unit keeps. -/
structure VdImage where
  fromPrefix : Nat
  fromVd : Nat
  toVd : Nat
  piers : List Nat
  areas : List (Nat × Bytes)
  leaves : List (Nat × Nat × Nat)
  states : List PierImage
  recPool : List Nat
  framePool : List Nat
  stackPool : List Nat
  counters : KMap Counter
  jobs : KMap JobRec
  launches : KMap Launch
  queues : KMap Queue
  walkers : List Walk
  notices : List Notice
  places : List (Nat × Nat × Nat)
  taints : List (Nat × Nat)
  sliceFaults : List SliceFault
  reserved : List (Nat × Option Nat × Option Nat)
  reserving : Option Nat
  coresQ : List Nat
  /-- The advice on duplication, with the prefix of its master where that is not the source. -/
  dupRanges : List (DupRange × Option Nat)
  deriving DecidableEq, Repr

/-- A collapse that this module, as duplicate master, serves or has still to serve (R252): the written address, the prefix of
the writer, its frame of the 64 KiB page, whether its page is pinned, a table that splitting may use, whether the service has
begun, and the modules still to acknowledge. -/
structure Collapse where
  vd : Nat
  va : Nat
  writer : Nat
  frame : Nat
  pinned : Bool
  table : Nat
  begun : Bool
  todo : List Nat
  deriving DecidableEq, Repr

/-- What a train of system flits carries (R404, kind 9): collapse requests, their acknowledgements and completions, the advice on a
duplicated range, a page with its new place, relocation state, counter reads. A virtual device is named by its tenant: its number is
that of its own module (log 65). -/
inductive SysMsg where
  | collapseReq (tenant va frame : Nat) (pinned : Bool)
  | collapseDone (tenant va : Nat)
  | collapse (tenant va writer frame : Nat) (split : Bool)
  | collapseAck (tenant va : Nat)
  | advice (tenant base pages : Nat) (split writes : Bool)
  | page (tenant va pa size : Nat) (data : Bytes)
  | relocDrain (vd : Nat)
  | relocState (img : VdImage)
  | relocAck (vd : Nat) (ok : Bool) (kept : List (Nat × Nat))
  | accnt (tag pa peer : Nat)
  | accntReply (tag : Nat) (count : Nat) (migrate : Bool)
  /-- The page of the counter is at another place now (R249). -/
  | accntFwd (tag target pa peer : Nat)
  /-- A tile that ZSCAN has its home scan, or whose index base ZSCAN.ib sets there, and the answer (R179). -/
  | zscan (tag pa : Nat) (ib : Option Word)
  | zscanReply (tag : Nat) (bad : Bool)
  deriving DecidableEq, Repr

/-- A flit that leaves the module, or an answer to a host (R402, R404). A flit has its target, the prefix of its source, its kind, number,
address and size, its words 2 and 3, its data of at most 256 bytes, and Retry and Combined. A system message is the content of a
train of flits of kind 9, each with at most 8 data beats and this module's prefix as its source; R404 gives their content no
form (log 96). An NVMe command names controller, namespace and first block, its direction, its length, and a write's data (R403). -/
inductive OutMsg where
  | flit (target src kind seq pa size : Nat) (w2 w3 : Word) (data : Bytes) (retry combined : Bool)
  | system (target : Nat) (m : SysMsg)
  | hostAnswer (host : Nat) (ok : Bool) (data : Bytes)
  | hostReclaim (vd : Nat) (va : Nat)
  | nvme (place : List Nat) (write : Bool) (n : Nat) (data : Bytes)
  | mgmt (ok : Bool) (words : List Word)
  | report (nonce serial meas config sig : Bytes)
  deriving DecidableEq, Repr

/-! ### What an event brings with it -/

/-- A Viaduct flit that arrives (R404). -/
structure Flit where
  target : Nat
  src : Nat
  pa : Nat
  seq : Nat
  size : Nat
  retry : Bool
  combined : Bool
  /-- MODEL: it goes on with a request whose earlier flits were counted on this page and on this tile (R159, R248). -/
  onPage : Bool
  onTile : Bool
  w2 : Word
  w3 : Word
  data : Bytes
  deriving DecidableEq, Repr

/-- What the pager did with a cause (R242, R264, R380): stores to tables (local physical address, 64-bit word) and a retry, the
cause passed on, a wait for a frame, or no frame at all. -/
inductive PagerAns where
  | resolved (stores : List (Nat × Word))
  | passOn
  | frameWait
  | exhausted
  deriving DecidableEq, Repr

/-- Whom a pager answer is for: a FAULTED unit by record, a context that waits without issuing, or an engine job. -/
inductive PagerFor where
  | unit (vd : Nat) (record : Nat)
  | ctx (c : Nat)
  | job (pier : Nat) (id : Nat)
  deriving DecidableEq, Repr

/-- What a host's write carries (R400): flow and number for one of an ROD flow, and its bytes. -/
structure HostWrite where
  rod : Option (Nat × Nat)
  bytes : Bytes
  deriving DecidableEq, Repr

/-- A queue as management command 1 creates it (R302). -/
structure QueueCfg where
  num : Nat
  vd : Nat
  jobid : Nat
  ring : Nat
  logSize : Nat
  regPa : Nat
  deck : Nat
  host : Option Nat
  deriving DecidableEq, Repr

/-- Target of a pre-emption (R49, R391). -/
inductive PreTarget where
  | cores (pier : Nat) (mask : Nat)
  | vd (n : Nat)
  | job (id : Nat)
  deriving DecidableEq, Repr

/-- A protection unit that a scrub visits (R388): eight bytes of a scratchpad by their offset, 32 bytes of HBM, the n-th eight bytes
of a pier's truss bank or accumulator store, the n-th two norm factors, half of an image entry (unit 2e or 2e + 1), a
home-cache tag, or eight bytes of home-cache data by their local address. -/
inductive ScrubUnit where
  | spad (core off : Nat)
  | hbm (pa : Nat)
  | truss (pier unit : Nat)
  | acc (pier unit : Nat)
  | norm (pier unit : Nat)
  | image (pier unit : Nat)
  | cacheTag (deck set : Nat)
  | cacheData (pa : Nat)
  deriving DecidableEq, Repr

/-- What the scrub found (R388, R389): nothing, a corrected error, an uncorrectable one, or an uncorrectable one in a dirty line of
the home cache. -/
inductive ScrubFind where
  | clean | corrected | uncorrectable | dirty
  deriving DecidableEq, Repr

/-- A cached translation or line that its structure drops (R258: a TLB may hold an entry for any length of time). -/
inductive DropTlb where
  | micro (core : Nat) (base : Nat)
  | pier (pier : Nat) (base : Nat)
  | walk (deck : Nat) (table : Nat)
  | line (deck : Nat) (pa : Nat)
  deriving DecidableEq, Repr

end Sys2Proof.Machine
end

