-- ==== Sys2Proof/Syntax.lean ====
section
/-!
DEFINITION. The instructions, prefixes and events of spec/opcode_table.json, one constructor a row.

An instruction carries its operand record; a prefix its 24 low bits; an event what it brings from outside and what the
spec leaves to chance or to firmware (which agent moves, what the pager decided, the bits that a flit carries). An event
has no encoding.
-/
namespace Sys2Proof
open Sys2Proof.Machine

/-- One constructor per row of the opcode table; the number after each is the rule of spec/ that the table cites. -/
inductive Instr where
  | illegal (x : BitVec 24)  -- ILLEGAL, R87
  | nop  -- NOP, R88
  | add (o : R3)  -- ADD, R101
  | sub (o : R3)  -- SUB, R101
  | mul (o : R3)  -- MUL, R101
  | mulh (o : R3)  -- MULH, R101
  | mulhn (o : R3)  -- MULHN, R101
  | div (o : R3)  -- DIV, R102
  | divn (o : R3)  -- DIVN, R102
  | rem (o : R3)  -- REM, R102
  | remn (o : R3)  -- REMN, R102
  | and (o : R3)  -- AND, R101
  | or (o : R3)  -- OR, R101
  | xor (o : R3)  -- XOR, R101
  | shl (o : R3)  -- SHL, R101
  | shr (o : R3)  -- SHR, R101
  | sar (o : R3)  -- SAR, R101
  | rot (o : R3)  -- ROT, R101
  | min (o : R3)  -- MIN, R101
  | max (o : R3)  -- MAX, R101
  | minn (o : R3)  -- MINN, R101
  | maxn (o : R3)  -- MAXN, R101
  | clz (o : R2)  -- CLZ, R101
  | popc (o : R2)  -- POPC, R101
  | bfx (o : R3)  -- BFX, R103
  | bfi (o : R3)  -- BFI, R103
  | sel (o : R3)  -- SEL, R103
  | lea (o : R3)  -- LEA, R101
  | mov (o : R2)  -- MOV, R101
  | addi (o : I2)  -- ADDI, R104
  | andi (o : I2)  -- ANDI, R104
  | ori (o : I2)  -- ORI, R104
  | xori (o : I2)  -- XORI, R104
  | shli (o : ISh)  -- SHLI, R104
  | shri (o : ISh)  -- SHRI, R104
  | sari (o : ISh)  -- SARI, R104
  | movi (o : ID)  -- MOVI, R104
  | muli (o : I2)  -- MULI, R104
  | cmp (o : RCmp)  -- CMP, R105
  | cmpn (o : RCmp)  -- CMPN, R105
  | cmpi (o : ICmp)  -- CMPI, R105
  | cmpni (o : ICmp)  -- CMPNI, R105
  | kand (o : K3)  -- KAND, R106
  | kor (o : K3)  -- KOR, R106
  | kxor (o : K3)  -- KXOR, R106
  | knot (o : K2)  -- KNOT, R106
  | kmov (o : K2)  -- KMOV, R106
  | kget (o : KG)  -- KGET, R106
  | kclr (o : KD)  -- KCLR, R106
  | fadd (o : R3)  -- FADD, R107
  | fsub (o : R3)  -- FSUB, R107
  | fmul (o : R3)  -- FMUL, R107
  | ffma (o : R3)  -- FFMA, R107
  | fdiv (o : R3)  -- FDIV, R107
  | fsqrt (o : R2)  -- FSQRT, R107
  | fcmp (o : RCmp)  -- FCMP, R109
  | fcvtTo (o : RCvt)  -- FCVT_TO, R110
  | fcvtFrom (o : RCvt)  -- FCVT_FROM, R110
  | fmin (o : R3)  -- FMIN, R108
  | fmax (o : R3)  -- FMAX, R108
  | br (o : BOff)  -- BR, R111
  | brl (o : BOff)  -- BRL, R111
  | jr (o : RA)  -- JR, R111
  | jrl (o : R2)  -- JRL, R111
  | loop (o : ID)  -- LOOP, R112
  | trap (code : BitVec 11)  -- TRAP, R113
  | susp (o : EA)  -- SUSP, R114
  | yieldUnit  -- YIELD, R115
  | endUnit  -- END, R116
  | getc (o : IGet)  -- GETC, R117
  | setc (o : ISet)  -- SETC, R117
  | rdcyc (o : RD)  -- RDCYC, R118
  | vadd (o : V3)  -- VADD, R128
  | vsub (o : V3)  -- VSUB, R128
  | vmul (o : V3)  -- VMUL, R128
  | vfma (o : V3)  -- VFMA, R128
  | vmin (o : V3)  -- VMIN, R128
  | vmax (o : V3)  -- VMAX, R128
  | vdiv (o : V3)  -- VDIV, R128
  | vsqrt (o : V2)  -- VSQRT, R129
  | vrcp (o : V2)  -- VRCP, R129
  | vrsq (o : V2)  -- VRSQ, R129
  | vexp2 (o : V2)  -- VEXP2, R129
  | vlog2 (o : V2)  -- VLOG2, R129
  | vcmp (o : VCmp)  -- VCMP, R132
  | viadd (o : V3)  -- VIADD, R130
  | visub (o : V3)  -- VISUB, R130
  | vimul (o : V3)  -- VIMUL, R130
  | vand (o : V3)  -- VAND, R131
  | vor (o : V3)  -- VOR, R131
  | vxor (o : V3)  -- VXOR, R131
  | vshl (o : V3)  -- VSHL, R130
  | vshr (o : V3)  -- VSHR, R130
  | vsar (o : V3)  -- VSAR, R130
  | vimin (o : V3)  -- VIMIN, R130
  | vimax (o : V3)  -- VIMAX, R130
  | vicmp (o : VCmp)  -- VICMP, R132
  | vmov (o : V2)  -- VMOV, R134
  | vbcast (o : VSF)  -- VBCAST, R135
  | vextr (o : VEx)  -- VEXTR, R136
  | vins (o : VIn)  -- VINS, R137
  | vperm (o : V3)  -- VPERM, R138
  | vslide (o : VSl)  -- VSLIDE, R139
  | vsel (o : V3)  -- VSEL, R140
  | vcomp (o : V2)  -- VCOMP, R141
  | vexpd (o : V2)  -- VEXPD, R141
  | vnz (o : VNzO)  -- VNZ, R133
  | viota (o : VF)  -- VIOTA, R142
  | vrsum (o : SV)  -- VRSUM, R146
  | vrmax (o : SV)  -- VRMAX, R146
  | vrmin (o : SV)  -- VRMIN, R146
  | vdot (o : SV2)  -- VDOT, R146
  | vcvt (o : VCv)  -- VCVT, R147
  | vpack (o : V2)  -- VPACK, R148
  | vunpk (o : V2)  -- VUNPK, R149
  | vtag (o : VF)  -- VTAG, R144
  | vsideGet (o : SV)  -- VSIDE_GET, R145
  | vsideSet (o : VS)  -- VSIDE_SET, R145
  | vzero (o : VF)  -- VZERO, R143
  | ldb (o : MOp)  -- LDB, R163
  | ldh (o : MOp)  -- LDH, R163
  | ldw (o : MOp)  -- LDW, R163
  | ldd (o : MOp)  -- LDD, R163
  | ldbn (o : MOp)  -- LDBN, R163
  | ldhn (o : MOp)  -- LDHN, R163
  | ldwn (o : MOp)  -- LDWN, R163
  | stb (o : MOp)  -- STB, R163
  | sth (o : MOp)  -- STH, R163
  | stw (o : MOp)  -- STW, R163
  | std (o : MOp)  -- STD, R163
  | ldv (o : VMem)  -- LDV, R164
  | stv (o : VMem)  -- STV, R164
  | ldx (o : XMem)  -- LDX, R166
  | stx (o : XMem)  -- STX, R166
  | tld (o : TMem)  -- TLD, R167
  | tst (o : TMem)  -- TST, R167
  | atom (o : EAtom)  -- ATOM, R168
  | cas (o : ECas)  -- CAS, R169
  | fence (o : EFence)  -- FENCE, R170
  | feset (o : EFeset)  -- FESET, R171
  | copy (o : E3)  -- COPY, R173
  | copyg (o : E3)  -- COPYG, R176
  | jwait (o : EA)  -- JWAIT, R177
  | pref (o : MPref)  -- PREF, R178
  | zscan (o : E3)  -- ZSCAN, R179
  | zscanIb (o : E3)  -- ZSCAN_IB, R179
  | cgath (o : EGath)  -- CGATH, R180
  | cscat (o : EScat)  -- CSCAT, R181
  | trld (o : E3)  -- TRLD, R195
  | trfree (o : EDA)  -- TRFREE, R196
  | mma (o : EMma)  -- MMA, R197
  | acrd (o : E3)  -- ACRD, R198
  | acwr (o : E3)  -- ACWR, R199
  | acz (o : EDA)  -- ACZ, R200
  | wmark (o : E3)  -- WMARK, R201
  | accvt (o : EAccvt)  -- ACCVT, R202
  | dinst (o : E3)  -- DINST, R225
  | datom (o : E3)  -- DATOM, R226
  | dver (o : E3)  -- DVER, R229
  | dret (o : EDA)  -- DRET, R230
  | dqry (o : E3)  -- DQRY, R231
  | enc (o : E3)  -- ENC, R227
  | dec (o : E3)  -- DEC, R228
  | acci (o : E3)  -- ACCI, R235
  | imgbld (o : E3)  -- IMGBLD, R233
  | imginv (o : E3)  -- IMGINV, R234
  | imgld (o : E3)  -- IMGLD, R232
  | send (o : E3)  -- SEND, R326
  | sendc (o : EDB)  -- SENDC, R327
  | sendcM (o : E3)  -- SENDC_M, R327
  | post (o : EDA)  -- POST, R328
  | recv (o : EDA)  -- RECV, R329
  | rcancel (o : EDA)  -- RCANCEL, R330
  | ovpop (o : E3)  -- OVPOP, R331
  | fork (o : E3)  -- FORK, R332
  | join (o : EA)  -- JOIN, R333
  | spawn (o : EDA)  -- SPAWN, R334
  | launch (o : E3)  -- LAUNCH, R335
  | qpush (o : EAB)  -- QPUSH, R336
  | qpop (o : EDA)  -- QPOP, R336
  | crwait (o : E3)  -- CRWAIT, R337
  | cnew (o : E3)  -- CNEW, R346
  | cnewPhase (o : E3)  -- CNEW_PHASE, R346
  | cnewFree (o : EDA)  -- CNEW_FREE, R346
  | cadd (o : EAB)  -- CADD, R347
  | cwait (o : E3)  -- CWAIT, R348
  | cwaitPh (o : E3)  -- CWAIT_PH, R348
  | expect (o : EExpect)  -- EXPECT, R349
  | arrive (o : EAB)  -- ARRIVE, R350
  | cancelUnit (o : EAB)  -- CANCEL_UNIT, R351
  | cancelLaunch (o : EA)  -- CANCEL_LAUNCH, R351
  | cancelGraph (o : EA)  -- CANCEL_GRAPH, R351
  | cancelPhase (o : EA)  -- CANCEL_PHASE, R351
  | cancelJob (o : EA)  -- CANCEL_JOB, R351
  | perfrd (o : EDA)  -- PERFRD, R352
  | accnt (o : E3)  -- ACCNT, R353
  | tlbinv (o : ETlb)  -- TLBINV, R266
  | tlbinvAll (o : ETlb)  -- TLBINV_ALL, R266
  | lease (o : E3)  -- LEASE, R267
  | unlease (o : EA)  -- UNLEASE, R268
  | pgadv (o : EA)  -- PGADV, R269
  | pgqry (o : EDA)  -- PGQRY, R270
  | pgqryRes (o : EDA)  -- PGQRY_RES, R270
  | hset (o : EHset)  -- HSET, R292
  | hget (o : EHget)  -- HGET, R293
  | relayout (o : EHget)  -- RELAYOUT, R294
  | rlwait (o : EHget)  -- RLWAIT, R295
  | rprobe (o : EDA)  -- RPROBE, R296
  | rinv (o : E3)  -- RINV, R297
  | chash (o : E3)  -- CHASH, R298
  | entset (o : E3)  -- ENTSET, R299
  | eretResume (o : EAB)  -- ERET_RESUME, R383
  | eretEnd (o : EB)  -- ERET_END, R383
  | eretPark  -- ERET_PARK, R383
  | preempt (o : EPre)  -- PREEMPT, R391
  | relocOut (o : E3)  -- RELOC_OUT, R398
  | relocIn (o : E3)  -- RELOC_IN, R398
  | relocDrain (o : E3)  -- RELOC_DRAIN, R398
  | dbghalt (o : EDA)  -- DBGHALT, R392
  | dbghaltResume (o : EDA)  -- DBGHALT_RESUME, R392
  | dbghaltStep (o : EDA)  -- DBGHALT_STEP, R392
  | ximm (n : BitVec 24)  -- XIMM, R76
  | modPfx (f : BitVec 24)  -- MOD, R77
  | hint (f : BitVec 24)  -- HINT, R79
  | widxWrite (q : Nat) (v : Word)  -- WIDX_WRITE, R304
  | queueRegisterWrite (q off : Nat) (v : Word)  -- QUEUE_REGISTER_WRITE, R303
  | packetAdmit (q : Nat)  -- PACKET_ADMIT, R308
  | admissionNotice (q : Nat) (ans : PagerAns)  -- ADMISSION_NOTICE, R308
  | unitGenerate (l : Nat)  -- UNIT_GENERATE, R310
  | reuseCopyDone (l : Nat)  -- REUSE_COPY_DONE, R286
  | launchComplete (l : Nat)  -- LAUNCH_COMPLETE, R311
  | recordOffer (i c : Nat)  -- RECORD_OFFER, R30
  | dequeEntryResume (p : Nat)  -- DEQUE_ENTRY_RESUME, R35
  | contextFreePop (c : Nat)  -- CONTEXT_FREE_POP, R32
  | stolenRecordArrive (c : Nat)  -- STOLEN_RECORD_ARRIVE, R32
  | budgetExhausted (c : Nat)  -- BUDGET_EXHAUSTED, R37
  | handlerOverrun (c : Nat)  -- HANDLER_OVERRUN, R22
  | preemptArrive (core : Nat)  -- PREEMPT_ARRIVE, R49
  | frameSave (c : Nat)  -- FRAME_SAVE, R387
  | framePoolSupply (c : Nat)  -- FRAME_POOL_SUPPLY, R44
  | noticeRaise (i : Nat)  -- NOTICE_RAISE, R379
  | pagerResolve (t : PagerFor) (ans : PagerAns)  -- PAGER_RESOLVE, R380
  | unitRelease (vd r p : Nat)  -- UNIT_RELEASE, R50
  | loadComplete (c i : Nat)  -- LOAD_COMPLETE, R92
  | granuleWaitIssue (c : Nat)  -- GRANULE_WAIT_ISSUE, R157
  | storeBufferDrain (core : Nat)  -- STORE_BUFFER_DRAIN, R358
  | remoteRetryTimeout (u : Nat)  -- REMOTE_RETRY_TIMEOUT, R385
  | linkDown (p : Nat)  -- LINK_DOWN, R385
  | fabricRead (f : Flit)  -- FABRIC_READ, R404
  | fabricWrite (f : Flit)  -- FABRIC_WRITE, R384
  | fabricAtom (f : Flit)  -- FABRIC_ATOM, R384
  | fabricCas (f : Flit)  -- FABRIC_CAS, R384
  | fabricReply (f : Flit)  -- FABRIC_REPLY, R404
  | fabricAck (f : Flit)  -- FABRIC_ACK, R384
  | fabricFwd (f : Flit)  -- FABRIC_FWD, R249
  | fabricPagePull (f : Flit)  -- FABRIC_PAGE_PULL, R396
  | fabricSystem (f : Flit) (m : SysMsg) (table : Nat)  -- FABRIC_SYSTEM, R404
  | flitReservedDiscard (deck kind : Nat)  -- FLIT_RESERVED_DISCARD, R404
  | migrateThreshold (pa toPa : Nat)  -- MIGRATE_THRESHOLD, R248
  | migrateHandover (pa : Nat)  -- MIGRATE_HANDOVER, R249
  | collapseRequest (vd va writer frame table master : Nat)  -- COLLAPSE_REQUEST, R252
  | shootdownPier (i p : Nat)  -- SHOOTDOWN_PIER, R259
  | shootdownAck (i p : Nat)  -- SHOOTDOWN_ACK, R259
  | relayoutStart (i : Nat) (ans : PagerAns)  -- RELAYOUT_START, R280
  | relayoutTileConvert (i t : Nat)  -- RELAYOUT_TILE_CONVERT, R278
  | relayoutDrainAck (i p : Nat)  -- RELAYOUT_DRAIN_ACK, R280
  | relayoutFinish (i : Nat)  -- RELAYOUT_FINISH, R280
  | copyJobStart (p core : Nat)  -- COPY_JOB_START, R175
  | ringClaimRetry (p core : Nat)  -- RING_CLAIM_RETRY, R323
  | copySector (p : Nat)  -- COPY_SECTOR, R174
  | copyResume (p id : Nat)  -- COPY_RESUME, R174
  | zscanTile (p core : Nat)  -- ZSCAN_TILE, R179
  | cgathRowArrive (p core row : Nat)  -- CGATH_ROW_ARRIVE, R180
  | cscatRowApply (p core row : Nat)  -- CSCAT_ROW_APPLY, R181
  | matrixAccept (p : Nat)  -- MATRIX_ACCEPT, R188
  | mmaBlock (p : Nat)  -- MMA_BLOCK, R190
  | mmaRowComplete (p : Nat)  -- MMA_ROW_COMPLETE, R191
  | trldSlotWrite (p : Nat)  -- TRLD_SLOT_WRITE, R191
  | accPortRow (p : Nat)  -- ACC_PORT_ROW, R190
  | aczTile (p : Nat)  -- ACZ_TILE, R200
  | trussBoundaryMove (p : Nat)  -- TRUSS_BOUNDARY_MOVE, R184
  | spanJobStart (p : Nat)  -- SPAN_JOB_START, R204
  | encSpan (p : Nat)  -- ENC_SPAN, R212
  | decSpan (p : Nat)  -- DEC_SPAN, R228
  | acciSpan (p : Nat)  -- ACCI_SPAN, R235
  | acciStallResume (p core : Nat)  -- ACCI_STALL_RESUME, R236
  | acciRestart (p : Nat)  -- ACCI_RESTART, R221
  | dinstGroupWrite (p : Nat)  -- DINST_GROUP_WRITE, R225
  | versionAnnounce (src p : Nat)  -- VERSION_ANNOUNCE, R220
  | spanTableCommand (p : Nat)  -- SPAN_TABLE_COMMAND, R203
  | imgldRequest (p : Nat)  -- IMGLD_REQUEST, R232
  | imgbldRequest (p : Nat)  -- IMGBLD_REQUEST, R233
  | messageCommandStart (p core : Nat)  -- MESSAGE_COMMAND_START, R313
  | messageArrive (src dst : Nat)  -- MESSAGE_ARRIVE, R318
  | ingressRelease (p : Nat)  -- INGRESS_RELEASE, R320
  | handlerDispatch (core : Nat)  -- HANDLER_DISPATCH, R321
  | deliveryPageResume (p i : Nat)  -- DELIVERY_PAGE_RESUME, R430
  | counterOpArrive (i : Nat)  -- COUNTER_OP_ARRIVE, R341
  | mgmtQueueCreate (host : Nat) (cfg : QueueCfg) (create : Bool)  -- MGMT_QUEUE_CREATE, R302
  | mgmtPreempt (host : Nat) (t : PreTarget)  -- MGMT_PREEMPT, R49
  | mgmtExchangeGrant (host vd va : Nat)  -- MGMT_EXCHANGE_GRANT, R401
  | exchangeReclaimAck (host vd va : Nat)  -- EXCHANGE_RECLAIM_ACK, R401
  | mgmtStorageTransfer (host : Nat) (cfg : Storage)  -- MGMT_STORAGE_TRANSFER, R403
  | storageTransferDone (i : Nat) (ok : Bool) (data : Bytes)  -- STORAGE_TRANSFER_DONE, R403
  | mgmtReadTelemetry (host deck : Nat)  -- MGMT_READ_TELEMETRY, R412
  | mgmtAttestation (host : Nat) (nonce : Bytes)  -- MGMT_ATTESTATION, R408
  | mgmtLoadFirmware (host deck stage : Nat) (img : Image) (raise : Bool)  -- MGMT_LOAD_FIRMWARE, R409
  | mgmtUnknownCommand (host code : Nat)  -- MGMT_UNKNOWN_COMMAND, R402
  | hostMemoryWrite (host vd va : Nat) (data : HostWrite)  -- HOST_MEMORY_WRITE, R400
  | hostMemoryRead (host vd va n : Nat)  -- HOST_MEMORY_READ, R400
  | uetUnsupportedPacket (deck : Nat)  -- UET_UNSUPPORTED_PACKET, R399
  | moduleReset  -- MODULE_RESET, R407
  | pierReset (p : Nat)  -- PIER_RESET, R154
  | firmwareGrant (cfg : GrantCfg)  -- FIRMWARE_GRANT, R186
  | thermalThrottle (deck : Nat) (temp : BitVec 16)  -- THERMAL_THROTTLE, R411
  | thermalStop (deck : Nat) (temp : BitVec 16)  -- THERMAL_STOP, R411
  | scrubPass (u : ScrubUnit) (r : ScrubFind)  -- SCRUB_PASS, R388
  | relocPagePull (vd va frame : Nat) (tables : List Nat)  -- RELOC_PAGE_PULL, R396
  | leaseRangeResident (i : Nat) (stores : List (Nat × Word))  -- LEASE_RANGE_RESIDENT, R267
  | linkUp (p : Nat)  -- LINK_UP, R385
  | jobAdmission (cfg : JobCfg)  -- JOB_ADMISSION, R263
  | pagerAdviceApply (stores : List (Nat × Word))  -- PAGER_ADVICE_APPLY, R269
  | queueErrorReset (q : Nat) (enabled : Bool)  -- QUEUE_ERROR_RESET, R304
  | pierFrequencySet (p freq : Nat)  -- PIER_FREQUENCY_SET, R11
  | overScaledModeEnable (p : Nat)  -- OVER_SCALED_MODE_ENABLE, R69
  deriving DecidableEq, Repr

end Sys2Proof
end

