-- ==== Sys2Proof/WellFormed.lean ====
section
/-!
DEFINITION. The conditions on an instruction's fields that R71, R82 and the entries put beside the field widths. A word
that breaks one raises ILLEGAL (R71), whatever its guard.
-/
namespace Sys2Proof

/-- A destination guard is not k0 (R71). -/
def kDestOk (k : KReg) : Bool := k != 0

/-- A vector field that names four registers is a multiple of 4 (R148, R149). -/
def quadOk (v : VNum) : Bool := v.toNat % 4 == 0

/-- The formats of FCVT: neither FP32 nor E2M1X (R110). -/
def fcvtFmtOk (f : Fmt) : Bool := f != .fp32 && f != .e2m1x

/-- The formats of VIOTA (R142). -/
def iotaFmtOk (f : Fmt) : Bool := f.code ≤ 8

/-- A control register number of R96. -/
def ctrlOk (n : BitVec 6) : Bool := n.toNat ≤ 25

/-- The low bits of a MOD word that are reserved (R77). -/
def modOk (f : BitVec 24) : Bool := f.toNat % 32 == 0

/-- The fields of an instruction keep the conditions that the spec puts on them. -/
def Instr.wf : Instr → Bool
  | .cmp o | .cmpn o | .fcmp o => kDestOk o.k
  | .cmpi o | .cmpni o => kDestOk o.k
  | .kand o | .kor o | .kxor o => kDestOk o.d
  | .knot o | .kmov o => kDestOk o.d
  | .kclr o => kDestOk o.d
  | .vcmp o | .vicmp o => kDestOk o.k
  | .vnz o => kDestOk o.k
  | .expect o => kDestOk o.k
  | .fcvtTo o | .fcvtFrom o => fcvtFmtOk o.f
  | .vbcast o => o.f != .e2m1x
  | .vcvt o => o.f != .e2m1x
  | .viota o => iotaFmtOk o.f
  | .vpack o => quadOk o.a
  | .vunpk o => quadOk o.d
  | .getc o => ctrlOk o.n
  | .setc o => ctrlOk o.n
  | .atom o => !(o.op == .fadd32 && !o.w32)
  | .modPfx f => modOk f
  | _ => true

end Sys2Proof
end

