-- ==== Sys2Proof/Decode.lean ====
section
/-!
DEFINITION. Decoding an instruction word (R70 to R72, R76, R77, R79, R81 to R87), and after it the encoder written from
the same tables. Decoding is total and names what it refuses; every refusal is an ILLEGAL of R71, R75 or R87.

A word is read as a number with bit 0 its least significant bit. The body is bits [23:0].
-/
namespace Sys2Proof

/-- Why a word is not an instruction (R71, R87). -/
inductive DecodeErr where
  /-- 0xFF and the reserved opcodes of R81. -/
  | reservedOpcode
  /-- A reserved field or sub6 bit is set, or a reserved code stands in a field of the word. -/
  | reservedField
  /-- A format field holds a reserved code, or its high two bits are set. -/
  | reservedFormat
  /-- A v, k or h field lies outside its class. -/
  | registerClass
  /-- A condition of Instr.wf fails. -/
  | illFormed
  deriving DecidableEq, Repr

/-- The answer of a decoder. -/
abbrev Dec := Except DecodeErr Instr

/-- A bit as a number. -/
def b2n (b : Bool) : Nat := if b then 1 else 0

/-- Is this bit of the word set? -/
def bitAt (x p : Nat) : Bool := x / p % 2 == 1

/-- Refuse unless the reserved part is zero. -/
def zeroed (n : Nat) (k : Dec) : Dec := if n = 0 then k else .error .reservedField

/-- Refuse a register field outside its class (R71). -/
def inClass (n lim : Nat) (k : Dec) : Dec := if n < lim then k else .error .registerClass

/-- Read a six-bit format field (R71). -/
def withFmt (n : Nat) (k : Fmt → Dec) : Dec :=
  match Fmt.ofCode n with
  | some f => k f
  | none => .error .reservedFormat

def dR3 (k : R3 → Instr) (x : Nat) : Dec :=
  .ok (k ⟨BitVec.ofNat 6 (x / 262144 % 64), BitVec.ofNat 6 (x / 4096 % 64), BitVec.ofNat 6 (x / 64 % 64), bitAt x 32, bitAt x 16, ⟨BitVec.ofNat 3 (x / 2 % 8), bitAt x 1⟩⟩)

def dR2 (k : R2 → Instr) (x : Nat) : Dec :=
  zeroed (x / 64 % 64) <|
  zeroed (x / 16 % 2) <|
  .ok (k ⟨BitVec.ofNat 6 (x / 262144 % 64), BitVec.ofNat 6 (x / 4096 % 64), bitAt x 32, ⟨BitVec.ofNat 3 (x / 2 % 8), bitAt x 1⟩⟩)

def dRA (k : RA → Instr) (x : Nat) : Dec :=
  zeroed (x / 262144 % 64) <|
  zeroed (x / 64 % 64) <|
  zeroed (x / 16 % 2) <|
  .ok (k ⟨BitVec.ofNat 6 (x / 4096 % 64), bitAt x 32, ⟨BitVec.ofNat 3 (x / 2 % 8), bitAt x 1⟩⟩)

def dRD (k : RD → Instr) (x : Nat) : Dec :=
  zeroed (x / 4096 % 64) <|
  zeroed (x / 64 % 64) <|
  zeroed (x / 32 % 2) <|
  zeroed (x / 16 % 2) <|
  .ok (k ⟨BitVec.ofNat 6 (x / 262144 % 64), ⟨BitVec.ofNat 3 (x / 2 % 8), bitAt x 1⟩⟩)

def dI2 (k : I2 → Instr) (x : Nat) : Dec :=
  .ok (k ⟨BitVec.ofNat 6 (x / 262144 % 64), BitVec.ofNat 6 (x / 4096 % 64), bitAt x 2048, BitVec.ofNat 11 (x % 2048)⟩)

def dISh (k : ISh → Instr) (x : Nat) : Dec :=
  zeroed (x / 64 % 32) <|
  .ok (k ⟨BitVec.ofNat 6 (x / 262144 % 64), BitVec.ofNat 6 (x / 4096 % 64), bitAt x 2048, BitVec.ofNat 6 (x % 64)⟩)

def dID (k : ID → Instr) (x : Nat) : Dec :=
  zeroed (x / 4096 % 64) <|
  zeroed (x / 2048 % 2) <|
  .ok (k ⟨BitVec.ofNat 6 (x / 262144 % 64), BitVec.ofNat 11 (x % 2048)⟩)

def dIGet (k : IGet → Instr) (x : Nat) : Dec :=
  zeroed (x / 4096 % 64) <|
  zeroed (x / 2048 % 2) <|
  zeroed (x / 64 % 32) <|
  .ok (k ⟨BitVec.ofNat 6 (x / 262144 % 64), BitVec.ofNat 6 (x % 64)⟩)

def dISet (k : ISet → Instr) (x : Nat) : Dec :=
  zeroed (x / 262144 % 64) <|
  zeroed (x / 64 % 32) <|
  .ok (k ⟨BitVec.ofNat 6 (x / 4096 % 64), bitAt x 2048, BitVec.ofNat 6 (x % 64)⟩)

def dRCmp (k : RCmp → Instr) (x : Nat) : Dec :=
  .ok (k ⟨BitVec.ofNat 3 (x / 2097152 % 8), BitVec.ofNat 3 (x / 262144 % 8), BitVec.ofNat 6 (x / 4096 % 64), BitVec.ofNat 6 (x / 64 % 64), bitAt x 32, bitAt x 16, ⟨BitVec.ofNat 3 (x / 2 % 8), bitAt x 1⟩⟩)

def dICmp (k : ICmp → Instr) (x : Nat) : Dec :=
  .ok (k ⟨BitVec.ofNat 3 (x / 2097152 % 8), BitVec.ofNat 3 (x / 262144 % 8), BitVec.ofNat 6 (x / 4096 % 64), bitAt x 2048, BitVec.ofNat 11 (x % 2048)⟩)

def dK3 (k : K3 → Instr) (x : Nat) : Dec :=
  inClass (x / 262144 % 64) 8 <|
  inClass (x / 4096 % 64) 8 <|
  inClass (x / 64 % 64) 8 <|
  .ok (k ⟨BitVec.ofNat 3 (x / 262144 % 64), BitVec.ofNat 3 (x / 4096 % 64), BitVec.ofNat 3 (x / 64 % 64), bitAt x 32, bitAt x 16, ⟨BitVec.ofNat 3 (x / 2 % 8), bitAt x 1⟩⟩)

def dK2 (k : K2 → Instr) (x : Nat) : Dec :=
  zeroed (x / 64 % 64) <|
  zeroed (x / 16 % 2) <|
  inClass (x / 262144 % 64) 8 <|
  inClass (x / 4096 % 64) 8 <|
  .ok (k ⟨BitVec.ofNat 3 (x / 262144 % 64), BitVec.ofNat 3 (x / 4096 % 64), bitAt x 32, ⟨BitVec.ofNat 3 (x / 2 % 8), bitAt x 1⟩⟩)

def dKG (k : KG → Instr) (x : Nat) : Dec :=
  zeroed (x / 64 % 64) <|
  zeroed (x / 16 % 2) <|
  inClass (x / 4096 % 64) 8 <|
  .ok (k ⟨BitVec.ofNat 6 (x / 262144 % 64), BitVec.ofNat 3 (x / 4096 % 64), bitAt x 32, ⟨BitVec.ofNat 3 (x / 2 % 8), bitAt x 1⟩⟩)

def dKD (k : KD → Instr) (x : Nat) : Dec :=
  zeroed (x / 4096 % 64) <|
  zeroed (x / 64 % 64) <|
  zeroed (x / 32 % 2) <|
  zeroed (x / 16 % 2) <|
  inClass (x / 262144 % 64) 8 <|
  .ok (k ⟨BitVec.ofNat 3 (x / 262144 % 64), ⟨BitVec.ofNat 3 (x / 2 % 8), bitAt x 1⟩⟩)

def dRCvt (k : RCvt → Instr) (x : Nat) : Dec :=
  zeroed (x / 16 % 2) <|
  withFmt (x / 64 % 16) fun f =>
  .ok (k ⟨BitVec.ofNat 6 (x / 262144 % 64), BitVec.ofNat 6 (x / 4096 % 64), f, bitAt x 32, ⟨BitVec.ofNat 3 (x / 2 % 8), bitAt x 1⟩⟩)

def dBOff (k : BOff → Instr) (x : Nat) : Dec :=
  .ok (k ⟨⟨BitVec.ofNat 3 (x / 2097152 % 8), bitAt x 1048576⟩, BitVec.ofNat 20 (x % 1048576)⟩)

def dV3 (k : V3 → Instr) (x : Nat) : Dec :=
  inClass (x / 262144 % 64) 32 <|
  inClass (x / 4096 % 64) 32 <|
  inClass (x / 64 % 64) 32 <|
  .ok (k ⟨BitVec.ofNat 5 (x / 262144 % 64), BitVec.ofNat 5 (x / 4096 % 64), BitVec.ofNat 5 (x / 64 % 64), bitAt x 32, bitAt x 16, ⟨BitVec.ofNat 3 (x / 2 % 8), bitAt x 1⟩⟩)

def dV2 (k : V2 → Instr) (x : Nat) : Dec :=
  zeroed (x / 64 % 64) <|
  zeroed (x / 16 % 2) <|
  inClass (x / 262144 % 64) 32 <|
  inClass (x / 4096 % 64) 32 <|
  .ok (k ⟨BitVec.ofNat 5 (x / 262144 % 64), BitVec.ofNat 5 (x / 4096 % 64), bitAt x 32, ⟨BitVec.ofNat 3 (x / 2 % 8), bitAt x 1⟩⟩)

def dVCmp (k : VCmp → Instr) (x : Nat) : Dec :=
  inClass (x / 4096 % 64) 32 <|
  inClass (x / 64 % 64) 32 <|
  .ok (k ⟨BitVec.ofNat 3 (x / 2097152 % 8), BitVec.ofNat 3 (x / 262144 % 8), BitVec.ofNat 5 (x / 4096 % 64), BitVec.ofNat 5 (x / 64 % 64), bitAt x 32, bitAt x 16, ⟨BitVec.ofNat 3 (x / 2 % 8), bitAt x 1⟩⟩)

def dVSF (k : VSF → Instr) (x : Nat) : Dec :=
  zeroed (x / 16 % 2) <|
  inClass (x / 262144 % 64) 32 <|
  withFmt (x / 64 % 64) fun f =>
  .ok (k ⟨BitVec.ofNat 5 (x / 262144 % 64), BitVec.ofNat 6 (x / 4096 % 64), f, bitAt x 32, ⟨BitVec.ofNat 3 (x / 2 % 8), bitAt x 1⟩⟩)

def dVEx (k : VEx → Instr) (x : Nat) : Dec :=
  inClass (x / 4096 % 64) 32 <|
  .ok (k ⟨BitVec.ofNat 6 (x / 262144 % 64), BitVec.ofNat 5 (x / 4096 % 64), BitVec.ofNat 6 (x / 64 % 64), bitAt x 32, bitAt x 16, ⟨BitVec.ofNat 3 (x / 2 % 8), bitAt x 1⟩⟩)

def dVIn (k : VIn → Instr) (x : Nat) : Dec :=
  inClass (x / 262144 % 64) 32 <|
  .ok (k ⟨BitVec.ofNat 5 (x / 262144 % 64), BitVec.ofNat 6 (x / 4096 % 64), BitVec.ofNat 6 (x / 64 % 64), bitAt x 32, bitAt x 16, ⟨BitVec.ofNat 3 (x / 2 % 8), bitAt x 1⟩⟩)

def dVSl (k : VSl → Instr) (x : Nat) : Dec :=
  inClass (x / 262144 % 64) 32 <|
  inClass (x / 4096 % 64) 32 <|
  .ok (k ⟨BitVec.ofNat 5 (x / 262144 % 64), BitVec.ofNat 5 (x / 4096 % 64), BitVec.ofNat 6 (x / 64 % 64), bitAt x 32, bitAt x 16, ⟨BitVec.ofNat 3 (x / 2 % 8), bitAt x 1⟩⟩)

def dVNzO (k : VNzO → Instr) (x : Nat) : Dec :=
  zeroed (x / 64 % 64) <|
  zeroed (x / 16 % 2) <|
  inClass (x / 262144 % 64) 8 <|
  inClass (x / 4096 % 64) 32 <|
  .ok (k ⟨BitVec.ofNat 3 (x / 262144 % 64), BitVec.ofNat 5 (x / 4096 % 64), bitAt x 32, ⟨BitVec.ofNat 3 (x / 2 % 8), bitAt x 1⟩⟩)

def dVF (k : VF → Instr) (x : Nat) : Dec :=
  zeroed (x / 4096 % 64) <|
  zeroed (x / 32 % 2) <|
  zeroed (x / 16 % 2) <|
  inClass (x / 262144 % 64) 32 <|
  withFmt (x / 64 % 64) fun f =>
  .ok (k ⟨BitVec.ofNat 5 (x / 262144 % 64), f, ⟨BitVec.ofNat 3 (x / 2 % 8), bitAt x 1⟩⟩)

def dSV (k : SV → Instr) (x : Nat) : Dec :=
  zeroed (x / 64 % 64) <|
  zeroed (x / 16 % 2) <|
  inClass (x / 4096 % 64) 32 <|
  .ok (k ⟨BitVec.ofNat 6 (x / 262144 % 64), BitVec.ofNat 5 (x / 4096 % 64), bitAt x 32, ⟨BitVec.ofNat 3 (x / 2 % 8), bitAt x 1⟩⟩)

def dSV2 (k : SV2 → Instr) (x : Nat) : Dec :=
  inClass (x / 4096 % 64) 32 <|
  inClass (x / 64 % 64) 32 <|
  .ok (k ⟨BitVec.ofNat 6 (x / 262144 % 64), BitVec.ofNat 5 (x / 4096 % 64), BitVec.ofNat 5 (x / 64 % 64), bitAt x 32, bitAt x 16, ⟨BitVec.ofNat 3 (x / 2 % 8), bitAt x 1⟩⟩)

def dVCv (k : VCv → Instr) (x : Nat) : Dec :=
  zeroed (x / 16 % 2) <|
  inClass (x / 262144 % 64) 32 <|
  inClass (x / 4096 % 64) 32 <|
  withFmt (x / 64 % 64) fun f =>
  .ok (k ⟨BitVec.ofNat 5 (x / 262144 % 64), BitVec.ofNat 5 (x / 4096 % 64), f, bitAt x 32, ⟨BitVec.ofNat 3 (x / 2 % 8), bitAt x 1⟩⟩)

def dVSideGet (k : SV → Instr) (x : Nat) : Dec :=
  zeroed (x / 128 % 32) <|
  zeroed (x / 16 % 2) <|
  inClass (x / 4096 % 64) 32 <|
  .ok (k ⟨BitVec.ofNat 6 (x / 262144 % 64), BitVec.ofNat 5 (x / 4096 % 64), bitAt x 32, ⟨BitVec.ofNat 3 (x / 2 % 8), bitAt x 1⟩⟩)

def dVSideSet (k : VS → Instr) (x : Nat) : Dec :=
  zeroed (x / 128 % 32) <|
  zeroed (x / 16 % 2) <|
  inClass (x / 262144 % 64) 32 <|
  .ok (k ⟨BitVec.ofNat 5 (x / 262144 % 64), BitVec.ofNat 6 (x / 4096 % 64), bitAt x 32, ⟨BitVec.ofNat 3 (x / 2 % 8), bitAt x 1⟩⟩)

def dMOp (k : MOp → Instr) (x : Nat) : Dec :=
  .ok (k ⟨BitVec.ofNat 6 (x / 262144 % 64), BitVec.ofNat 6 (x / 4096 % 64), BitVec.ofNat 2 (x / 1024 % 4), BitVec.ofNat 10 (x % 1024)⟩)

def dMPref (k : MPref → Instr) (x : Nat) : Dec :=
  zeroed (x / 262144 % 64) <|
  zeroed (x / 1024 % 4) <|
  .ok (k ⟨BitVec.ofNat 6 (x / 4096 % 64), BitVec.ofNat 10 (x % 1024)⟩)

def dVMem (k : VMem → Instr) (x : Nat) : Dec :=
  inClass (x / 262144 % 64) 32 <|
  withFmt (x / 64 % 16) fun f =>
  .ok (k ⟨BitVec.ofNat 5 (x / 262144 % 64), BitVec.ofNat 6 (x / 4096 % 64), BitVec.ofNat 2 (x / 1024 % 4), f, BitVec.ofNat 6 (x % 64)⟩)

def dXMem (k : XMem → Instr) (x : Nat) : Dec :=
  zeroed (x / 4 % 2) <|
  inClass (x / 262144 % 64) 32 <|
  inClass (x / 64 % 64) 32 <|
  .ok (k ⟨BitVec.ofNat 5 (x / 262144 % 64), BitVec.ofNat 6 (x / 4096 % 64), BitVec.ofNat 5 (x / 64 % 64), BitVec.ofNat 2 (x / 16 % 4), bitAt x 8, BitVec.ofNat 2 (x % 4)⟩)

def dTMem (k : TMem → Instr) (x : Nat) : Dec :=
  zeroed (x % 16) <|
  inClass (x / 262144 % 64) 32 <|
  inClass (x / 64 % 64) 16 <|
  .ok (k ⟨BitVec.ofNat 5 (x / 262144 % 64), BitVec.ofNat 6 (x / 4096 % 64), BitVec.ofNat 4 (x / 64 % 64), BitVec.ofNat 2 (x / 16 % 4)⟩)

def dAtom (k : EAtom → Instr) (x : Nat) : Dec :=
  zeroed (x / 32 % 2) <|
  match AtomOp.ofCode (x % 16) with
  | none => .error .reservedField
  | some op' =>
  .ok (k ⟨BitVec.ofNat 6 (x / 262144 % 64), BitVec.ofNat 6 (x / 4096 % 64), BitVec.ofNat 6 (x / 64 % 64), bitAt x 16, op'⟩)

def dCas (k : ECas → Instr) (x : Nat) : Dec :=
  zeroed (x / 32 % 2) <|
  zeroed (x % 16) <|
  .ok (k ⟨BitVec.ofNat 6 (x / 262144 % 64), BitVec.ofNat 6 (x / 4096 % 64), BitVec.ofNat 6 (x / 64 % 64), bitAt x 16⟩)

def dFence (k : EFence → Instr) (x : Nat) : Dec :=
  zeroed (x / 262144 % 64) <|
  zeroed (x / 4096 % 64) <|
  zeroed (x / 64 % 64) <|
  zeroed (x / 4 % 2) <|
  match Scope.ofCode (x / 8 % 8) with
  | none => .error .reservedField
  | some scope' =>
  match FenceKind.ofCode (x % 4) with
  | none => .error .reservedField
  | some kind' =>
  .ok (k ⟨scope', kind'⟩)

def dFeset (k : EFeset → Instr) (x : Nat) : Dec :=
  zeroed (x / 262144 % 64) <|
  zeroed (x / 2 % 32) <|
  .ok (k ⟨BitVec.ofNat 6 (x / 4096 % 64), BitVec.ofNat 6 (x / 64 % 64), bitAt x 1⟩)

def dE3 (k : E3 → Instr) (x : Nat) : Dec :=
  .ok (k ⟨BitVec.ofNat 6 (x / 262144 % 64), BitVec.ofNat 6 (x / 4096 % 64), BitVec.ofNat 6 (x / 64 % 64)⟩)

def dEDA (k : EDA → Instr) (x : Nat) : Dec :=
  zeroed (x / 64 % 64) <|
  .ok (k ⟨BitVec.ofNat 6 (x / 262144 % 64), BitVec.ofNat 6 (x / 4096 % 64)⟩)

def dEAB (k : EAB → Instr) (x : Nat) : Dec :=
  zeroed (x / 262144 % 64) <|
  .ok (k ⟨BitVec.ofNat 6 (x / 4096 % 64), BitVec.ofNat 6 (x / 64 % 64)⟩)

def dEDB (k : EDB → Instr) (x : Nat) : Dec :=
  zeroed (x / 4096 % 64) <|
  .ok (k ⟨BitVec.ofNat 6 (x / 262144 % 64), BitVec.ofNat 6 (x / 64 % 64)⟩)

def dEA (k : EA → Instr) (x : Nat) : Dec :=
  zeroed (x / 262144 % 64) <|
  zeroed (x / 64 % 64) <|
  .ok (k ⟨BitVec.ofNat 6 (x / 4096 % 64)⟩)

def dEB (k : EB → Instr) (x : Nat) : Dec :=
  zeroed (x / 262144 % 64) <|
  zeroed (x / 4096 % 64) <|
  .ok (k ⟨BitVec.ofNat 6 (x / 64 % 64)⟩)

def dGath (k : EGath → Instr) (x : Nat) : Dec :=
  zeroed (x / 2 % 32) <|
  .ok (k ⟨BitVec.ofNat 6 (x / 262144 % 64), BitVec.ofNat 6 (x / 4096 % 64), BitVec.ofNat 6 (x / 64 % 64), bitAt x 1⟩)

def dScat (k : EScat → Instr) (x : Nat) : Dec :=
  zeroed (x / 16 % 4) <|
  match ScatKind.ofCode (x / 2 % 4) with
  | none => .error .reservedField
  | some kind' =>
  .ok (k ⟨BitVec.ofNat 6 (x / 262144 % 64), BitVec.ofNat 6 (x / 4096 % 64), BitVec.ofNat 6 (x / 64 % 64), bitAt x 8, kind', bitAt x 1⟩)

def dMma (k : EMma → Instr) (x : Nat) : Dec :=
  zeroed (x % 8) <|
  .ok (k ⟨BitVec.ofNat 6 (x / 262144 % 64), BitVec.ofNat 6 (x / 4096 % 64), BitVec.ofNat 6 (x / 64 % 64), BitVec.ofNat 2 (x / 16 % 4), bitAt x 8⟩)

def dAccvt (k : EAccvt → Instr) (x : Nat) : Dec :=
  zeroed (x / 32 % 2) <|
  .ok (k ⟨BitVec.ofNat 6 (x / 262144 % 64), BitVec.ofNat 6 (x / 4096 % 64), BitVec.ofNat 6 (x / 64 % 64), bitAt x 16, BitVec.ofNat 4 (x % 16)⟩)

def dHset (k : EHset → Instr) (x : Nat) : Dec :=
  inClass (x / 262144 % 64) 16 <|
  .ok (k ⟨BitVec.ofNat 4 (x / 262144 % 64), BitVec.ofNat 6 (x / 4096 % 64), BitVec.ofNat 6 (x / 64 % 64)⟩)

def dHget (k : EHget → Instr) (x : Nat) : Dec :=
  inClass (x / 4096 % 64) 16 <|
  .ok (k ⟨BitVec.ofNat 6 (x / 262144 % 64), BitVec.ofNat 4 (x / 4096 % 64), BitVec.ofNat 6 (x / 64 % 64)⟩)

def dExpect (k : EExpect → Instr) (x : Nat) : Dec :=
  zeroed (x / 8 % 8) <|
  .ok (k ⟨BitVec.ofNat 6 (x / 262144 % 64), BitVec.ofNat 6 (x / 4096 % 64), BitVec.ofNat 6 (x / 64 % 64), BitVec.ofNat 3 (x % 8)⟩)

def dTlb (k : ETlb → Instr) (x : Nat) : Dec :=
  zeroed (x / 262144 % 64) <|
  zeroed (x / 16 % 4) <|
  match TlbScope.ofCode (x / 4 % 4) with
  | none => .error .reservedField
  | some scope' =>
  .ok (k ⟨BitVec.ofNat 6 (x / 4096 % 64), BitVec.ofNat 6 (x / 64 % 64), scope'⟩)

def dPre (k : EPre → Instr) (x : Nat) : Dec :=
  zeroed (x / 64 % 64) <|
  zeroed (x / 4 % 16) <|
  match PreemptSel.ofCode (x % 4) with
  | none => .error .reservedField
  | some sel' =>
  .ok (k ⟨BitVec.ofNat 6 (x / 262144 % 64), BitVec.ofNat 6 (x / 4096 % 64), sel'⟩)

/-- Opcodes 0x00 to 0x0F (R81, R82). -/
def dec0 (lo x : Nat) : Dec :=
  match lo with
  | 0 => .ok (.illegal (BitVec.ofNat 24 x))
  | 1 => zeroed x <| .ok .nop
  | 2 => dR3 .add x
  | 3 => dR3 .sub x
  | 4 => dR3 .mul x
  | 5 => dR3 .mulh x
  | 6 => dR3 .mulhn x
  | 7 => dR3 .div x
  | 8 => dR3 .divn x
  | 9 => dR3 .rem x
  | 10 => dR3 .remn x
  | 11 => dR3 .and x
  | 12 => dR3 .or x
  | 13 => dR3 .xor x
  | 14 => dR3 .shl x
  | 15 => dR3 .shr x
  | _ => .error .reservedOpcode

/-- Opcodes 0x10 to 0x1F (R81, R82). -/
def dec1 (lo x : Nat) : Dec :=
  match lo with
  | 0 => dR3 .sar x
  | 1 => dR3 .rot x
  | 2 => dR3 .min x
  | 3 => dR3 .max x
  | 4 => dR3 .minn x
  | 5 => dR3 .maxn x
  | 6 => dR2 .clz x
  | 7 => dR2 .popc x
  | 8 => dR3 .bfx x
  | 9 => dR3 .bfi x
  | 10 => dR3 .sel x
  | 11 => dR3 .lea x
  | 12 => dR2 .mov x
  | _ => .error .reservedOpcode

/-- Opcodes 0x20 to 0x2F (R81, R82). -/
def dec2 (lo x : Nat) : Dec :=
  match lo with
  | 0 => dI2 .addi x
  | 1 => dI2 .andi x
  | 2 => dI2 .ori x
  | 3 => dI2 .xori x
  | 4 => dISh .shli x
  | 5 => dISh .shri x
  | 6 => dISh .sari x
  | 7 => dID .movi x
  | 8 => dI2 .muli x
  | 9 => dRCmp .cmp x
  | 10 => dRCmp .cmpn x
  | 11 => dICmp .cmpi x
  | 12 => dICmp .cmpni x
  | 13 => dK3 .kand x
  | 14 => dK3 .kor x
  | 15 => dK3 .kxor x
  | _ => .error .reservedOpcode

/-- Opcodes 0x30 to 0x3F (R81, R82). -/
def dec3 (lo x : Nat) : Dec :=
  match lo with
  | 0 => dK2 .knot x
  | 1 => dK2 .kmov x
  | 2 => dKG .kget x
  | 3 => dKD .kclr x
  | 4 => dR3 .fadd x
  | 5 => dR3 .fsub x
  | 6 => dR3 .fmul x
  | 7 => dR3 .ffma x
  | 8 => dR3 .fdiv x
  | 9 => dR2 .fsqrt x
  | 10 => dRCmp .fcmp x
  | 11 => match x / 1024 % 4 with
    | 0 => dRCvt .fcvtTo x
    | 1 => dRCvt .fcvtFrom x
    | _ => .error .reservedField
  | 12 => dR3 .fmin x
  | 13 => dR3 .fmax x
  | 14 => dBOff .br x
  | 15 => dBOff .brl x
  | _ => .error .reservedOpcode

/-- Opcodes 0x40 to 0x4F (R81, R82). -/
def dec4 (lo x : Nat) : Dec :=
  match lo with
  | 0 => dRA .jr x
  | 1 => dR2 .jrl x
  | 2 => dID .loop x
  | 3 => zeroed (x / 2048) <| .ok (.trap (BitVec.ofNat 11 x))
  | 4 => match x % 64 with
    | 0 => dEA .susp x
    | _ => .error .reservedField
  | 5 => zeroed x <| .ok .yieldUnit
  | 6 => zeroed x <| .ok .endUnit
  | 7 => dIGet .getc x
  | 8 => dISet .setc x
  | 9 => dRD .rdcyc x
  | _ => .error .reservedOpcode

/-- Opcodes 0x50 to 0x5F (R81, R82). -/
def dec5 (lo x : Nat) : Dec :=
  match lo with
  | 0 => dV3 .vadd x
  | 1 => dV3 .vsub x
  | 2 => dV3 .vmul x
  | 3 => dV3 .vfma x
  | 4 => dV3 .vmin x
  | 5 => dV3 .vmax x
  | 6 => dV3 .vdiv x
  | 7 => dV2 .vsqrt x
  | 8 => dV2 .vrcp x
  | 9 => dV2 .vrsq x
  | 10 => dV2 .vexp2 x
  | 11 => dV2 .vlog2 x
  | 12 => dVCmp .vcmp x
  | 13 => dV3 .viadd x
  | 14 => dV3 .visub x
  | 15 => dV3 .vimul x
  | _ => .error .reservedOpcode

/-- Opcodes 0x60 to 0x6F (R81, R82). -/
def dec6 (lo x : Nat) : Dec :=
  match lo with
  | 0 => dV3 .vand x
  | 1 => dV3 .vor x
  | 2 => dV3 .vxor x
  | 3 => dV3 .vshl x
  | 4 => dV3 .vshr x
  | 5 => dV3 .vsar x
  | 6 => dV3 .vimin x
  | 7 => dV3 .vimax x
  | 8 => dVCmp .vicmp x
  | 9 => dV2 .vmov x
  | 10 => dVSF .vbcast x
  | 11 => dVEx .vextr x
  | 12 => dVIn .vins x
  | 13 => dV3 .vperm x
  | 14 => dVSl .vslide x
  | 15 => dV3 .vsel x
  | _ => .error .reservedOpcode

/-- Opcodes 0x70 to 0x7F (R81, R82). -/
def dec7 (lo x : Nat) : Dec :=
  match lo with
  | 0 => dV2 .vcomp x
  | 1 => dV2 .vexpd x
  | 2 => dVNzO .vnz x
  | 3 => dVF .viota x
  | 4 => dSV .vrsum x
  | 5 => dSV .vrmax x
  | 6 => dSV .vrmin x
  | 7 => dSV2 .vdot x
  | 8 => dVCv .vcvt x
  | 9 => dV2 .vpack x
  | 10 => dV2 .vunpk x
  | 11 => dVF .vtag x
  | 12 => if x / 64 % 2 = 0 then dVSideGet .vsideGet x else dVSideSet .vsideSet x
  | 13 => dVF .vzero x
  | _ => .error .reservedOpcode

/-- Opcodes 0x90 to 0x9F (R81, R82). -/
def dec9 (lo x : Nat) : Dec :=
  match lo with
  | 0 => dMOp .ldb x
  | 1 => dMOp .ldh x
  | 2 => dMOp .ldw x
  | 3 => dMOp .ldd x
  | 4 => dMOp .ldbn x
  | 5 => dMOp .ldhn x
  | 6 => dMOp .ldwn x
  | 7 => dMOp .stb x
  | 8 => dMOp .sth x
  | 9 => dMOp .stw x
  | 10 => dMOp .std x
  | 11 => dVMem .ldv x
  | 12 => dVMem .stv x
  | 13 => dXMem .ldx x
  | 14 => dXMem .stx x
  | 15 => dTMem .tld x
  | _ => .error .reservedOpcode

/-- Opcodes 0xA0 to 0xAF (R81, R82). -/
def decA (lo x : Nat) : Dec :=
  match lo with
  | 0 => dTMem .tst x
  | 1 => dAtom .atom x
  | 2 => dCas .cas x
  | 3 => dFence .fence x
  | 4 => dFeset .feset x
  | 5 => match x % 64 with
    | 0 => dE3 .copy x
    | _ => .error .reservedField
  | 6 => match x % 64 with
    | 0 => dE3 .copyg x
    | _ => .error .reservedField
  | 7 => match x % 64 with
    | 0 => dEA .jwait x
    | _ => .error .reservedField
  | 8 => dMPref .pref x
  | 9 => match x % 64 with
    | 0 => dE3 .zscan x
    | 1 => dE3 .zscanIb x
    | _ => .error .reservedField
  | 10 => dGath .cgath x
  | 11 => dScat .cscat x
  | _ => .error .reservedOpcode

/-- Opcodes 0xB0 to 0xBF (R81, R82). -/
def decB (lo x : Nat) : Dec :=
  match lo with
  | 0 => match x % 64 with
    | 0 => dE3 .trld x
    | _ => .error .reservedField
  | 1 => match x % 64 with
    | 0 => dEDA .trfree x
    | _ => .error .reservedField
  | 2 => dMma .mma x
  | 3 => match x % 64 with
    | 0 => dE3 .acrd x
    | _ => .error .reservedField
  | 4 => match x % 64 with
    | 0 => dE3 .acwr x
    | _ => .error .reservedField
  | 5 => match x % 64 with
    | 0 => dEDA .acz x
    | _ => .error .reservedField
  | 6 => match x % 64 with
    | 0 => dE3 .wmark x
    | _ => .error .reservedField
  | 7 => dAccvt .accvt x
  | 12 => match x % 64 with
    | 0 => dE3 .dinst x
    | _ => .error .reservedField
  | 13 => match x % 64 with
    | 0 => dE3 .datom x
    | _ => .error .reservedField
  | 14 => match x % 64 with
    | 0 => dE3 .dver x
    | _ => .error .reservedField
  | 15 => match x % 64 with
    | 0 => dEDA .dret x
    | _ => .error .reservedField
  | _ => .error .reservedOpcode

/-- Opcodes 0xC0 to 0xCF (R81, R82). -/
def decC (lo x : Nat) : Dec :=
  match lo with
  | 0 => match x % 64 with
    | 0 => dE3 .dqry x
    | _ => .error .reservedField
  | 1 => match x % 64 with
    | 0 => dE3 .enc x
    | _ => .error .reservedField
  | 2 => match x % 64 with
    | 0 => dE3 .dec x
    | _ => .error .reservedField
  | 3 => match x % 64 with
    | 0 => dE3 .acci x
    | _ => .error .reservedField
  | 4 => match x % 64 with
    | 0 => dE3 .imgbld x
    | _ => .error .reservedField
  | 5 => match x % 64 with
    | 0 => dE3 .imginv x
    | _ => .error .reservedField
  | 6 => match x % 64 with
    | 0 => dE3 .imgld x
    | _ => .error .reservedField
  | 8 => match x % 64 with
    | 0 => dE3 .send x
    | _ => .error .reservedField
  | 9 => match x % 64 with
    | 0 => dEDB .sendc x
    | 1 => dE3 .sendcM x
    | _ => .error .reservedField
  | 10 => match x % 64 with
    | 0 => dEDA .post x
    | _ => .error .reservedField
  | 11 => match x % 64 with
    | 0 => dEDA .recv x
    | _ => .error .reservedField
  | 12 => match x % 64 with
    | 0 => dEDA .rcancel x
    | _ => .error .reservedField
  | 13 => match x % 64 with
    | 0 => dE3 .ovpop x
    | _ => .error .reservedField
  | 14 => match x % 64 with
    | 0 => dE3 .fork x
    | _ => .error .reservedField
  | 15 => match x % 64 with
    | 0 => dEA .join x
    | _ => .error .reservedField
  | _ => .error .reservedOpcode

/-- Opcodes 0xD0 to 0xDF (R81, R82). -/
def decD (lo x : Nat) : Dec :=
  match lo with
  | 0 => match x % 64 with
    | 0 => dEDA .spawn x
    | _ => .error .reservedField
  | 1 => match x % 64 with
    | 0 => dE3 .launch x
    | _ => .error .reservedField
  | 2 => match x % 64 with
    | 0 => dEAB .qpush x
    | _ => .error .reservedField
  | 3 => match x % 64 with
    | 0 => dEDA .qpop x
    | _ => .error .reservedField
  | 4 => match x % 64 with
    | 0 => dE3 .crwait x
    | _ => .error .reservedField
  | 8 => match x % 64 with
    | 0 => dE3 .cnew x
    | 1 => dE3 .cnewPhase x
    | 2 => dEDA .cnewFree x
    | _ => .error .reservedField
  | 9 => match x % 64 with
    | 0 => dEAB .cadd x
    | _ => .error .reservedField
  | 10 => match x % 64 with
    | 0 => dE3 .cwait x
    | 1 => dE3 .cwaitPh x
    | _ => .error .reservedField
  | 11 => dExpect .expect x
  | 12 => match x % 64 with
    | 0 => dEAB .arrive x
    | _ => .error .reservedField
  | 13 => match x % 64 with
    | 0 => dEAB .cancelUnit x
    | 1 => dEA .cancelLaunch x
    | 2 => dEA .cancelGraph x
    | 3 => dEA .cancelPhase x
    | 4 => dEA .cancelJob x
    | _ => .error .reservedField
  | 14 => match x % 64 with
    | 0 => dEDA .perfrd x
    | _ => .error .reservedField
  | 15 => match x % 64 with
    | 0 => dE3 .accnt x
    | _ => .error .reservedField
  | _ => .error .reservedOpcode

/-- Opcodes 0xE0 to 0xEF (R81, R82). -/
def decE (lo x : Nat) : Dec :=
  match lo with
  | 0 => match x % 4 with
    | 0 => dTlb .tlbinv x
    | 1 => dTlb .tlbinvAll x
    | _ => .error .reservedField
  | 1 => match x % 64 with
    | 0 => dE3 .lease x
    | _ => .error .reservedField
  | 2 => match x % 64 with
    | 0 => dEA .unlease x
    | _ => .error .reservedField
  | 3 => match x % 64 with
    | 0 => dEA .pgadv x
    | _ => .error .reservedField
  | 4 => match x % 64 with
    | 0 => dEDA .pgqry x
    | 1 => dEDA .pgqryRes x
    | _ => .error .reservedField
  | 5 => zeroed (x % 64) <| dHset .hset x
  | 6 => match x % 64 with
    | 0 => dHget .hget x
    | _ => .error .reservedField
  | 7 => match x % 64 with
    | 0 => dHget .relayout x
    | _ => .error .reservedField
  | 8 => match x % 64 with
    | 0 => dHget .rlwait x
    | _ => .error .reservedField
  | 9 => match x % 64 with
    | 0 => dEDA .rprobe x
    | _ => .error .reservedField
  | 10 => match x % 64 with
    | 0 => dE3 .rinv x
    | _ => .error .reservedField
  | 11 => match x % 64 with
    | 0 => dE3 .chash x
    | _ => .error .reservedField
  | 12 => match x % 64 with
    | 0 => dE3 .entset x
    | _ => .error .reservedField
  | 13 => match x % 64 with
    | 0 => dEAB .eretResume x
    | 1 => dEB .eretEnd x
    | 2 => zeroed (x / 64) <| .ok .eretPark
    | _ => .error .reservedField
  | 14 => dPre .preempt x
  | 15 => match x % 64 with
    | 0 => dE3 .relocOut x
    | 1 => dE3 .relocIn x
    | 2 => dE3 .relocDrain x
    | _ => .error .reservedField
  | _ => .error .reservedOpcode

/-- Opcodes 0xF0 to 0xFF (R81, R82). -/
def decF (lo x : Nat) : Dec :=
  match lo with
  | 0 => match x % 64 with
    | 0 => dEDA .dbghalt x
    | 1 => dEDA .dbghaltResume x
    | 2 => dEDA .dbghaltStep x
    | _ => .error .reservedField
  | 12 => .ok (.ximm (BitVec.ofNat 24 x))
  | 13 => zeroed (x % 32) <| .ok (.modPfx (BitVec.ofNat 24 x))
  | 14 => .ok (.hint (BitVec.ofNat 24 x))
  | _ => .error .reservedOpcode

/-- The instruction of a word before the conditions of Instr.wf: the opcode decides the format (R70, R81). -/
def decodeRaw (w : Nat) : Dec :=
  let lo := w / 16777216 % 16
  let x := w % 16777216
  match w / 268435456 with
  | 0 => dec0 lo x
  | 1 => dec1 lo x
  | 2 => dec2 lo x
  | 3 => dec3 lo x
  | 4 => dec4 lo x
  | 5 => dec5 lo x
  | 6 => dec6 lo x
  | 7 => dec7 lo x
  | 9 => dec9 lo x
  | 10 => decA lo x
  | 11 => decB lo x
  | 12 => decC lo x
  | 13 => decD lo x
  | 14 => decE lo x
  | 15 => decF lo x
  | _ => .error .reservedOpcode

/-- The instruction or prefix that a 32-bit word holds (R70 to R87). A MOD word whose reserved bits are set is refused
here; in a group it is recorded, and its instruction raises ILLEGAL (R75). -/
def decodeWord (w : Nat) : Dec :=
  match decodeRaw w with
  | .ok i => if i.wf then .ok i else .error .illFormed
  | .error e => .error e

/-- The instruction your decoder reads from an instruction whose bits are w (every instruction is one 32-bit word). -/
def decodeTableWord (nbits w : Nat) : Option Instr :=
  match decodeWord (w % 2 ^ nbits) with
  | .ok i => some i
  | .error _ => none

/-! ### The encoder -/

def eR3 (o : R3) : Nat :=
  o.d.toNat * 262144 + o.a.toNat * 4096 + o.b.toNat * 64 + b2n o.ta * 32 + b2n o.tb * 16 + o.g.slot.toNat * 2 + b2n o.g.inv

def eR2 (o : R2) : Nat :=
  o.d.toNat * 262144 + o.a.toNat * 4096 + b2n o.ta * 32 + o.g.slot.toNat * 2 + b2n o.g.inv

def eRA (o : RA) : Nat :=
  o.a.toNat * 4096 + b2n o.ta * 32 + o.g.slot.toNat * 2 + b2n o.g.inv

def eRD (o : RD) : Nat :=
  o.d.toNat * 262144 + o.g.slot.toNat * 2 + b2n o.g.inv

def eI2 (o : I2) : Nat :=
  o.d.toNat * 262144 + o.a.toNat * 4096 + b2n o.ta * 2048 + o.imm.toNat

def eISh (o : ISh) : Nat :=
  o.d.toNat * 262144 + o.a.toNat * 4096 + b2n o.ta * 2048 + o.n.toNat

def eID (o : ID) : Nat :=
  o.d.toNat * 262144 + o.imm.toNat

def eIGet (o : IGet) : Nat :=
  o.d.toNat * 262144 + o.n.toNat

def eISet (o : ISet) : Nat :=
  o.a.toNat * 4096 + b2n o.ta * 2048 + o.n.toNat

def eRCmp (o : RCmp) : Nat :=
  o.cc.toNat * 2097152 + o.k.toNat * 262144 + o.a.toNat * 4096 + o.b.toNat * 64 + b2n o.ta * 32 + b2n o.tb * 16 + o.g.slot.toNat * 2 + b2n o.g.inv

def eICmp (o : ICmp) : Nat :=
  o.cc.toNat * 2097152 + o.k.toNat * 262144 + o.a.toNat * 4096 + b2n o.ta * 2048 + o.imm.toNat

def eK3 (o : K3) : Nat :=
  o.d.toNat * 262144 + o.a.toNat * 4096 + o.b.toNat * 64 + b2n o.ta * 32 + b2n o.tb * 16 + o.g.slot.toNat * 2 + b2n o.g.inv

def eK2 (o : K2) : Nat :=
  o.d.toNat * 262144 + o.a.toNat * 4096 + b2n o.ta * 32 + o.g.slot.toNat * 2 + b2n o.g.inv

def eKG (o : KG) : Nat :=
  o.d.toNat * 262144 + o.a.toNat * 4096 + b2n o.ta * 32 + o.g.slot.toNat * 2 + b2n o.g.inv

def eKD (o : KD) : Nat :=
  o.d.toNat * 262144 + o.g.slot.toNat * 2 + b2n o.g.inv

def eRCvt (o : RCvt) : Nat :=
  o.d.toNat * 262144 + o.a.toNat * 4096 + o.f.code * 64 + b2n o.ta * 32 + o.g.slot.toNat * 2 + b2n o.g.inv

def eBOff (o : BOff) : Nat :=
  o.g.slot.toNat * 2097152 + b2n o.g.inv * 1048576 + o.off.toNat

def eV3 (o : V3) : Nat :=
  o.d.toNat * 262144 + o.a.toNat * 4096 + o.b.toNat * 64 + b2n o.ta * 32 + b2n o.tb * 16 + o.g.slot.toNat * 2 + b2n o.g.inv

def eV2 (o : V2) : Nat :=
  o.d.toNat * 262144 + o.a.toNat * 4096 + b2n o.ta * 32 + o.g.slot.toNat * 2 + b2n o.g.inv

def eVCmp (o : VCmp) : Nat :=
  o.cc.toNat * 2097152 + o.k.toNat * 262144 + o.a.toNat * 4096 + o.b.toNat * 64 + b2n o.ta * 32 + b2n o.tb * 16 + o.g.slot.toNat * 2 + b2n o.g.inv

def eVSF (o : VSF) : Nat :=
  o.d.toNat * 262144 + o.a.toNat * 4096 + o.f.code * 64 + b2n o.ta * 32 + o.g.slot.toNat * 2 + b2n o.g.inv

def eVEx (o : VEx) : Nat :=
  o.d.toNat * 262144 + o.a.toNat * 4096 + o.b.toNat * 64 + b2n o.ta * 32 + b2n o.tb * 16 + o.g.slot.toNat * 2 + b2n o.g.inv

def eVIn (o : VIn) : Nat :=
  o.d.toNat * 262144 + o.a.toNat * 4096 + o.b.toNat * 64 + b2n o.ta * 32 + b2n o.tb * 16 + o.g.slot.toNat * 2 + b2n o.g.inv

def eVSl (o : VSl) : Nat :=
  o.d.toNat * 262144 + o.a.toNat * 4096 + o.b.toNat * 64 + b2n o.ta * 32 + b2n o.tb * 16 + o.g.slot.toNat * 2 + b2n o.g.inv

def eVNzO (o : VNzO) : Nat :=
  o.k.toNat * 262144 + o.a.toNat * 4096 + b2n o.ta * 32 + o.g.slot.toNat * 2 + b2n o.g.inv

def eVF (o : VF) : Nat :=
  o.d.toNat * 262144 + o.f.code * 64 + o.g.slot.toNat * 2 + b2n o.g.inv

def eSV (o : SV) : Nat :=
  o.d.toNat * 262144 + o.a.toNat * 4096 + b2n o.ta * 32 + o.g.slot.toNat * 2 + b2n o.g.inv

def eSV2 (o : SV2) : Nat :=
  o.d.toNat * 262144 + o.a.toNat * 4096 + o.b.toNat * 64 + b2n o.ta * 32 + b2n o.tb * 16 + o.g.slot.toNat * 2 + b2n o.g.inv

def eVCv (o : VCv) : Nat :=
  o.d.toNat * 262144 + o.a.toNat * 4096 + o.f.code * 64 + b2n o.ta * 32 + o.g.slot.toNat * 2 + b2n o.g.inv

def eVSideGet (o : SV) : Nat :=
  o.d.toNat * 262144 + o.a.toNat * 4096 + b2n o.ta * 32 + o.g.slot.toNat * 2 + b2n o.g.inv

def eVSideSet (o : VS) : Nat :=
  o.d.toNat * 262144 + o.a.toNat * 4096 + b2n o.ta * 32 + o.g.slot.toNat * 2 + b2n o.g.inv + 64

def eMOp (o : MOp) : Nat :=
  o.d.toNat * 262144 + o.a.toNat * 4096 + o.q.toNat * 1024 + o.disp.toNat

def eMPref (o : MPref) : Nat :=
  o.a.toNat * 4096 + o.disp.toNat

def eVMem (o : VMem) : Nat :=
  o.v.toNat * 262144 + o.a.toNat * 4096 + o.q.toNat * 1024 + o.f.code * 64 + o.disp.toNat

def eXMem (o : XMem) : Nat :=
  o.v.toNat * 262144 + o.a.toNat * 4096 + o.b.toNat * 64 + o.q.toNat * 16 + b2n o.o16 * 8 + o.sz.toNat

def eTMem (o : TMem) : Nat :=
  o.v.toNat * 262144 + o.a.toNat * 4096 + o.h.toNat * 64 + o.q.toNat * 16

def eAtom (o : EAtom) : Nat :=
  o.d.toNat * 262144 + o.a.toNat * 4096 + o.b.toNat * 64 + b2n o.w32 * 16 + o.op.code

def eCas (o : ECas) : Nat :=
  o.d.toNat * 262144 + o.a.toNat * 4096 + o.b.toNat * 64 + b2n o.w32 * 16

def eFence (o : EFence) : Nat :=
  o.scope.code * 8 + o.kind.code

def eFeset (o : EFeset) : Nat :=
  o.a.toNat * 4096 + o.b.toNat * 64 + b2n o.v

def eE3 (o : E3) : Nat :=
  o.d.toNat * 262144 + o.a.toNat * 4096 + o.b.toNat * 64

def eEDA (o : EDA) : Nat :=
  o.d.toNat * 262144 + o.a.toNat * 4096

def eEAB (o : EAB) : Nat :=
  o.a.toNat * 4096 + o.b.toNat * 64

def eEDB (o : EDB) : Nat :=
  o.d.toNat * 262144 + o.b.toNat * 64

def eEA (o : EA) : Nat :=
  o.a.toNat * 4096

def eEB (o : EB) : Nat :=
  o.b.toNat * 64

def eGath (o : EGath) : Nat :=
  o.d.toNat * 262144 + o.a.toNat * 4096 + o.b.toNat * 64 + b2n o.o16

def eScat (o : EScat) : Nat :=
  o.d.toNat * 262144 + o.a.toNat * 4096 + o.b.toNat * 64 + b2n o.scl * 8 + o.kind.code * 2 + b2n o.o16

def eMma (o : EMma) : Nat :=
  o.d.toNat * 262144 + o.a.toNat * 4096 + o.b.toNat * 64 + o.trim.toNat * 16 + b2n o.ow * 8

def eAccvt (o : EAccvt) : Nat :=
  o.d.toNat * 262144 + o.a.toNat * 4096 + o.b.toNat * 64 + b2n o.sat * 16 + o.f.toNat

def eHset (o : EHset) : Nat :=
  o.h.toNat * 262144 + o.a.toNat * 4096 + o.b.toNat * 64

def eHget (o : EHget) : Nat :=
  o.d.toNat * 262144 + o.h.toNat * 4096 + o.b.toNat * 64

def eExpect (o : EExpect) : Nat :=
  o.d.toNat * 262144 + o.a.toNat * 4096 + o.b.toNat * 64 + o.k.toNat

def eTlb (o : ETlb) : Nat :=
  o.a.toNat * 4096 + o.b.toNat * 64 + o.scope.code * 4

def ePre (o : EPre) : Nat :=
  o.d.toNat * 262144 + o.a.toNat * 4096 + o.sel.code

/-- Opcode byte and body. -/
def word (op body : Nat) : Nat := op * 16777216 + body

/-- The word of a well-formed instruction or prefix; an event has none. -/
def encode : Instr → Option Nat
  | .illegal x => some (word 0 x.toNat)
  | .nop => some (word 1 0)
  | .trap c => some (word 67 c.toNat)
  | .yieldUnit => some (word 69 0)
  | .endUnit => some (word 70 0)
  | .eretPark => some (word 237 2)
  | .ximm n => some (word 252 n.toNat)
  | .modPfx f => some (word 253 f.toNat)
  | .hint f => some (word 254 f.toNat)
  | .add o => some (word 2 (eR3 o))
  | .sub o => some (word 3 (eR3 o))
  | .mul o => some (word 4 (eR3 o))
  | .mulh o => some (word 5 (eR3 o))
  | .mulhn o => some (word 6 (eR3 o))
  | .div o => some (word 7 (eR3 o))
  | .divn o => some (word 8 (eR3 o))
  | .rem o => some (word 9 (eR3 o))
  | .remn o => some (word 10 (eR3 o))
  | .and o => some (word 11 (eR3 o))
  | .or o => some (word 12 (eR3 o))
  | .xor o => some (word 13 (eR3 o))
  | .shl o => some (word 14 (eR3 o))
  | .shr o => some (word 15 (eR3 o))
  | .sar o => some (word 16 (eR3 o))
  | .rot o => some (word 17 (eR3 o))
  | .min o => some (word 18 (eR3 o))
  | .max o => some (word 19 (eR3 o))
  | .minn o => some (word 20 (eR3 o))
  | .maxn o => some (word 21 (eR3 o))
  | .clz o => some (word 22 (eR2 o))
  | .popc o => some (word 23 (eR2 o))
  | .bfx o => some (word 24 (eR3 o))
  | .bfi o => some (word 25 (eR3 o))
  | .sel o => some (word 26 (eR3 o))
  | .lea o => some (word 27 (eR3 o))
  | .mov o => some (word 28 (eR2 o))
  | .addi o => some (word 32 (eI2 o))
  | .andi o => some (word 33 (eI2 o))
  | .ori o => some (word 34 (eI2 o))
  | .xori o => some (word 35 (eI2 o))
  | .shli o => some (word 36 (eISh o))
  | .shri o => some (word 37 (eISh o))
  | .sari o => some (word 38 (eISh o))
  | .movi o => some (word 39 (eID o))
  | .muli o => some (word 40 (eI2 o))
  | .cmp o => some (word 41 (eRCmp o))
  | .cmpn o => some (word 42 (eRCmp o))
  | .cmpi o => some (word 43 (eICmp o))
  | .cmpni o => some (word 44 (eICmp o))
  | .kand o => some (word 45 (eK3 o))
  | .kor o => some (word 46 (eK3 o))
  | .kxor o => some (word 47 (eK3 o))
  | .knot o => some (word 48 (eK2 o))
  | .kmov o => some (word 49 (eK2 o))
  | .kget o => some (word 50 (eKG o))
  | .kclr o => some (word 51 (eKD o))
  | .fadd o => some (word 52 (eR3 o))
  | .fsub o => some (word 53 (eR3 o))
  | .fmul o => some (word 54 (eR3 o))
  | .ffma o => some (word 55 (eR3 o))
  | .fdiv o => some (word 56 (eR3 o))
  | .fsqrt o => some (word 57 (eR2 o))
  | .fcmp o => some (word 58 (eRCmp o))
  | .fcvtTo o => some (word 59 (eRCvt o))
  | .fcvtFrom o => some (word 59 (eRCvt o + 1024))
  | .fmin o => some (word 60 (eR3 o))
  | .fmax o => some (word 61 (eR3 o))
  | .br o => some (word 62 (eBOff o))
  | .brl o => some (word 63 (eBOff o))
  | .jr o => some (word 64 (eRA o))
  | .jrl o => some (word 65 (eR2 o))
  | .loop o => some (word 66 (eID o))
  | .susp o => some (word 68 (eEA o))
  | .getc o => some (word 71 (eIGet o))
  | .setc o => some (word 72 (eISet o))
  | .rdcyc o => some (word 73 (eRD o))
  | .vadd o => some (word 80 (eV3 o))
  | .vsub o => some (word 81 (eV3 o))
  | .vmul o => some (word 82 (eV3 o))
  | .vfma o => some (word 83 (eV3 o))
  | .vmin o => some (word 84 (eV3 o))
  | .vmax o => some (word 85 (eV3 o))
  | .vdiv o => some (word 86 (eV3 o))
  | .vsqrt o => some (word 87 (eV2 o))
  | .vrcp o => some (word 88 (eV2 o))
  | .vrsq o => some (word 89 (eV2 o))
  | .vexp2 o => some (word 90 (eV2 o))
  | .vlog2 o => some (word 91 (eV2 o))
  | .vcmp o => some (word 92 (eVCmp o))
  | .viadd o => some (word 93 (eV3 o))
  | .visub o => some (word 94 (eV3 o))
  | .vimul o => some (word 95 (eV3 o))
  | .vand o => some (word 96 (eV3 o))
  | .vor o => some (word 97 (eV3 o))
  | .vxor o => some (word 98 (eV3 o))
  | .vshl o => some (word 99 (eV3 o))
  | .vshr o => some (word 100 (eV3 o))
  | .vsar o => some (word 101 (eV3 o))
  | .vimin o => some (word 102 (eV3 o))
  | .vimax o => some (word 103 (eV3 o))
  | .vicmp o => some (word 104 (eVCmp o))
  | .vmov o => some (word 105 (eV2 o))
  | .vbcast o => some (word 106 (eVSF o))
  | .vextr o => some (word 107 (eVEx o))
  | .vins o => some (word 108 (eVIn o))
  | .vperm o => some (word 109 (eV3 o))
  | .vslide o => some (word 110 (eVSl o))
  | .vsel o => some (word 111 (eV3 o))
  | .vcomp o => some (word 112 (eV2 o))
  | .vexpd o => some (word 113 (eV2 o))
  | .vnz o => some (word 114 (eVNzO o))
  | .viota o => some (word 115 (eVF o))
  | .vrsum o => some (word 116 (eSV o))
  | .vrmax o => some (word 117 (eSV o))
  | .vrmin o => some (word 118 (eSV o))
  | .vdot o => some (word 119 (eSV2 o))
  | .vcvt o => some (word 120 (eVCv o))
  | .vpack o => some (word 121 (eV2 o))
  | .vunpk o => some (word 122 (eV2 o))
  | .vtag o => some (word 123 (eVF o))
  | .vsideGet o => some (word 124 (eVSideGet o))
  | .vsideSet o => some (word 124 (eVSideSet o))
  | .vzero o => some (word 125 (eVF o))
  | .ldb o => some (word 144 (eMOp o))
  | .ldh o => some (word 145 (eMOp o))
  | .ldw o => some (word 146 (eMOp o))
  | .ldd o => some (word 147 (eMOp o))
  | .ldbn o => some (word 148 (eMOp o))
  | .ldhn o => some (word 149 (eMOp o))
  | .ldwn o => some (word 150 (eMOp o))
  | .stb o => some (word 151 (eMOp o))
  | .sth o => some (word 152 (eMOp o))
  | .stw o => some (word 153 (eMOp o))
  | .std o => some (word 154 (eMOp o))
  | .ldv o => some (word 155 (eVMem o))
  | .stv o => some (word 156 (eVMem o))
  | .ldx o => some (word 157 (eXMem o))
  | .stx o => some (word 158 (eXMem o))
  | .tld o => some (word 159 (eTMem o))
  | .tst o => some (word 160 (eTMem o))
  | .atom o => some (word 161 (eAtom o))
  | .cas o => some (word 162 (eCas o))
  | .fence o => some (word 163 (eFence o))
  | .feset o => some (word 164 (eFeset o))
  | .copy o => some (word 165 (eE3 o))
  | .copyg o => some (word 166 (eE3 o))
  | .jwait o => some (word 167 (eEA o))
  | .pref o => some (word 168 (eMPref o))
  | .zscan o => some (word 169 (eE3 o))
  | .zscanIb o => some (word 169 (eE3 o + 1))
  | .cgath o => some (word 170 (eGath o))
  | .cscat o => some (word 171 (eScat o))
  | .trld o => some (word 176 (eE3 o))
  | .trfree o => some (word 177 (eEDA o))
  | .mma o => some (word 178 (eMma o))
  | .acrd o => some (word 179 (eE3 o))
  | .acwr o => some (word 180 (eE3 o))
  | .acz o => some (word 181 (eEDA o))
  | .wmark o => some (word 182 (eE3 o))
  | .accvt o => some (word 183 (eAccvt o))
  | .dinst o => some (word 188 (eE3 o))
  | .datom o => some (word 189 (eE3 o))
  | .dver o => some (word 190 (eE3 o))
  | .dret o => some (word 191 (eEDA o))
  | .dqry o => some (word 192 (eE3 o))
  | .enc o => some (word 193 (eE3 o))
  | .dec o => some (word 194 (eE3 o))
  | .acci o => some (word 195 (eE3 o))
  | .imgbld o => some (word 196 (eE3 o))
  | .imginv o => some (word 197 (eE3 o))
  | .imgld o => some (word 198 (eE3 o))
  | .send o => some (word 200 (eE3 o))
  | .sendc o => some (word 201 (eEDB o))
  | .sendcM o => some (word 201 (eE3 o + 1))
  | .post o => some (word 202 (eEDA o))
  | .recv o => some (word 203 (eEDA o))
  | .rcancel o => some (word 204 (eEDA o))
  | .ovpop o => some (word 205 (eE3 o))
  | .fork o => some (word 206 (eE3 o))
  | .join o => some (word 207 (eEA o))
  | .spawn o => some (word 208 (eEDA o))
  | .launch o => some (word 209 (eE3 o))
  | .qpush o => some (word 210 (eEAB o))
  | .qpop o => some (word 211 (eEDA o))
  | .crwait o => some (word 212 (eE3 o))
  | .cnew o => some (word 216 (eE3 o))
  | .cnewPhase o => some (word 216 (eE3 o + 1))
  | .cnewFree o => some (word 216 (eEDA o + 2))
  | .cadd o => some (word 217 (eEAB o))
  | .cwait o => some (word 218 (eE3 o))
  | .cwaitPh o => some (word 218 (eE3 o + 1))
  | .expect o => some (word 219 (eExpect o))
  | .arrive o => some (word 220 (eEAB o))
  | .cancelUnit o => some (word 221 (eEAB o))
  | .cancelLaunch o => some (word 221 (eEA o + 1))
  | .cancelGraph o => some (word 221 (eEA o + 2))
  | .cancelPhase o => some (word 221 (eEA o + 3))
  | .cancelJob o => some (word 221 (eEA o + 4))
  | .perfrd o => some (word 222 (eEDA o))
  | .accnt o => some (word 223 (eE3 o))
  | .tlbinv o => some (word 224 (eTlb o))
  | .tlbinvAll o => some (word 224 (eTlb o + 1))
  | .lease o => some (word 225 (eE3 o))
  | .unlease o => some (word 226 (eEA o))
  | .pgadv o => some (word 227 (eEA o))
  | .pgqry o => some (word 228 (eEDA o))
  | .pgqryRes o => some (word 228 (eEDA o + 1))
  | .hset o => some (word 229 (eHset o))
  | .hget o => some (word 230 (eHget o))
  | .relayout o => some (word 231 (eHget o))
  | .rlwait o => some (word 232 (eHget o))
  | .rprobe o => some (word 233 (eEDA o))
  | .rinv o => some (word 234 (eE3 o))
  | .chash o => some (word 235 (eE3 o))
  | .entset o => some (word 236 (eE3 o))
  | .eretResume o => some (word 237 (eEAB o))
  | .eretEnd o => some (word 237 (eEB o + 1))
  | .preempt o => some (word 238 (ePre o))
  | .relocOut o => some (word 239 (eE3 o))
  | .relocIn o => some (word 239 (eE3 o + 1))
  | .relocDrain o => some (word 239 (eE3 o + 2))
  | .dbghalt o => some (word 240 (eEDA o))
  | .dbghaltResume o => some (word 240 (eEDA o + 1))
  | .dbghaltStep o => some (word 240 (eEDA o + 2))
  | _ => none

end Sys2Proof
end

