-- ==== Sys2Proof/Config.lean ====
section
/-!
DEFINITION. What an implementation fixes, and the values the spec leaves open. An opaque constant has no body: nothing can
evaluate it, and a statement about it holds whatever it is.
-/
namespace Sys2Proof.Config
open Sys2Proof.Machine

/-- Free value number n, 64 bits: a value the spec does not state (log 3). -/
opaque openWord : Nat → BitVec 64

/-- RSASSA-PSS verification over SHA-512 with a public key of RSA-4096 and exponent 65,537: key, message, signature (R407, log 11). -/
opaque pssVerify : Bytes → Bytes → Bytes → Bool

/-- The signature of an attestation report by the fused identity key (R408, log 11). -/
opaque pssSign : Bytes → Bytes

/-- The SHA-512 digest of the boot ROM of a deck's controller, which its first measurement records (R407, log 11). -/
opaque romDigest : Nat → Bytes

/-- Ports of the Viaduct fabric (R8). -/
def nPorts : Nat := 16

/-- Bytes of one HBM stack: 48 GiB (R243). -/
def stackBytes : Nat := 48 * 2 ^ 30

/-- Cells of a scratchpad: 96 KiB (R151). -/
def spadBytes : Nat := 98304

end Sys2Proof.Config
end

