-- ==== Sys2Proof/Machine/State.lean ====
section
/-!
DEFINITION. The state of the module as plain data, and its value at reset.

Every table is sparse: an unlisted key stands for the reset value of its kind. Keys: a pier is y × 200 + x, a core
pier × 8 + core, a context core × 4 + context; scratchpad bytes core × 2^17 + offset; scratchpad granules
core × 8192 + granule; truss bytes pier × 2^18 + byte; accumulator bytes pier × 2^17 + byte; norm factors
pier × 8192 + slot × 2048 + atom; reuse entries set × 16 + way.
-/
namespace Sys2Proof.Machine

/-- Why the machine stops. -/
inductive Fault where
  /-- Raised by Access.sysWrite when the pier hardware's own access to a record, frame, summary or tile header finds no
  resident page of this module (R19, R44, R285 say that firmware maps them). Safe: the model stops where the spec
  describes no outcome. -/
  | systemPageUnmapped
  /-- Raised by Ops.takeFault for a fault at system level: the spec gives firmware no fault entry (R97, R378). Safe. -/
  | firmwareFault
  deriving DecidableEq, Repr

/-- Why the model gives an instruction no meaning. -/
inductive Refusal where
  /-- Raised by Dispatch.exec for an instruction that the model does not reach. Safe: nothing is claimed of it. -/
  | notModelled (mnemonic : String)
  deriving DecidableEq, Repr

/-- One turn of the agenda: what happens next (log 1). With no turn listed, the context `cur` issues. -/
inductive Turn where
  /-- This context has the issue slot of its core (R21). -/
  | issue (c : Nat)
  /-- An agent's step. -/
  | event (i : Instr)
  /-- Clock cycles of a pier in which nothing issues (R37, R118, R352). -/
  | elapse (pier n : Nat)
  /-- A cached translation or line leaves its structure (R161, R257, R258). -/
  | drop (d : DropTlb)
  /-- A core of a pier in the over-scaled mode replays the instruction that it issued last (R69). -/
  | replay (core : Nat)
  /-- The fabric manager stores entries of a virtual device's peer table, or firmware prepares the tables of one that has no pier yet
  (R237, R244, R265). -/
  | tables (vd : Nat) (stores : List (Nat × Word))
  /-- The sensors and monitors of a deck and of the module write their telemetry words: junction, power; inlet, outlet, flow, input
  power (R412). -/
  | readings (deck : Nat) (junction : BitVec 16) (power : BitVec 32) (inlet outlet : BitVec 16) (flow : BitVec 64) (inPower : BitVec 32)
  /-- Firmware enrols a host for the management path, or removes it (R402). -/
  | enrol (host : Nat) (on : Bool)
  /-- Firmware takes a tenant's configuration (R408). -/
  | tenant (n : Nat) (config : Bytes)
  deriving DecidableEq, Repr

/-- A PREEMPT, or a request of management command 2, in progress (R49, R391): the context that asked, the job it names, cores
it has still to reach, contexts that it has reached and that have not stopped, and the units it has made PARKED (context,
virtual device, record). -/
structure PreReq where
  ctx : Option Nat
  job : Option Nat
  todo : List Nat
  waiting : List Nat
  parked : List (Nat × Nat × Nat)
  deriving DecidableEq, Repr

/-- A relocation at its source (R393 to R398): virtual device, target prefix and number, step, and the cause of a failure. -/
structure RelocSt where
  vd : Nat
  toPrefix : Nat
  toVd : Nat
  sent : Bool
  acked : Bool
  failed : Bool
  deriving DecidableEq, Repr

/-- A reply of an owner to an ACCNT of another module's page (R353): context, tag of its request, value. -/
structure AccntSt where
  ctx : Nat
  tag : Nat
  value : Option Word
  deriving DecidableEq, Repr

/-- The module. -/
structure State where
  /-- HBM by local physical address (R13, R243). -/
  mem : Mem
  /-- Scratchpads (R151). -/
  spad : Mem
  /-- Empty granules, rising (R154). -/
  granEmpty : List Nat
  /-- Truss banks (R182). -/
  truss : Mem
  /-- Accumulator stores (R186). -/
  acc : Mem
  /-- Norm factors (R208). -/
  norms : KMap (BitVec 32)
  /-- Poisoned protection units (R389). -/
  poison : List ScrubUnit
  ctxs : KMap Ctx
  cores : KMap Core
  piers : KMap Pier
  decks : KMap Deck
  vdevs : KMap VDev
  jobs : KMap JobRec
  launches : KMap Launch
  queues : KMap Queue
  /-- Counter slices, by counter id (R339, R340). -/
  counters : KMap Counter
  /-- The reuse table (R282) and its use clock. -/
  reuse : KMap Reuse
  reuseClock : Nat
  /-- Conversion entries and relayouts (R277, R280). -/
  convs : List Conv
  /-- Records in the placement network (R29, R30). -/
  walkers : List Walk
  /-- Stolen records on their way to a thief: context, record, virtual device (R32). -/
  stolen : List (Nat × Nat × Nat)
  /-- Messages and announcements in flight, oldest first (R15). -/
  mesh : List MeshItem
  /-- Counter operations in flight, oldest first (R345). -/
  ctrReqs : List CtrReq
  /-- Faults found at counter slices and not yet raised, oldest first (R345). -/
  sliceFaults : List SliceFault
  /-- Notices, raised or on their way (R379). -/
  notices : List Notice
  /-- Units that are DONE and not yet retired (R25). -/
  dying : List Dying
  /-- Units that insert no reuse entry: virtual device, record (R287). -/
  taints : List (Nat × Nat)
  /-- Pier where a FAULTED or PARKED unit suspended: virtual device, record, pier (R29). -/
  places : List (Nat × Nat × Nat)
  /-- Remote accesses not yet answered (R384, R385). -/
  remote : List RemoteReq
  arrived : List Arrived
  /-- Next sequence number by target (R384). -/
  seqs : KMap Nat
  /-- Windows by source (R384). -/
  streams : KMap Stream
  /-- Viaduct ports whose link is down; port and target of each failed retry since the path last worked (R385). -/
  linksDown : List Nat
  badPaths : List (Nat × Nat)
  transfers : List Transfer
  counts : KMap PageCount
  shoots : List Shoot
  preempts : List PreReq
  advice : List Advice
  leaseReqs : List LeaseReq
  accnts : List AccntSt
  /-- The job for which the pager made a local frame resident, by its number (R263, R264). -/
  frameJobs : KMap Nat
  relocs : List RelocSt
  /-- Relocation states that have arrived (R395). -/
  images : List VdImage
  /-- Read-duplicated ranges that this module's pagers know by their advice, the latest first (R251). -/
  dupRanges : List DupRange
  /-- Collapse requests at this module, the duplicate master, in arrival order (R252). -/
  collapses : List Collapse
  /-- Pages for which this module's pager waits for the duplicate master (R251, R252): virtual device, page. -/
  collapseWaits : List (Nat × Nat)
  /-- Reclaims and grants of exchange pages in arrival order: virtual device, page, host, grant (R401). -/
  exchanges : List (Nat × Nat × Nat × Bool)
  /-- The host that owns an exchange page: virtual device, page, host (R254, R401). -/
  hostPages : List (Nat × Nat × Nat)
  storage : List Storage
  /-- The number of the next write of each host's ROD flow, by host × 65,536 + flow (R400). -/
  rodFlows : KMap Nat
  boots : KMap Boot
  /-- Fused: minimum security version, key hash of stage 1, module serial (R407, R408). -/
  fuseVer : Nat
  fuseKey : Bytes
  serial : Bytes
  /-- Hosts enrolled for the management path (R402). -/
  hosts : List Nat
  /-- Each tenant's configuration (R408). -/
  tenantCfg : KMap Bytes
  /-- Module telemetry: inlet, outlet, flow, input power (R412). -/
  inlet : BitVec 16
  outlet : BitVec 16
  flow : BitVec 64
  inPower : BitVec 32
  /-- This module's pod, board and device (R243). -/
  ownPrefix : Nat
  /-- What the module has sent to the outside, oldest first. -/
  out : List OutMsg
  /-- MODEL: the next number for a remote request. -/
  nextUid : Nat
  /-- MODEL: a system access failed (Fault.systemPageUnmapped). -/
  broken : Option Fault
  /-- MODEL: the context whose instruction `exec` performs. -/
  cur : Nat
  /-- MODEL: the turns to come (log 1). -/
  agenda : List Turn
  /-- MODEL: index of the next free value (log 3). -/
  free : Nat
  deriving DecidableEq, Repr

/-- A context after reset: idle, registers full. Register values that R23 gives only at unit start are those of unit
start here (log 4). -/
def Ctx.reset : Ctx :=
  { role := .idle, s := [], sEmpty := 0, v := [], vEmpty := 0, k := [], kEmpty := 0, h := [], pc := 0, pfx := []
    flags := 0, rmode := 0, urgency := 0, budget := 0, stkbase := 0, frame := 0, cause := 0, faddr := 0, fpc := 0
    enck := 8, enctau := 0x3C23D70A, enceps := 0x3D4CCCCD, encdict := 0, lastjob := 0, handlercap := 256
    vd := 0, tenant := 0, jobid := 0, launchid := 0, unitidx := 0, record := 0, strict := false, pure := false
    coresUnit := false, loads := [], stop := none, preemptReq := false, cancelReq := false, memerr := none, unknown := none
    fencing := false, fenceLines := false, sbWait := false, fifoWait := none, ending := false, reply := none, asked := false, pageWait := false
    reserved := none, heldUnit := none, freed := false, stealing := false, probe := false }

/-- A core after pier reset (R96, R154). -/
def Core.reset : Core :=
  { sb := [], cycles := 0, mweight := 1, utlb := [], halted := false, stepping := false, lastIssue := 0, replays := 0, stream := []
    ingress := [] }

/-- A pier after pier reset (R154, R184, R187, R208); STEALR 4 and 1,600 MHz by log 4. -/
def Pier.reset : Pier :=
  { owner := none, trsplit := 0, split := 0, splitWait := [], slots := [], marks := [], jobs := [], nextJob := 1
    dslots := [], tracked := [], images := [], imgClock := 0, recvs := [], recvStates := [], overflow := []
    deliveries := [], held := [], fullRaised := false, annHeld := [], fifos := [], deque := [], dqWait := []
    stealr := 4, events := [], freq := 1600, overScaled := false, entries := [], tlb := [], rotM := (0, 0)
    rotE := (0, 0), rotA := (0, 0), rotC := (0, 0), rotP := (0, 0), poweredDown := false }

/-- A deck after reset (R412). -/
def Deck.reset : Deck :=
  { lines := [], walks := [], triples := [], booted := false, junction := 0, power := 0, cacheCorr := 0, hbmCorr := 0
    uncorr := 0, stopped := false, throttle := 0, discards := 0 }

/-- The boot items of a deck before any image is in flash (log 4). -/
def Boot.reset : Boot :=
  { romOk := true, slots1 := [], slots2 := [], active1 := 0, active2 := 0, meas := [], bootedImages := [] }

/-- The module right after reset: no pier granted, no unit, every table at its reset value (R154, R184, R187, R407). -/
def State.reset : State :=
  { mem := [], spad := [], granEmpty := [], truss := [], acc := [], norms := [], poison := [], ctxs := [], cores := []
    piers := [], decks := [], vdevs := [], jobs := [], launches := [], queues := [], counters := [], reuse := []
    reuseClock := 0, convs := [], walkers := [], stolen := [], mesh := [], ctrReqs := [], sliceFaults := [], notices := [], dying := [], taints := [], places := [], remote := []
    arrived := [], seqs := [], streams := [], linksDown := [], badPaths := [], transfers := [], counts := []
    shoots := [], preempts := [], advice := [], leaseReqs := [], accnts := [], frameJobs := [], relocs := [], images := []
    dupRanges := [], collapses := [], collapseWaits := [], exchanges := [], hostPages := [], storage := [], rodFlows := [], boots := [], fuseVer := 0, fuseKey := []
    serial := [], hosts := [], tenantCfg := [], inlet := 0, outlet := 0, flow := 0, inPower := 0, ownPrefix := 0
    out := [], nextUid := 0, broken := none, cur := 0, agenda := [], free := 0 }

/-- The outcome of a step of this machine. -/
abbrev Out := Host.Outcome State Fault Refusal

end Sys2Proof.Machine
end

