-- ==== Sys2Proof/Machine/Base.lean ====
section
/-!
DEFINITION. Tables, byte memories, and the accessors of contexts, cores, piers, decks and registers. Every read and write
of a part of State goes through this file.
-/
namespace Sys2Proof.Machine

/-! ### Tables -/

/-- The value at a key, `d` where the table lists none. -/
def kget {α : Type} (d : α) : KMap α → Nat → α
  | [], _ => d
  | (k, v) :: m, a => if a = k then v else kget d m a

/-- The value at a key, if listed. -/
def kget? {α : Type} : KMap α → Nat → Option α
  | [], _ => none
  | (k, v) :: m, a => if a = k then some v else kget? m a

/-- Put a value at a key; keys stay strictly rising. -/
def kput {α : Type} (a : Nat) (x : α) : KMap α → KMap α
  | [] => [(a, x)]
  | (k, v) :: m => if a < k then (a, x) :: (k, v) :: m else if a = k then (a, x) :: m else (k, v) :: kput a x m

/-- Remove a key. -/
def kdel {α : Type} (a : Nat) (m : KMap α) : KMap α := m.filter (fun p => p.1 != a)

/-! ### Byte memories -/

/-- What an unlisted byte reads as (log 2). -/
def blankByte : Byte := 0

/-- One byte of a memory. -/
def memGet : Mem → Nat → Byte
  | [], _ => blankByte
  | (k, v) :: m, a => if a < k then blankByte else if a = k then v else memGet m a

/-- Does the list go on above an address? In canonical form it always does behind its cell. -/
def memAbove (a : Nat) : Mem → Bool
  | [] => true
  | (k, _) :: _ => a < k

/-- Store one byte and keep the canonical form. -/
def memPut (a : Nat) (b : Byte) : Mem → Mem
  | [] => if b = blankByte then [] else [(a, b)]
  | (k, v) :: m =>
    if a < k then (if b = blankByte then (k, v) :: m else (a, b) :: (k, v) :: m)
    else if a = k then (if b = blankByte && memAbove a m then m else (a, b) :: m)
    else (k, v) :: memPut a b m

/-- n bytes from an address. -/
def memRead (m : Mem) (a n : Nat) : Bytes := (List.range n).map (fun i => memGet m (a + i))

/-- Store bytes from an address on. -/
def memWrite (m : Mem) (a : Nat) : Bytes → Mem
  | [] => m
  | b :: bs => memWrite (memPut a b m) (a + 1) bs

/-- Make the bytes lo to hi − 1 blank. -/
def memClear (m : Mem) (lo hi : Nat) : Mem := m.filter (fun c => c.1 < lo || hi ≤ c.1)

/-- Keys above a bound, strictly rising, no blank byte. -/
def memWfFrom : Option Nat → Mem → Bool
  | _, [] => true
  | lo, (k, v) :: m => (match lo with | none => true | some l => decide (l < k)) && v != blankByte && memWfFrom (some k) m

/-- The canonical form of a byte memory. -/
def Memory.wf (m : Mem) : Bool := memWfFrom none m

/-- A little-endian number (R1). -/
def leNat : Bytes → Nat
  | [] => 0
  | b :: bs => b.toNat + 256 * leNat bs

/-- The low n bytes of a number, little-endian (R1). -/
def leBytes : Nat → Nat → Bytes
  | 0, _ => []
  | n + 1, x => BitVec.ofNat 8 x :: leBytes n (x / 256)

/-- n bytes from offset i of a byte list, as a number; bytes past the end are zero. -/
def leAt (bs : Bytes) (i n : Nat) : Nat := leNat ((bs.drop i).take n)

/-- Bits [hi:lo] of a number (R5). -/
def bits (x hi lo : Nat) : Nat := x / 2 ^ lo % 2 ^ (hi + 1 - lo)

/-- Replace bits [hi:lo] of a number. -/
def setBits (x hi lo v : Nat) : Nat :=
  x / 2 ^ (hi + 1) * 2 ^ (hi + 1) + v % 2 ^ (hi + 1 - lo) * 2 ^ lo + x % 2 ^ lo

/-- One bit of a number. -/
def bit (x p : Nat) : Bool := x.testBit p

/-! ### Numbers of piers, cores and contexts (R9) -/

def coreOfCtx (c : Nat) : Nat := c / 4
def pierOfCtx (c : Nat) : Nat := c / 32
def pierOfCore (k : Nat) : Nat := k / 8
def pierX (p : Nat) : Nat := p % 200
def pierY (p : Nat) : Nat := p / 200
def pierAt (x y : Nat) : Nat := y * 200 + x

/-- The deck of a pier (R9). -/
def deckOfPier (p : Nat) : Nat := pierX p / 25 + 8 * (pierY p / 32)

/-- Manhattan distance in pier hops (R9). -/
def hops (p q : Nat) : Nat :=
  let d (a b : Nat) : Nat := if a ≥ b then a - b else b - a
  d (pierX p) (pierX q) + d (pierY p) (pierY q)

/-- The stack of a local physical address, which is the deck that is its home (R243, R246). -/
def homeDeck (pa : Nat) : Nat := pa / 2 ^ 40

/-! ### Parts of the state -/

namespace State

def ctx (s : State) (c : Nat) : Ctx := kget Ctx.reset s.ctxs c
def setCtx (s : State) (c : Nat) (x : Ctx) : State := { s with ctxs := kput c x s.ctxs }
def core (s : State) (k : Nat) : Core := kget Core.reset s.cores k
def setCore (s : State) (k : Nat) (x : Core) : State := { s with cores := kput k x s.cores }
def pier (s : State) (p : Nat) : Pier := kget Pier.reset s.piers p
def setPier (s : State) (p : Nat) (x : Pier) : State := { s with piers := kput p x s.piers }
def deck (s : State) (d : Nat) : Deck := kget Deck.reset s.decks d
def setDeck (s : State) (d : Nat) (x : Deck) : State := { s with decks := kput d x s.decks }
def boot (s : State) (d : Nat) : Boot := kget Boot.reset s.boots d
def setBoot (s : State) (d : Nat) (x : Boot) : State := { s with boots := kput d x s.boots }

/-- Is a pier without power: its own, or its deck's (R411)? -/
def unpowered (s : State) (p : Nat) : Bool := (s.pier p).poweredDown || (s.deck (deckOfPier p)).stopped

/-- The context whose instruction is performed. -/
def me (s : State) : Ctx := s.ctx s.cur
def setMe (s : State) (x : Ctx) : State := s.setCtx s.cur x

def vdev? (s : State) (v : Nat) : Option VDev := kget? s.vdevs v
def setVdev (s : State) (v : Nat) (x : VDev) : State := { s with vdevs := kput v x s.vdevs }
def job? (s : State) (j : Nat) : Option JobRec := kget? s.jobs j
def setJob (s : State) (j : Nat) (x : JobRec) : State := { s with jobs := kput j x s.jobs }
def launch? (s : State) (l : Nat) : Option Launch := kget? s.launches l
def setLaunch (s : State) (l : Nat) (x : Launch) : State := { s with launches := kput l x s.launches }
def queue? (s : State) (q : Nat) : Option Queue := kget? s.queues q
def setQueue (s : State) (q : Nat) (x : Queue) : State := { s with queues := kput q x s.queues }

/-- A value the spec leaves open, and the state after taking it (log 3). -/
def freeWord (s : State) : Word := Config.openWord s.free
def takeFree (s : State) : State := { s with free := s.free + 1 }

/-- Count pier events (R352). -/
def countEvent (s : State) (p ev n : Nat) : State :=
  let x := s.pier p
  s.setPier p { x with events := kput ev (kget 0 x.events ev + BitVec.ofNat 64 n) x.events }

/-- The module sends something out. -/
def emit (s : State) (m : OutMsg) : State := { s with out := s.out ++ [m] }

/-- The outcome of a step: the next state, unless a system access failed (log 7). -/
def done (s : State) : Out :=
  match s.broken with
  | none => .next s
  | some f => .fault f

/-- Has the quiesce of a virtual device begun (R394)? -/
def quiet (s : State) (vd : Nat) : Bool := match s.vdev? vd with | some v => v.quiesced | none => false

/-- The same for the owner of a pier. -/
def quietPier (s : State) (p : Nat) : Bool := match (s.pier p).owner with | some vd => s.quiet vd | none => false

/-- The state of the virtual device is on its way to another module (R395), so nothing of it changes here. -/
def frozen (s : State) (vd : Nat) : Bool := s.relocs.any (fun r => r.vd == vd && r.sent)

end State

/-! ### Registers of a context (R91 to R94, R120) -/

namespace Ctx

/-- Level of privilege (R97). -/
def level (c : Ctx) : Nat :=
  match c.role with
  | .idle => 0 | .unit => 0 | .handler => 1 | .entry _ => 2 | .firmware => 3

/-- s0 reads zero (R91). -/
def getS (c : Ctx) (r : SReg) : Word := if r = 0 then 0 else kget 0 c.s r.toNat

/-- Is the register full? s0 always is (R91). -/
def fullS (c : Ctx) (r : SReg) : Bool := r = 0 || !c.sEmpty.getLsbD r.toNat

/-- Write a scalar and set it full; a write of s0 is discarded (R91, R92). -/
def setS (c : Ctx) (r : SReg) (x : Word) : Ctx :=
  if r = 0 then c
  else { c with s := kput r.toNat x c.s, sEmpty := c.sEmpty &&& ~~~(1#64 <<< r.toNat) }

/-- A long-latency producer marks its destination empty (R92); s0 stays full. -/
def emptyS (c : Ctx) (r : SReg) : Ctx :=
  if r = 0 then c else { c with sEmpty := c.sEmpty ||| (1#64 <<< r.toNat) }

/-- k0 reads all ones (R94). -/
def getK (c : Ctx) (r : KReg) : Word := if r = 0 then BitVec.allOnes 64 else kget 0 c.k r.toNat

def fullK (c : Ctx) (r : KReg) : Bool := r = 0 || !c.kEmpty.getLsbD r.toNat

/-- Write a guard: all 64 bits, full (R94). -/
def setK (c : Ctx) (r : KReg) (x : Word) : Ctx :=
  if r = 0 then c
  else { c with k := kput r.toNat x c.k, kEmpty := c.kEmpty &&& ~~~(1#8 <<< r.toNat) }

/-- KCLR: empty, bits unchanged (R106). -/
def emptyK (c : Ctx) (r : KReg) : Ctx :=
  if r = 0 then c else { c with kEmpty := c.kEmpty ||| (1#8 <<< r.toNat) }

def getV (c : Ctx) (r : VNum) : VReg := kget VReg.zero c.v r.toNat

def fullV (c : Ctx) (r : VNum) : Bool := !c.vEmpty.getLsbD r.toNat

def setV (c : Ctx) (r : VNum) (x : VReg) : Ctx :=
  { c with v := kput r.toNat x c.v, vEmpty := c.vEmpty &&& ~~~(1#32 <<< r.toNat) }

def emptyV (c : Ctx) (r : VNum) : Ctx := { c with vEmpty := c.vEmpty ||| (1#32 <<< r.toNat) }

def handle? (c : Ctx) (h : HReg) : Option Handle := kget? c.h h.toNat

/-- A producer in flight that loads this scalar register (R92). -/
def loadsS (c : Ctx) (r : SReg) : Bool := c.loads.any (fun p => match p.dst with | .scalar d _ _ => d == r | .word d => d == r | _ => false)

/-- An empty vector register that a producer in flight will write (R122). -/
def pendingV (c : Ctx) (r : VNum) : Bool :=
  !c.fullV r && c.loads.any (fun p => match p.dst with | .vector d _ _ _ => d == r | _ => false)

/-- OR flags into FLAGS (R64). -/
def addFlags (c : Ctx) (f : Flags) : Ctx := { c with flags := c.flags ||| f }

/-- Does the context hold something that issues? -/
def busy (c : Ctx) : Bool := c.role != .idle

/-- The context acts for this in the checks of R242 and R262. -/
def who (c : Ctx) (core : Nat) : Who :=
  { vd := c.vd, level := c.level, launch := c.launchid.toNat, strict := c.strict, pure := c.pure
    stk := c.stkbase.toNat, core := core }

end Ctx

/-- COREID of a core (R99). -/
def coreId (k : Nat) : Nat :=
  let p := pierOfCore k
  deckOfPier p * 2 ^ 24 + pierY p * 2 ^ 16 + pierX p * 2 ^ 8 + k % 8

end Sys2Proof.Machine
end

