-- ==== Sys2Proof/Machine/Tensor.lean ====
section
/-!
DEFINITION. Layout records: fields, well-formedness, extents, and the place of an element (R271 to R276). A record is its 64
bytes.
-/
namespace Sys2Proof.Machine

/-! ### Fields (R271, R272) -/

def lBase (r : Bytes) : Nat := leAt r 0 8
def lShadow (r : Bytes) : Nat := leAt r 8 8
/-- Dimension k. -/
def lDim (r : Bytes) (k : Nat) : Nat := leAt r (0x10 + 4 * k) 4
def lCtl (r : Bytes) : Nat := leAt r 0x2C 4
def lFill (r : Bytes) : Nat := leAt r 0x30 8
def lSide (r : Bytes) : Nat := leAt r 0x38 8
def ctlTag (c : Nat) : Nat := bits c 9 8
def ctlTarget (c : Nat) : Nat := bits c 11 10
def ctlConverting (c : Nat) : Bool := bit c 12
def lRank (r : Bytes) : Nat := bits (lCtl r) 6 4
def lFmt? (r : Bytes) : Option Fmt := Fmt.ofCode (bits (lCtl r) 3 0)
/-- The format of a well-formed record. -/
def lFmt (r : Bytes) : Fmt := (lFmt? r).getD .i8
/-- Element bytes; one for E2M1X, whose codes lie two to a byte. -/
def fmtBytes (f : Fmt) : Nat :=
  match f with
  | .i64 => 8 | .i32 => 4 | .n32 => 4 | .fp32 => 4 | .i16 => 2 | .n16 => 2 | .bf16 => 2 | .fp16 => 2 | _ => 1
def lWidth (r : Bytes) : Nat := fmtBytes (lFmt r)

/-! ### Tiles and extents (R275, R276) -/

/-- Rows and columns of a tile. -/
def blockRows (w : Nat) : Nat := match w with | 1 => 64 | 2 => 32 | 4 => 32 | _ => 16
def blockCols (w : Nat) : Nat := match w with | 1 => 64 | 2 => 64 | _ => 32

/-- Offset of an element within a tile by a tag: 1 BLK, 2 BLKT, 3 SWZ (R276). -/
def tileOffset (w tag i j : Nat) : Nat :=
  let br := blockRows w
  let bc := blockCols w
  match tag with
  | 2 => (j * br + i) * w
  | 3 => i * bc * w + Nat.xor (j * w / 16) (i % (bc * w / 16)) * 16 + j * w % 16
  | _ => (i * bc + j) * w

/-- R, C and the product of the outer dimensions. -/
def lRows (r : Bytes) : Nat := if lRank r ≤ 1 then 1 else lDim r (lRank r - 2)
def lCols (r : Bytes) : Nat := lDim r (lRank r - 1)
def lOuter (r : Bytes) : Nat := ((List.range (lRank r - 2)).map (lDim r)).foldl (fun a b => a * b) 1
/-- Elements of the tensor. -/
def lCount (r : Bytes) : Nat := ((List.range (lRank r)).map (lDim r)).foldl (fun a b => a * b) 1
/-- ⌈x / y⌉. -/
def ceilDiv (x y : Nat) : Nat := (x + y - 1) / y
def tileRows (r : Bytes) : Nat := ceilDiv (lRows r) (blockRows (lWidth r))
def tileCols (r : Bytes) : Nat := ceilDiv (lCols r) (blockCols (lWidth r))

/-- Bytes of the extent, by the tag of the copy. -/
def lExtent (r : Bytes) : Nat :=
  if ctlTag (lCtl r) == 0 then (if lFmt r == .e2m1x then ceilDiv (lCount r) 2 else lCount r * lWidth r)
  else 4096 * (tileRows r * tileCols r * lOuter r)

/-- Tiles of the extent; none for an untracked LIN record. -/
def lTiles (r : Bytes) : Nat := if lShadow r == 0 then 0 else ceilDiv (lExtent r) 4096

/-- A well-formed record (R273). The alignments that R271 gives the shadow base and the side array count as reserved bits. -/
def recordOk (r : Bytes) : Bool :=
  let c := lCtl r
  let n := lRank r
  let w := lWidth r
  let tag := ctlTag c
  r.length == 64 && (lFmt? r).isSome && c / 2 ^ 15 == 0 && !bit c 7 && bits c 14 13 ≤ 1 && 1 ≤ n && n ≤ 7
    && (List.range 7).all (fun k => if k < n then lDim r k != 0 else lDim r k == 0)
    && lFill r / 2 ^ (8 * w) == 0 && lShadow r % 16 == 0
    && (if ctlConverting c then tag != 0 && ctlTarget c != 0 && tag != ctlTarget c else ctlTarget c == 0)
    && (if lFmt r == .e2m1x then tag == 0 && !ctlConverting c && lBase r % 32 == 0 && lSide r % 2 == 0 else lSide r == 0)
    && (if tag != 0 then lBase r % 4096 == 0 && lShadow r != 0
        else lBase r % w == 0 && (lShadow r == 0 || lBase r % 4096 == 0))
    && 2 ^ 40 ≤ lBase r && lBase r + lExtent r ≤ 2 ^ 48

/-! ### Elements -/

/-- The place of an element: its address by a tag, and for a tiled tag the virtual address of its tile's header, i and j. -/
structure ElemAt where
  va : Nat
  tile : Option (Nat × Nat × Nat)
  deriving DecidableEq, Repr

/-- Linear index of coordinates over dimensions, last fastest. -/
def linear (ds cs : List Nat) : Nat := (ds.zip cs).foldl (fun n x => n * x.1 + x.2) 0

/-- Is an element inside the tensor? -/
def inTensor (r : Bytes) (cs : List Int) : Bool :=
  cs.length == lRank r && (List.range (lRank r)).all (fun k => 0 ≤ cs.getD k 0 && cs.getD k 0 < (lDim r k : Int))

/-- The place of an element inside the tensor, by the Tag bits read at the access (R275, R276). Not for E2M1X. -/
def elemAt? (r : Bytes) (tag : Nat) (cs : List Int) : Option ElemAt :=
  if !inTensor r cs then none
  else
    let n := lRank r
    let w := lWidth r
    let ds := (List.range n).map (lDim r)
    let xs := cs.map Int.toNat
    if tag == 0 then some ⟨lBase r + linear ds xs * w, none⟩
    else
      let row := if n ≤ 1 then 0 else xs.getD (n - 2) 0
      let col := xs.getD (n - 1) 0
      let outer := linear (ds.take (n - 2)) (xs.take (n - 2))
      let t := (outer * tileRows r + row / blockRows w) * tileCols r + col / blockCols w
      let i := row % blockRows w
      let j := col % blockCols w
      some ⟨lBase r + 4096 * t + tileOffset w tag i j, some (lShadow r + 16 * t, i, j)⟩

end Sys2Proof.Machine
end

