-- ==== Sys2Proof/Machine/Access.lean ====
section
/-!
DEFINITION. Windows and translation (R151 to R153, R237 to R246, R257 to R262), performing reads and writes at their home
(R159, R243, R248, R249, R303, R389), remote requests (R384, R385, R405), and the store buffer (R358 to R360).
-/
namespace Sys2Proof.Machine

/-! ### Windows (R151) -/

/-- What a generic address reaches. -/
inductive Win where
  | spad (core off : Nat)
  | stack (va : Nat)
  | glob (va : Nat)
  deriving DecidableEq, Repr

/-- The window of an address seen from a core with this STKBASE, with the number of the window: 0 own scratchpad, 1 to 8
pier cores, 9 stack, 10 global (R151, R153). -/
def window (core stk a : Nat) : Option (Nat × Win) :=
  if a < 98304 then some (0, .spad core a)
  else if 1048576 ≤ a && a < 2097152 then
    let c := (a - 1048576) / 131072
    let off := (a - 1048576) % 131072
    if off < 98304 then some (1 + c, .spad (pierOfCore core * 8 + c) off) else none
  else if 16777216 ≤ a && a < 16842752 then some (9, .stack (stk + (a - 16777216)))
  else if 2 ^ 40 ≤ a && a < 2 ^ 48 then some (10, .glob a)
  else none

/-- The window number of an address. -/
def windowNo (core a : Nat) : Option Nat := (window core 0 a).map Prod.fst

/-- Do n bytes from a lie in one window? -/
def oneWindow (core a n : Nat) : Bool :=
  match windowNo core a, windowNo core (a + n - 1) with
  | some x, some y => x == y && n ≤ 2 ^ 48
  | _, _ => false

/-- Do n bytes from a lie in one scratchpad window? -/
def inSpad (core a n : Nat) : Bool :=
  oneWindow core a n && (match windowNo core a with | some w => w ≤ 8 | none => false)

/-- Core and offset of a scratchpad address. -/
def spadPlace (core a : Nat) : Nat × Nat :=
  match window core 0 a with
  | some (_, .spad c o) => (c, o)
  | _ => (core, 0)

/-! ### Page-table entries (R238 to R240) -/

def leafPages (x : Nat) : Nat := match bits x 5 4 with | 1 => 65536 | 2 => 2 ^ 21 | _ => 2 ^ 30
def leafMode (x : Nat) : Nat := bits x 7 6
def leafPeer (x : Nat) : Nat := bits x 27 16
def leafFrame (x : Nat) : Nat := bits x 55 28

/-- A malformed entry at a level (R240). -/
def pteBad (x lvl : Nat) : Bool :=
  match bits x 5 4 with
  | 0 => bits x 23 6 != 0 || bits x 3 1 != 0 || lvl == 4
  | sz =>
    bits x 15 14 != 0 || sz + lvl != 5
      || (sz == 2 && leafFrame x % 32 != 0) || (sz == 3 && leafFrame x % 16384 != 0)
      || (leafMode x == 0 && leafPeer x != 0)

/-- Index of a virtual address at a level (R237). -/
def vaIndex (va lvl : Nat) : Nat :=
  match lvl with
  | 1 => va / 2 ^ 39 % 512 | 2 => va / 2 ^ 30 % 512 | 3 => va / 2 ^ 21 % 512 | _ => va / 2 ^ 16 % 32

/-- A local address that no stack has: its bits [39:0] are at or above 48 GiB (R243). -/
def absentPa (pa : Nat) : Bool := Config.stackBytes ≤ pa % 2 ^ 40

/-- The walk of R241 from a table at a level, with the tables it passes; `none` for PAGE, and for an entry whose address no
stack has. -/
def walkFrom (m : Mem) (va : Nat) : Nat → Nat → Nat → Option (Nat × List (Nat × Nat))
  | 0, _, _ => none
  | fuel + 1, lvl, t =>
    let x := leNat (memRead m (t + 8 * vaIndex va lvl) 8)
    if absentPa (t + 8 * vaIndex va lvl) || !bit x 0 || pteBad x lvl then none
    else if bits x 5 4 == 0 then
      match walkFrom m va fuel (lvl + 1) (bits x 55 24 * 4096) with
      | some (leaf, ts) => some (leaf, (lvl, bits x 55 24 * 4096) :: ts)
      | none => none
    else some (x, [])

/-- Does the walk come to an entry whose address no stack has (R243)? -/
def walkAbsent (m : Mem) (va : Nat) : Nat → Nat → Nat → Bool
  | 0, _, _ => false
  | fuel + 1, lvl, t =>
    let x := leNat (memRead m (t + 8 * vaIndex va lvl) 8)
    absentPa (t + 8 * vaIndex va lvl)
      || (bit x 0 && !pteBad x lvl && bits x 5 4 == 0 && walkAbsent m va fuel (lvl + 1) (bits x 55 24 * 4096))

/-- A whole walk from a root. -/
def walk (m : Mem) (root va : Nat) : Option Nat := (walkFrom m va 4 1 root).map Prod.fst

/-- Bits of the virtual address above a level's index, which key a walk-cache entry. -/
def vaPre (va lvl : Nat) : Nat :=
  match lvl with
  | 1 => va / 2 ^ 39 | 2 => va / 2 ^ 30 | _ => va / 2 ^ 21

/-- The table that the walk cache holds for a level (R257). -/
def cachedTable (ws : List WalkEntry) (root va lvl : Nat) : Option Nat :=
  (ws.find? (fun w => w.root == root && w.lvl == lvl && w.pre == vaPre va lvl)).map (fun w => w.table)

/-- A walk that starts from the deepest table the walk cache holds. -/
def walkCached (m : Mem) (ws : List WalkEntry) (root va : Nat) : Option (Nat × List (Nat × Nat)) :=
  match cachedTable ws root va 3 with
  | some t => walkFrom m va 1 4 t
  | none =>
    match cachedTable ws root va 2 with
    | some t => walkFrom m va 2 3 t
    | none =>
      match cachedTable ws root va 1 with
      | some t => walkFrom m va 3 2 t
      | none => walkFrom m va 4 1 root

/-- A cached leaf that covers an address. -/
def tlbFind (es : List TlbEntry) (va : Nat) : Option Nat :=
  (es.find? (fun e => e.base ≤ va && va < e.base + e.size)).map (fun e => e.leaf)

/-- Insert at the end; the oldest entry gives way at the capacity (log 17). -/
def capPush {α : Type} (cap : Nat) (xs : List α) (x : α) : List α :=
  (xs ++ [x]).drop (xs.length + 1 - cap)

/-- The root table of a virtual device. -/
def rootOf (s : State) (vd : Nat) : Nat :=
  match s.vdev? vd with
  | some v => v.root
  | none => 0

/-- The leaf an access uses: micro-TLB, pier TLB, then a walk (R257, R258). -/
def leafFor (s : State) (w : Who) (va : Nat) : Option Nat :=
  match tlbFind (s.core w.core).utlb va with
  | some x => some x
  | none =>
    match tlbFind (s.pier (pierOfCore w.core)).tlb va with
    | some x => some x
    | none => (walkCached s.mem (s.deck (deckOfPier (pierOfCore w.core))).walks (rootOf s w.vd) va).map Prod.fst

/-- The leaf by a new walk (R258). -/
def leafFresh (s : State) (w : Who) (va : Nat) : Option Nat := walk s.mem (rootOf s w.vd) va

/-- Fill the TLBs and the walk cache with what an access of this address used, and count misses (R257, R352). -/
def noteTranslation (s : State) (w : Who) (va : Nat) : State :=
  let p := pierOfCore w.core
  let k := s.core w.core
  match tlbFind k.utlb va with
  | some _ => s
  | none =>
    let s := s.countEvent p 5 1
    let entry (x : Nat) : TlbEntry := ⟨va / leafPages x * leafPages x, leafPages x, x⟩
    match tlbFind (s.pier p).tlb va with
    | some x => s.setCore w.core { k with utlb := capPush 16 k.utlb (entry x) }
    | none =>
      let s := (s.countEvent p 6 1).countEvent p 7 1
      let d := deckOfPier p
      let dk := s.deck d
      match walkCached s.mem dk.walks (rootOf s w.vd) va with
      | none => s
      | some (x, ts) =>
        let ws := (ts.filter (fun t => t.1 ≤ 3)).map (fun t => (⟨rootOf s w.vd, t.1, vaPre va t.1, t.2⟩ : WalkEntry))
        let s := s.setDeck d { dk with walks := ws.foldl (capPush 4096) dk.walks }
        let pr := s.pier p
        let s := s.setPier p { pr with tlb := capPush 1024 pr.tlb (entry x) }
        s.setCore w.core { k with utlb := capPush 16 k.utlb (entry x) }

/-! ### Checks of a translated access (R242 to R244, R262) -/

/-- Kinds of access. -/
inductive AKind where
  | read | write | fetch
  deriving DecidableEq, Repr

/-- A fault of an access: cause, faulting address, and whether the pager has it first (R242). -/
structure AFault where
  cause : Cause
  faddr : Nat
  pager : Bool
  deriving DecidableEq, Repr

/-- Address of a peer's entry (R244); that of peer 0 is never read. -/
def peerEntry (s : State) (vd peer : Nat) : Nat :=
  if peer == 0 then 0 else match s.vdev? vd with | some v => v.peerTab + 8 * peer | none => 0

/-- Does a table entry that a translation reads have an address that no stack has (R243)? -/
def tableAbsent (s : State) (w : Who) (va : Nat) (leaf : Option Nat) : Bool :=
  match leaf with
  | none => walkAbsent s.mem va 4 1 (rootOf s w.vd)
  | some x => absentPa (peerEntry s w.vd (leafPeer x))

/-- The prefix of a peer (R244); peer 0 is this module. -/
def peerPrefix (s : State) (vd peer : Nat) : Option Nat :=
  if peer == 0 then some s.ownPrefix
  else
    match s.vdev? vd with
    | none => none
    | some v =>
      let x := leNat (memRead s.mem (v.peerTab + 8 * peer) 8)
      if bit x 0 && bits x 43 1 == 0 then some (bits x 63 44) else none

/-- Is a leaf one of a relocated virtual device whose page is still at the module that it came from? Its first touch pulls the page
(R396): it is a PAGE, which the pager resolves by the pull (R385, R398). -/
def awaitsPull (s : State) (vd x : Nat) : Bool :=
  match s.vdev? vd with
  | none => false
  | some v => leafPeer x != 0 && v.movedFrom.isSome && peerPrefix s vd (leafPeer x) == v.movedFrom

/-- Does a range of the launch allow this byte (R261, R262)? -/
def leaseOk (s : State) (w : Who) (k : AKind) (va : Nat) : Bool :=
  match s.launch? w.launch with
  | none => false
  | some l => l.leases.any (fun r =>
      r.2.base ≤ va && va < r.2.base + r.2.pages * 65536 && (k != .write || r.2.write))

/-- The first condition of R242 that holds for a leaf. -/
def leafCause (s : State) (w : Who) (k : AKind) (leased : Bool) (va : Nat) (leaf : Option Nat) :
    Option (Cause × Bool) :=
  match leaf with
  | none => some (.page, true)
  | some x =>
    if (peerPrefix s w.vd (leafPeer x)).isNone || awaitsPull s w.vd x then some (.page, true)
    else if bit x 11 then some (.page, true)
    else if !bit x 3 && w.level < 3 then some (.address, false)
    else if k == .fetch && !bit x 2 then some (.page, true)
    else if k == .write && !bit x 1 then some (.writeProtect, bit x 8)
    else if leased && w.strict && !leaseOk s w k va then
      some (if w.pure then .purity else .leaseViolation, false)
    else none

/-- Where a leaf sends an address (R241, R245, R246, R250). -/
def leafLoc (s : State) (vd x va : Nat) : Loc :=
  let pa := leafFrame x * 65536 + va % leafPages x
  match peerPrefix s vd (leafPeer x) with
  | none => .here pa
  | some p => if p == s.ownPrefix then .here pa else .there p pa (leafMode x == 2 && !bit x 13)

/-- A placed byte: its place, whether its page is strongly ordered or tracked, the bytes of its page when this module counts
accesses to it, else 0 (R248), its address. -/
structure Placed where
  loc : Loc
  strong : Bool
  trk : Bool
  mig : Nat
  va : Nat
  deriving DecidableEq, Repr

/-- Translate one byte (R241, R242, R258): a fault through a cached leaf is judged again after a new walk. An address at or
above 48 GiB of its stack is MEMERR, for the data and for the table entries that the translation reads (R243). -/
def placeVa (s : State) (w : Who) (k : AKind) (leased : Bool) (va : Nat) : Except (Cause × Bool) Placed :=
  let x := match leafCause s w k leased va (leafFor s w va) with
    | none => leafFor s w va
    | some _ => leafFresh s w va
  if tableAbsent s w va x then .error (.memerr, false)
  else
  match leafCause s w k leased va x, x with
  | some c, _ => .error c
  | none, none => .error (.page, true)
  | none, some x =>
    let l := leafLoc s w.vd x va
    let pa := leafFrame x * 65536 + va % leafPages x
    if absentPa pa then .error (.memerr, false)
    else .ok ⟨l, bit x 9, bit x 10, match l with | .here _ => (if leafMode x == 3 then leafPages x else 0) | _ => 0, va⟩

/-- Place one byte of a generic address (R151, R153). -/
def placeByte (s : State) (w : Who) (k : AKind) (leased : Bool) (a : Nat) : Except (Cause × Bool) Placed :=
  match window w.core w.stk a with
  | none => .error (.address, false)
  | some (_, .spad c o) => .ok ⟨.spad c o, false, false, 0, a⟩
  | some (_, .stack va) => placeVa s w k false va
  | some (_, .glob va) => placeVa s w k leased va

/-- Place every byte of an access whose windows were already checked; the fault is that of the lowest failing byte
(R165). -/
def placeAll (s : State) (w : Who) (k : AKind) (leased : Bool) (as : List Nat) : Except AFault (List Placed) :=
  let rs := as.map (fun a => (a, placeByte s w k leased a))
  let bad := rs.filterMap (fun r => match r.2 with | .error c => some (r.1, c) | .ok _ => none)
  match bad with
  | [] => .ok (rs.filterMap (fun r => match r.2 with | .ok p => some p | .error _ => none))
  | b :: bs =>
    let m := bs.foldl (fun x y => if y.1 < x.1 then y else x) b
    .error ⟨m.2.1, m.1, m.2.2⟩

/-- Addresses of n bytes from a. -/
def span (a n : Nat) : List Nat := (List.range n).map (fun i => a + i)

/-- The 64 KiB pages that an access translates, each once. -/
def pagesOf (w : Who) (as : List Nat) : List Nat :=
  (as.filterMap (fun a => match window w.core w.stk a with
    | some (_, .stack va) => some (va / 65536)
    | some (_, .glob va) => some (va / 65536)
    | _ => none)).eraseDups

/-- Fill the TLBs for every page an access touches, and count its misses once a page (R352). -/
def noteAll (s : State) (w : Who) (as : List Nat) : State :=
  (pagesOf w as).foldl (fun s n => noteTranslation s w (n * 65536)) s

/-- Is this place in another module? -/
def Loc.isThere : Loc → Bool
  | .there _ _ _ => true
  | _ => false

/-! ### The hardware's own accesses (R19, R45, R158, R255, R285) -/

/-- The job and the pier of a notice about a location of a virtual device (R389): its first ones. -/
def noticeTo (s : State) (vd : Nat) : Nat × Nat :=
  match s.vdev? vd with
  | some v => (v.jobs.headD 0, v.piers.headD 0)
  | none => (0, 0)

/-- A notice of MEMERR for a location with a generic address (R389, R390). -/
def memerrNotice (s : State) (vd jobid pier : Nat) (faddr : Word) : State :=
  { s with notices := s.notices ++ [⟨vd, jobid, .memerr, faddr, 0, 0, pier, 0⟩] }

/-- Does the walk of a virtual address, its peer entry or its leaf lead to an address that no stack has (R243)? -/
def sysAbsent (s : State) (vd va : Nat) : Bool :=
  match walk s.mem (rootOf s vd) va with
  | none => walkAbsent s.mem va 4 1 (rootOf s vd)
  | some x => !bit x 11 && (absentPa (peerEntry s vd (leafPeer x)) || absentPa (leafFrame x * 65536 + va % leafPages x))

/-- Where a virtual address is kept, by a walk of the virtual device's table; `none` when its page is not resident (R242,
R244, R254), and where its address or one that its walk reads is none of a stack (R243). -/
def sysLoc (s : State) (vd va : Nat) : Option Loc :=
  match walk s.mem (rootOf s vd) va with
  | none => none
  | some x =>
    if bit x 11 || (peerPrefix s vd (leafPeer x)).isNone || sysAbsent s vd va then none
    else some (leafLoc s vd x va)

/-- Local physical address of a virtual address whose page this module has. -/
def sysPa (s : State) (vd va : Nat) : Option Nat :=
  match sysLoc s vd va with
  | some (.here pa) => some pa
  | _ => none

/-- Read n bytes that lie in one page; zeros where the page is not resident here (log 7). -/
def sysRead (s : State) (vd va n : Nat) : Bytes :=
  match sysPa s vd va with
  | some pa => memRead s.mem pa n
  | none => List.replicate n 0

/-- Write bytes that lie in one page. A write to an address that no stack has raises MEMERR (R243): a notice (log 7). -/
def sysWrite (s : State) (vd va : Nat) (bs : Bytes) : State :=
  match sysPa s vd va with
  | some pa => { s with mem := memWrite s.mem pa bs }
  | none =>
    if sysAbsent s vd va then memerrNotice s vd (noticeTo s vd).1 (noticeTo s vd).2 (BitVec.ofNat 64 va)
    else { s with broken := some .systemPageUnmapped }

/-- The pager meets a PAGE of a page that a host owns (R401): it asks the host for it, after the requests for that page that
came before. -/
def askReclaim (s : State) (vd va : Nat) : State :=
  match walk s.mem (rootOf s vd) va with
  | none => s
  | some x =>
    let page := va / leafPages x * leafPages x
    let here := s.exchanges.filter (fun e => e.1 == vd && e.2.1 == page)
    if !bit x 11 || here.any (fun e => !e.2.2.2) then s
    else
      let host := match s.hostPages.find? (fun h => h.1 == vd && h.2.1 == page) with | some h => h.2.2 | none => 0
      let s := { s with exchanges := s.exchanges ++ [(vd, page, host, false)] }
      if here.isEmpty then s.emit (.hostReclaim vd page) else s

/-- Virtual address of the tracking entry of an address's 64 KiB page (R255). -/
def trackVa (s : State) (vd va : Nat) : Nat :=
  (match s.vdev? vd with | some v => v.tracking | none => 0) + va / 65536 * 8

/-! ### Register blocks of launch queues (R303, R304) -/

/-- The queue and offset whose register block holds a local address. -/
def regBlock (s : State) (pa : Nat) : Option (Nat × Nat) :=
  match s.queues.find? (fun q => q.2.regPa ≤ pa && pa < q.2.regPa + 64) with
  | some (n, q) => some (n, pa - q.regPa)
  | none => none

/-- The 64 bytes of a register block. -/
def regBytes (q : Queue) : Bytes :=
  leBytes 8 q.widx ++ leBytes 8 q.ridx ++ leBytes 8 ((if q.error then 2 else 0) + (if q.enabled then 1 else 0))
    ++ List.replicate 40 0

/-- A write of v to WIDX (R304). -/
def writeWidx (s : State) (n v : Nat) : State :=
  match s.queue? n with
  | none => s
  | some q =>
    if v ≤ q.widx then s
    else if v ≤ q.ridx + 2 ^ q.logSize then s.setQueue n { q with widx := v }
    else s.setQueue n { q with error := true }

/-! ### Performing at a home -/

/-- Protection units of a place (R388): 8 bytes of scratchpad; 32 bytes of HBM, and 8 bytes of its home cache. -/
def unitsOf : Loc → List ScrubUnit
  | .spad c o => [.spad c (o / 8 * 8)]
  | .here pa => [.hbm (pa / 32 * 32), .cacheData (pa / 8 * 8)]
  | .there _ _ _ => []

/-- Bytes of memory in a protection unit. -/
def unitBytes : ScrubUnit → Nat
  | .hbm _ => 32
  | _ => 8

/-- Is a unit of this place poisoned (R389)? -/
def poisonedAt (s : State) (l : Loc) : Bool := (unitsOf l).any s.poison.contains

/-- The deck that has the memory of a place (R388, R412). -/
def deckOfLoc : Loc → Nat
  | .spad c _ => deckOfPier (pierOfCore c)
  | .here pa => homeDeck pa
  | .there _ _ _ => 0

/-- A MEMERR event of R389 in a deck's memories counts in its telemetry (R412). -/
def countUncorr (s : State) (d : Nat) : State := s.setDeck d { s.deck d with uncorr := (s.deck d).uncorr + 1 }

/-- A transfer that covers a local address and has not been handed over (R249). -/
def inTransfer (s : State) (pa : Nat) : Option Transfer :=
  s.transfers.find? (fun t => !t.handed && t.pa ≤ pa && pa < t.pa + t.size)

/-- The source of a held write of an agent of this module; prefixes of modules are below 2^20. -/
def heldBy (agent : Nat) : Nat := 2 ^ 20 + agent

/-- The conversion that has locked the tile at a local address, by its place in the list, with the tile (R278). -/
def lockedAt (s : State) (pa : Nat) : Option (Nat × Nat) :=
  (List.range s.convs.length).findSome? (fun i => match s.convs[i]? with
    | some c => (c.locked.find? (fun t => sysPa s c.vd (c.base + 4096 * t) == some (pa / 4096 * 4096))).map (fun t => (i, t))
    | none => none)

/-- A read of this byte waits: its tile is locked (R278). A read of a page in transfer is served (R249). -/
def heldAt (s : State) (l : Loc) : Bool :=
  match l with
  | .here pa => (lockedAt s pa).isSome
  | _ => false

/-- The newest write that a page in transfer holds for a byte: it is visible here from its arrival (R249, R360, R362, log 22). -/
def heldByte (s : State) (pa : Nat) : Option Byte :=
  match inTransfer s pa with
  | some t => (t.heldWrites.reverse.find? (fun h => h.2.1 ≤ pa && pa < h.2.1 + h.2.2.length)).map
      (fun h => h.2.2.getD (pa - h.2.1) 0)
  | none => none

/-- Does a page in transfer hold a write of this agent? -/
def holdsFor (s : State) (agent : Nat) : Bool :=
  s.transfers.any (fun t => !t.handed && t.heldWrites.any (fun h => h.1 == heldBy agent))

/-- One byte at this module. -/
def readHere (s : State) (l : Loc) : Byte :=
  match l with
  | .spad c o => memGet s.spad (c * 131072 + o)
  | .here pa =>
    match regBlock s pa with
    | some (n, off) => (match s.queue? n with | some q => (regBytes q).getD off 0 | none => 0)
    | none => (heldByte s pa).getD (memGet s.mem pa)
  | .there _ _ _ => 0

/-- Write one byte at this module, outside register blocks. -/
def pokeByte (s : State) (l : Loc) (b : Byte) : State :=
  match l with
  | .spad c o => { s with spad := memPut (c * 131072 + o) b s.spad }
  | .here pa => { s with mem := memPut pa b s.mem }
  | .there _ _ _ => s

/-- Writes into a register block: the eight bytes of WIDX form one write; a narrower write changes the bytes it names
(log 23), the last of two writes of one byte (R166); every other register ignores writes (R303, R304). -/
def writeRegs (s : State) (cells : List (Loc × Byte)) : State :=
  let hits := cells.filterMap (fun c => match c.1 with
    | .here pa => (regBlock s pa).map (fun r => (r.1, r.2, c.2))
    | _ => none)
  let w0 := hits.filter (fun h => h.2.1 < 8)
  match w0 with
  | [] => s
  | (n, _, _) :: _ =>
    match s.queue? n with
    | none => s
    | some q =>
      let old := leBytes 8 q.widx
      let new := (List.range 8).map (fun i =>
        match w0.reverse.find? (fun h => h.2.1 == i) with | some h => h.2.2 | none => old.getD i 0)
      writeWidx s n (leNat new)

/-- The 4,096 bytes of a tile from the offsets of one tag to those of another, padding included (R278 step 2). -/
def permuteTile (w tag target : Nat) (bs : Bytes) : Bytes :=
  let br := blockRows w
  let bc := blockCols w
  let moved := (List.range (br * bc)).map (fun n =>
    (tileOffset w target (n / bc) (n % bc), (bs.drop (tileOffset w tag (n / bc) (n % bc))).take w))
  let m := moved.foldl (fun m x => memWrite m x.1 x.2) []
  memRead m 0 4096

/-- Bits [hi:lo] of word 0 of the tile header at a virtual address: C is [33], L is [34] (R158). -/
def setTileBits (s : State) (vd h hi lo v : Nat) : State :=
  sysWrite s vd h (leBytes 8 (setBits (leNat (sysRead s vd h 8)) hi lo v))

/-- Steps 2 and 3 of R278 for tile t of conversion i. -/
def convertTile (s : State) (i t : Nat) : State :=
  match s.convs[i]? with
  | none => s
  | some c =>
    let s := match sysPa s c.vd (c.base + 4096 * t) with
      | some pa => { s with mem := memWrite s.mem pa (permuteTile c.w c.tag c.target (memRead s.mem pa 4096)) }
      | none => s
    setTileBits { s with convs := s.convs.set i { c with done := c.done ++ [t], locked := c.locked.filter (fun u => u != t) } }
      c.vd (c.shadow + 16 * t) 34 33 1

/-- Writes of these places come to their home: one to a locked tile waits for step 3 of R278, so that step comes first. -/
def unlockTiles (s : State) (ls : List Loc) : State :=
  if s.convs.all (fun c => c.locked.isEmpty) then s
  else
    ls.foldl (fun s l => match l with
      | .here pa => (match lockedAt s pa with | some (i, t) => convertTile s i t | none => s)
      | _ => s) s

/-- Does this byte lie in a poisoned unit of which the cells name some bytes and not all? -/
def partOf (s : State) (cells : List (Loc × Byte)) (l : Loc) : Bool :=
  (unitsOf l).any (fun u => s.poison.contains u
    && decide (((cells.map Prod.fst).filter (fun k => (unitsOf k).contains u)).eraseDups.length < unitBytes u))

/-- Is a store of these cells discarded, because it writes part of a poisoned unit (R389)? -/
def discarded (s : State) (cells : List (Loc × Byte)) : Bool :=
  !s.poison.isEmpty && cells.any (fun c => partOf s cells c.1)

/-- Write the cells of one operation at this module, `addrs` being their generic addresses: poisoned units that are wholly
written are cleared; an operation that writes part of one is discarded with a MEMERR notice of the first such address (R389,
R390). -/
def writeCells (s : State) (vd jobid pier : Nat) (addrs : List Nat) (cells : List (Loc × Byte)) : State :=
  match (if discarded s cells then (cells.zip addrs).find? (fun c => partOf s cells c.1.1) else none) with
  | some c => memerrNotice (countUncorr s (deckOfLoc c.1.1)) vd jobid pier (BitVec.ofNat 64 c.2)
  | none =>
    let s := writeRegs s cells
    let plain := cells.filter (fun c => match c.1 with | .here pa => (regBlock s pa).isNone | _ => true)
    let s := if s.poison.isEmpty then s
      else { s with poison := s.poison.filter (fun u => !plain.any (fun c => (unitsOf c.1).contains u)) }
    plain.foldl (fun s c => pokeByte s c.1 c.2) s

/-- One write at a tracked tile's home: generation + 1 modulo 2^32, Z cleared (R159). -/
def bumpHeader (s : State) (pa : Nat) : State :=
  let w0 := leNat (memRead s.mem pa 8)
  let g := (w0 + 1) % 2 ^ 32
  let rest := w0 / 2 ^ 33 * 2 ^ 33
  { s with mem := memWrite s.mem pa (leBytes 8 (rest + g)) }

def bumpHeaders (s : State) (hs : List Nat) : State := hs.foldl bumpHeader s

/-- Set or clear granule bits (R154): keys core × 8192 + granule. -/
def setGranules (s : State) (full : Bool) (gs : List Nat) : State :=
  let ins (l : List Nat) (g : Nat) : List Nat := (l.takeWhile (fun x => x < g)) ++ g :: (l.dropWhile (fun x => x < g))
  let new := gs.filter (fun g => !s.granEmpty.contains g)
  let es := if full then s.granEmpty.filter (fun g => !gs.contains g) else new.foldl ins s.granEmpty
  { s with granEmpty := es }

/-- The granules of scratchpad places. -/
def granulesOf (ls : List Loc) : List Nat :=
  (ls.filterMap (fun l => match l with | .spad c o => some (c * 8192 + o / 16) | _ => none)).eraseDups

/-- Are all these granules full? -/
def granulesFull (s : State) (gs : List Nat) : Bool := gs.all (fun g => !s.granEmpty.contains g)

/-- Count one request of a source for a MIGRATE page at its owner (R248): 16 bits, saturating. -/
def countAccess (s : State) (vd va page peer : Nat) : State :=
  let c := kget ⟨vd, va, []⟩ s.counts page
  { s with counts := kput page { c with counts := kput peer (min (kget 0 c.counts peer + 1) 65535) c.counts } s.counts }

/-- Count the request once for each local MIGRATE page on which a byte of it lies. -/
def countPlaced (s : State) (vd : Nat) (ps : List Placed) : State :=
  ((ps.filterMap (fun p => match p with
    | ⟨.here pa, _, _, n, va⟩ => if n == 0 then none else some (va / n * n, pa / n * n)
    | _ => none)).eraseDups).foldl (fun s x => countAccess s vd x.1 x.2 0) s

/-! ### Remote requests (R384, R385, R405) -/

/-- Ports whose path to a target is healthy. -/
def healthyPorts (s : State) (target : Nat) : List Nat :=
  (List.range Config.nPorts).filter (fun p => !s.linksDown.contains p
    && (s.badPaths.filter (fun x => x == (p, target))).length < 2)

/-- The port of a request: a hash of prefix and line over the healthy ports (R405, log 24). -/
def pickPort (s : State) (target pa : Nat) : Nat :=
  let hs := healthyPorts s target
  hs.getD ((target + pa / 64) % max hs.length 1) 0

/-- Unacknowledged numbers of a stream (R384). -/
def unacked (s : State) (target : Nat) : Nat :=
  (s.remote.filter (fun r => r.target == target && r.kind != RemoteKind.read && r.attempts != 0)).length

/-- The agent of this module that an access is made for. -/
def RemoteFor.agent : RemoteFor → Option Nat
  | .load c => some c
  | .store c => some c
  | .operand a => some a
  | .engine a => some a
  | .forward _ _ _ => none
  | .page _ _ _ _ => none

/-- How many bytes of a request its virtual address runs over: a CACHE line is asked for from its start, and its address is
that of the first byte wanted. -/
def RemoteReq.reach (r : RemoteReq) : Nat := r.size - (r.va % 65536 - r.pa % 65536)

/-- Two accesses of one agent to the same bytes, by their place or, where their page has moved meanwhile, by their address: the
later one waits for the earlier one (R356, R366, R370). -/
def remoteClash (q r : RemoteReq) : Bool :=
  q.who.agent == r.who.agent && q.who.agent.isSome
    && ((q.target == r.target && q.pa < r.pa + r.size && r.pa < q.pa + q.size)
      || (q.va < r.va + r.reach && r.va < q.va + q.reach))

/-- Nothing keeps a request from leaving: no earlier access to its bytes, and room in its stream (R356, R384). -/
def maySend (s : State) (r : RemoteReq) : Bool :=
  !(s.remote.takeWhile (fun q => q.uid != r.uid)).any (fun q => remoteClash q r)
    && (r.kind == RemoteKind.read || decide (unacked s r.target < 4096))

def kindCode : RemoteKind → Nat
  | .read => 1 | .write => 2 | .atom => 3 | .cas => 4 | .pull => 8

/-- Least k with 2^k ≥ n, for the size field of a flit (R404). -/
def log2Up (n : Nat) : Nat := if n ≤ 1 then 0 else (n - 1).log2 + 1

/-- The flit of a request (R404); the second word of a read or write of a handle element names its place (R279, log 92). -/
def reqFlit (own : Nat) (r : RemoteReq) (retry : Bool) : OutMsg :=
  .flit r.target own (kindCode r.kind) r.seq r.pa (log2Up r.size) r.opw r.cmpw r.data retry false

/-- A waiting request leaves. Stores, ATOM and CAS take the next number of the stream (R384); a read carries a number that
tells its reply apart. -/
def transmit (s : State) (r : RemoteReq) : State :=
  let seq := if r.kind == RemoteKind.read then r.uid % 2 ^ 32 else kget 0 s.seqs r.target
  let q : RemoteReq := { r with seq := seq, attempts := 1, port := pickPort s r.target r.pa }
  let s := { s with remote := s.remote.map (fun (x : RemoteReq) => if x.uid == r.uid then q else x)
                    seqs := if r.kind == RemoteKind.read then s.seqs else kput r.target ((seq + 1) % 2 ^ 32) s.seqs }
  s.emit (reqFlit s.ownPrefix q false)

/-- Every waiting request that may leave by now leaves, oldest first. -/
def sendWaiting (s : State) : State :=
  (s.remote.filter (fun r => r.attempts == 0)).foldl (fun s r => if maySend s r then transmit s r else s) s

/-- A request to a target: it is sent, or waits among the outstanding ones (R356, R384). -/
def sendRemote (s : State) (target : Nat) (kind : RemoteKind) (pa size : Nat) (data : Bytes) (opw cmpw : Word)
    (who : RemoteFor) (va : Nat) (fillFor : Option (Nat × Nat)) : State :=
  let r : RemoteReq := ⟨s.nextUid, target, 0, kind, pa, size, data, opw, cmpw, who, va, fillFor, 0, 0⟩
  let s := { s with remote := s.remote ++ [r], nextUid := s.nextUid + 1 }
  if maySend s r then transmit s r else s

/-- Send a request again to another place, as a new one of that stream with its own answer still to come (R249). -/
def resend (s : State) (r : RemoteReq) (target pa : Nat) : State :=
  let q : RemoteReq := { r with target := target, seq := 0, pa := pa, fillFor := none, attempts := 0, port := 0 }
  let s := { s with remote := s.remote.filter (fun (x : RemoteReq) => x.uid != r.uid) ++ [q] }
  if maySend s q then transmit s q else s

/-- Is a remote access of this context outstanding, or a write of it held by a page that is leaving (R249, R386, R387)? -/
def remoteOf (s : State) (c : Nat) : Bool :=
  s.remote.any (fun r => match r.who with
    | .load x => x == c | .store x => x == c | .operand x => x == c | _ => false) || holdsFor s c

/-- The held CACHE line of a remote place (R247). -/
def lineAt (s : State) (pier target pa : Nat) : Option CacheLine :=
  (s.deck (deckOfPier pier)).lines.find? (fun l => l.target == target && l.pa == pa / 64 * 64 && l.pier == pier)

/-- Update the held line of a store in the same step (R247); a line on its way that misses the store is not kept. -/
def updateLine (s : State) (pier target pa : Nat) (bs : Bytes) : State :=
  let d := deckOfPier pier
  let dk := s.deck d
  let upd (l : CacheLine) : CacheLine :=
    if l.target == target && l.pier == pier && l.pa ≤ pa && pa < l.pa + 64 then
      { l with bytes := (List.range 64).map (fun i =>
          if pa ≤ l.pa + i && l.pa + i < pa + bs.length then bs.getD (l.pa + i - pa) 0 else l.bytes.getD i 0) }
    else l
  { s.setDeck d { dk with lines := dk.lines.map upd } with
      remote := s.remote.map (fun (r : RemoteReq) =>
        if r.fillFor == some (d, pier) && r.target == target && r.pa < pa + bs.length && pa < r.pa + r.size then
          { r with fillFor := none } else r) }

/-- Drop held lines that satisfy a test (R247), and keep none of them that is on its way. -/
def dropLines (s : State) (d : Nat) (p : CacheLine → Bool) : State :=
  let dk := s.deck d
  let coming (r : RemoteReq) : Bool :=
    match r.fillFor with | some (e, pier) => e == d && p ⟨r.target, r.pa / 64 * 64, [], pier⟩ | none => false
  { s.setDeck d { dk with lines := dk.lines.filter (fun l => !p l) } with
      remote := s.remote.map (fun (r : RemoteReq) => if coming r then { r with fillFor := none } else r) }

/-- The sizes of the flits that carry n bytes: powers of two up to 256 (R404). -/
def chopSizes (n : Nat) : List Nat :=
  List.replicate (n / 256) 256
    ++ ((List.range 8).reverse.map (fun k => 2 ^ k)).filter (fun k => n % 256 / k % 2 == 1)

/-- Cut an extent (address, offset, length) into flit-sized pieces. -/
def chop (pa off n : Nat) : List (Nat × Nat × Nat) :=
  ((chopSizes n).foldl (fun (acc : Nat × List (Nat × Nat × Nat)) k =>
    (acc.1 + k, acc.2 ++ [(pa + acc.1, off + acc.1, k)])) (0, [])).2

/-- Runs of consecutive remote addresses at one target in one tile: (target, address, cache, what stands there). -/
def remoteRuns {α : Type} (xs : List (Loc × α)) : List (Nat × Nat × Bool × List α) :=
  (xs.foldl (fun (acc : List (Nat × Nat × Bool × List α)) x =>
    match x.1 with
    | .there t pa ca =>
      match acc with
      | (t', pa', ca', ys) :: rest =>
        if t' == t && pa' + ys.length == pa && ca == ca' && pa % 4096 != 0 then (t', pa', ca', ys ++ [x.2]) :: rest
        else (t, pa, ca, [x.2]) :: acc
      | [] => [(t, pa, ca, [x.2])]
    | _ => acc) []).reverse

/-- Runs of consecutive remote addresses whose positions are consecutive too: (target, address, cache, first position, length). -/
def slotRuns (xs : List (Loc × Nat)) : List (Nat × Nat × Bool × Nat × Nat) :=
  (xs.foldl (fun (acc : List (Nat × Nat × Bool × Nat × Nat)) x =>
    match x.1 with
    | .there t pa ca =>
      match acc with
      | (t', pa', ca', o, n) :: rest =>
        if t' == t && pa' + n == pa && ca == ca' && o + n == x.2 then (t', pa', ca', o, n + 1) :: rest
        else (t, pa, ca, x.2, 1) :: acc
      | [] => [(t, pa, ca, x.2, 1)]
    | _ => acc) []).reverse

/-- Hold plain writes of an agent to a page in transfer; the rest of the cells remain (R249). -/
def holdWrites (s : State) (who : RemoteFor) (cells : List (Loc × Byte)) : State × List (Loc × Byte) :=
  if s.transfers.isEmpty then (s, cells)
  else
    cells.foldl (fun (acc : State × List (Loc × Byte)) c =>
      match c.1 with
      | .here pa =>
        (match inTransfer acc.1 pa with
        | some t =>
          ({ acc.1 with transfers := acc.1.transfers.map (fun u =>
              if u.pa == t.pa then { u with heldWrites := u.heldWrites ++ [(heldBy (who.agent.getD 0), pa, [c.2])] } else u) }, acc.2)
        | none => (acc.1, acc.2 ++ [c]))
      | _ => (acc.1, acc.2 ++ [c])) (s, [])

/-- Perform a write of cells, `addrs` being their generic addresses: this module's at once, remote ones as requests of `who`
(R159, R247, R384). -/
def performWrite (s : State) (vd jobid pier : Nat) (addrs : List Nat) (who : RemoteFor) (cells : List (Loc × Byte))
    (hdrs : List Nat) : State :=
  let near := (cells.zip addrs).filter (fun c => !c.1.1.isThere)
  let h := holdWrites (unlockTiles s (near.map (fun c => c.1.1))) who (near.map Prod.fst)
  let lost := discarded h.1 h.2
  let s := writeCells h.1 vd jobid pier ((near.filter (fun c => h.2.contains c.1)).map Prod.snd) h.2
  let s := if lost then s else bumpHeaders s hdrs
  (remoteRuns ((cells.zip addrs).map (fun c => (c.1.1, (c.1.2, c.2))))).foldl (fun s r =>
    let bs := r.2.2.2.map Prod.fst
    let s := updateLine s pier r.1 r.2.1 bs
    (chop r.2.1 0 bs.length).foldl (fun s q =>
      sendRemote s r.1 .write q.1 q.2.2 ((bs.drop q.2.1).take q.2.2) 0 0 who
        ((r.2.2.2.map Prod.snd).getD q.2.1 0) none) s) s

/-- The agent number of a job: contexts are below 2^20. -/
def jobAgent (p id : Nat) : Nat := 2 ^ 20 + p * 65536 + id % 65536

/-- The agent of reads that nobody waits for any more. -/
def nobody : Nat := 2 ^ 50

/-- Forget what arrived, or will arrive, for an agent: its instruction or step is over (R429). -/
def dropArrived (s : State) (agent : Nat) : State :=
  if s.arrived.isEmpty && s.remote.isEmpty then s
  else { s with arrived := s.arrived.filter (fun a => a.agent != agent)
                remote := s.remote.map (fun r => if r.who == .operand agent then { r with who := .operand nobody } else r) }

/-! ### The store buffer (R358 to R360) -/

/-- The job a context works for, for notices. -/
def jobOfCtx (s : State) (c : Nat) : Nat := (s.ctx c).jobid.toNat

/-- Does a conversion cover a handle element's tile (R277)? -/
def convCovers (t : TilePlace) (c : Conv) : Bool :=
  c.vd == t.vd && 3 ≤ c.step && c.step < 7 && c.shadow ≤ t.hdr && t.hdr < c.shadow + 16 * c.tiles

/-- The conversion entry that places a handle element: that of its own record while the record is under conversion, else one
that covers its tile and whose tiles the record has not converted meanwhile (R279, R281). -/
def coverOf (s : State) (t : TilePlace) : Option Conv :=
  match s.convs.find? (fun c => c.vd == t.vd && c.record == t.record) with
  | some c => if convCovers t c then some c else none
  | none => s.convs.find? (fun c => convCovers t c && !c.others.contains t.record)

/-- The place of a handle element at its tile's home: by the conversion entry that covers the tile, else by the Tag the
access read (R279). DESIGN CHOICE (log 92): where two records under conversion share a tile's header, the bit C that counts for
a record is that of its own conversion, kept in `Conv.done`; R281 names only 'that record's own bits'. -/
def tilePlaceAddr (s : State) (t : TilePlace) : Nat :=
  match coverOf s t with
  | some c =>
    if c.done.contains ((t.hdr - c.shadow) / 16) then t.tile + tileOffset t.w c.target t.i t.j
    else t.tile + tileOffset t.w c.tag t.i t.j
  | none => t.tile + tileOffset t.w t.tag t.i t.j

/-- Word 2 of a request for a handle element: bit 63, its size [39:36], the Tag read [33:32], j [31:16] and i [15:0] (R279,
log 92). -/
def elemMark (t : TilePlace) : Word :=
  BitVec.ofNat 64 (2 ^ 63 + t.w % 16 * 2 ^ 36 + t.tag % 4 * 2 ^ 32 + t.j % 65536 * 2 ^ 16 + t.i % 65536)

/-- A store of handle elements of tiles at other modules: one request for each, with i and j (R279). -/
def sendElems (s : State) (ctx pier : Nat) (ps : List (TilePlace × Bytes)) : State :=
  ps.foldl (fun s p => match p.1.far with
    | some t =>
      let o := tileOffset p.1.w p.1.tag p.1.i p.1.j
      sendRemote (updateLine s pier t (p.1.tile + o) p.2) t .write (p.1.tile + o) p.2.length p.2 (elemMark p.1) 0 (.store ctx)
        (p.1.va + o) none
    | none => s) s

/-- The bytes of handle places by the conversion entries, with their virtual addresses (R279). -/
def placeCells (s : State) (ps : List (TilePlace × Bytes)) : List ((Loc × Byte) × Nat) :=
  (ps.map (fun p => (List.range p.2.length).map (fun i =>
    ((Loc.here (tilePlaceAddr s p.1 + i), p.2.getD i 0), p.1.va + (tilePlaceAddr s p.1 - p.1.tile) + i)))).flatten

/-- Perform one entry at its home (R159, R279, R360). -/
def performEntry (s : State) (core : Nat) (e : SbEntry) : State :=
  match e.feset with
  | some (c, g, n, v) => setGranules s v ((List.range n).map (fun i => c * 8192 + g + i))
  | none =>
    let near := e.place.filter (fun p => p.1.far.isNone)
    let s := sendElems (unlockTiles s (near.map (fun p => .here p.1.tile))) e.ctx (pierOfCore core) e.place
    let xs := e.cells.zip e.addrs ++ placeCells s near
    let s := performWrite s (s.ctx e.ctx).vd (jobOfCtx s e.ctx) (pierOfCore core) (xs.map Prod.snd) (.store e.ctx)
      (xs.map Prod.fst) e.hdrs
    if e.fill then setGranules s true (granulesOf (xs.map (fun x => x.1.1))) else s

/-- Two entries of one store that are performed in one operation. -/
def SbEntry.join (a b : SbEntry) : SbEntry :=
  { a with cells := a.cells ++ b.cells, addrs := a.addrs ++ b.addrs, hdrs := a.hdrs ++ b.hdrs, place := a.place ++ b.place
           more := b.more }

/-- The oldest entries that leave together, as one, and the entries behind them. -/
def oldestOf : SbEntry → List SbEntry → SbEntry × List SbEntry
  | e, [] => (e, [])
  | e, f :: es => if e.more then oldestOf (e.join f) es else (e, f :: es)

/-- The oldest entry leaves, and with it those of its store that are performed in the same operation (R165, R277, R358). -/
def drainOne (s : State) (core : Nat) : State :=
  match (s.core core).sb with
  | [] => s
  | e :: es =>
    let k := s.core core
    let o := oldestOf e es
    performEntry (s.setCore core { k with sb := o.2 }) core o.1

/-- Entries leave until the n oldest ones have left; `fuel` bounds how many are left to go. -/
def drainTo (core keep : Nat) : Nat → State → State
  | 0, s => s
  | fuel + 1, s => if (s.core core).sb.length ≤ keep then s else drainTo core keep fuel (drainOne s core)

/-- The n oldest entries leave. -/
def drainN (core n : Nat) (s : State) : State := drainTo core ((s.core core).sb.length - n) n s

/-- How many entries leave when a context's entries, and every entry older than its youngest, leave (R359). -/
def drainCount (sb : List SbEntry) (c : Nat) : Nat :=
  ((List.range sb.length).filter (fun i => match sb[i]? with | some e => e.ctx == c | none => false)).foldl
    (fun m i => max m (i + 1)) 0

/-- A context's entries, and every entry older than its youngest one, leave (R359). -/
def drainCtx (s : State) (c : Nat) : State :=
  let k := coreOfCtx c
  drainN k (drainCount (s.core k).sb c) s

/-- Entries of a core that touch a place. -/
def entryTouches (e : SbEntry) (l : Loc) : Bool :=
  e.cells.any (fun x => x.1 == l)
    || (match l with
        | .here pa => e.place.any (fun p => p.1.far.isNone && p.1.tile ≤ pa && pa < p.1.tile + 4096)
        | .there t pa _ => e.place.any (fun p => p.1.far == some t && p.1.tile ≤ pa && pa < p.1.tile + 4096)
        | .spad c o => (match e.feset with | some (fc, g, n, _) => fc == c && g ≤ o / 16 && o / 16 < g + n | none => false))

/-- The youngest buffered byte of a place (R359). -/
def forwarded (sb : List SbEntry) (l : Loc) : Option Byte :=
  match sb.reverse.findSome? (fun e => (e.cells.reverse.find? (fun x => x.1 == l)).map Prod.snd) with
  | some b => some b
  | none => none

/-- Does a handle entry of the buffer touch the tile of a place? -/
def placeTouches (sb : List SbEntry) (l : Loc) : Bool :=
  match l with
  | .here pa => sb.any (fun e => e.place.any (fun p => p.1.far.isNone && p.1.tile ≤ pa && pa < p.1.tile + 4096))
  | .there t pa _ => sb.any (fun e => e.place.any (fun p => p.1.far == some t && p.1.tile ≤ pa && pa < p.1.tile + 4096))
  | .spad _ _ => false

end Sys2Proof.Machine
end

