-- ==== Sys2Proof/Machine/Ops.lean ====
section
/-!
DEFINITION. Continuation records, counters' values and wakes, frames, unit start and restore, and TAKING AN EXCEPTION: one
shared stop of a context (R43, R44, R378 to R381, R387), with cancellation (R25) and the end of a unit beside it.
-/
namespace Sys2Proof.Machine

/-! ### Records (R19, R20) -/

def stReady : Nat := 1
def stRunning : Nat := 2
def stWaiting : Nat := 3
def stFaulted : Nat := 4
def stParked : Nat := 5
def stDone : Nat := 6

/-- Word n of a record. -/
def recWord (s : State) (vd r n : Nat) : Nat := leNat (sysRead s vd (r + 8 * n) 8)

/-- Write word n of a record. -/
def setRecWord (s : State) (vd r n w : Nat) : State := sysWrite s vd (r + 8 * n) (leBytes 8 w)

def recState (s : State) (vd r : Nat) : Nat := bits (recWord s vd r 0) 55 48
def recCause (s : State) (vd r : Nat) : Nat := bits (recWord s vd r 4) 47 32
def recLaunch (s : State) (vd r : Nat) : Nat := bits (recWord s vd r 2) 31 0

def setRecState (s : State) (vd r st : Nat) : State := setRecWord s vd r 0 (setBits (recWord s vd r 0) 55 48 st)

/-- Write word 4 [63:32]: a cause with [63:48] zero, or a wait object. -/
def setRecCause (s : State) (vd r c : Nat) : State := setRecWord s vd r 4 (setBits (recWord s vd r 4) 63 32 c)

/-- A record that is taken from the record area: the lowest entry of the free list (log 6). -/
def takeRecord (s : State) (vd : Nat) : Option (Nat × State) :=
  match s.vdev? vd with
  | none => none
  | some v =>
    match v.recPool with
    | [] => none
    | r :: rs => some (r, s.setVdev vd { v with recPool := rs })

/-- Give a record, frame or stack area back. -/
def freeRecord (s : State) (vd r : Nat) : State :=
  match s.vdev? vd with
  | none => s
  | some v => s.setVdev vd { v with recPool := v.recPool ++ [r] }

def freeFrame (s : State) (vd f : Nat) : State :=
  match s.vdev? vd with
  | none => s
  | some v => s.setVdev vd { v with framePool := v.framePool ++ [f] }

def freeStack (s : State) (vd a : Nat) : State :=
  match s.vdev? vd with
  | none => s
  | some v => s.setVdev vd { v with stackPool := v.stackPool ++ [a] }

/-- The eight words of a new record (R19, R20). -/
def writeRecord (s : State) (vd r : Nat) (ws : List Nat) : State :=
  (ws.zip (List.range ws.length)).foldl (fun s x => setRecWord s vd r x.2 x.1) s

/-! ### Piers of a virtual device, hints (R28) -/

/-- The first pier of a list that no other is nearer to a point than; piers stand in (y, x) order (R28). -/
def nearest (ps : List Nat) (dest : Nat) : Option Nat :=
  match ps with
  | [] => none
  | p :: rest => some (rest.foldl (fun b q => if hops q dest < hops b dest then q else b) p)

/-- Distance from a pier to coordinates that may lie outside the grid. -/
def hopsXY (p x y : Nat) : Nat :=
  let d (a b : Nat) : Nat := if a ≥ b then a - b else b - a
  d (pierX p) x + d (pierY p) y

/-- R28: the hint, or the nearest pier of the virtual device. -/
def fixHint (s : State) (vd x y : Nat) : Nat × Nat :=
  match s.vdev? vd with
  | none => (x, y)
  | some v =>
    if x < 200 && y < 64 && v.piers.contains (pierAt x y) then (x, y)
    else
      match v.piers with
      | [] => (x, y)
      | p :: rest =>
        let b := rest.foldl (fun b q => if hopsXY q x y < hopsXY b x y then q else b) p
        (pierX b, pierY b)

/-! ### Engine jobs as the unit sees them -/

/-- No further change of status (R172, R206). -/
def JStat.final : JStat → Bool
  | .done => true | .discarded => true | .error => true | .stale => true | _ => false

/-- The job was issued by what context c runs. -/
def jobOf (x : Ctx) (c : Nat) (j : Job) : Bool :=
  if x.record == 0 then j.unit == 0 && j.ctx == c else j.unit == x.record && j.who.vd == x.vd

/-- All jobs of a context's unit, with their piers. -/
def unitJobs (s : State) (c : Nat) : List (Nat × Job) :=
  let x := s.ctx c
  (s.piers.map (fun p => (p.2.jobs.filter (jobOf x c)).map (fun j => (p.1, j)))).flatten

/-- A unit's jobs by record. -/
def recordJobs (s : State) (vd r : Nat) : List (Nat × Job) :=
  (s.piers.map (fun p => (p.2.jobs.filter (fun j => j.unit == r && j.who.vd == vd)).map (fun j => (p.1, j)))).flatten

/-- Change the jobs of every pier. -/
def mapJobs (s : State) (f : Nat → Job → Job) : State :=
  { s with piers := s.piers.map (fun p => (p.1, { p.2 with jobs := p.2.jobs.map (f p.1) })) }

/-- Keep the jobs that satisfy a test. -/
def keepJobs (s : State) (f : Job → Bool) : State :=
  { s with piers := s.piers.map (fun p => (p.1, { p.2 with jobs := p.2.jobs.filter f })) }

def jobOn? (s : State) (p id : Nat) : Option Job := (s.pier p).jobs.find? (fun j => j.id == id)

/-- Did a job get on with its work? -/
def gotOn (j k : Job) : Bool :=
  j.prog != k.prog || j.prog2 != k.prog2 || j.started != k.started || j.status != k.status || j.tmpl.length != k.tmpl.length
    || j.list.length != k.list.length || j.work.length != k.work.length

/-- Put a job back; what arrived for a step that is over goes. -/
def setJobOn (s : State) (p : Nat) (j : Job) : State :=
  let x := s.pier p
  let s := match jobOn? s p j.id with
    | some k => if gotOn j k then dropArrived s (jobAgent p j.id) else s
    | none => s
  s.setPier p { x with jobs := x.jobs.map (fun k => if k.id == j.id then j else k) }

/-! ### Places, waking, the placement network (R29, R42) -/

def placeOf (s : State) (vd r : Nat) : Nat :=
  match s.places.find? (fun x => x.1 == vd && x.2.1 == r) with
  | some x => x.2.2
  | none => 0

def setPlace (s : State) (vd r p : Nat) : State :=
  { s with places := s.places.filter (fun x => !(x.1 == vd && x.2.1 == r)) ++ [(vd, r, p)] }

def dropPlace (s : State) (vd r : Nat) : State :=
  { s with places := s.places.filter (fun x => !(x.1 == vd && x.2.1 == r)) }

/-- A record enters the placement network at a pier (R29). A unit of a co-resident launch does not walk: it returns to
the context that is kept for it (R40). -/
def enterWalk (s : State) (vd r p : Nat) : State :=
  if bit (recWord s vd r 0) 60 then s
  else { s with walkers := s.walkers ++ [⟨r, vd, p, false⟩] }

/-- A WAITING unit whose wait object is satisfied (R42). -/
def wakeUnit (s : State) (vd r p : Nat) : State :=
  if recState s vd r == stWaiting then
    let s := setRecCause s vd r 0
    let s := setRecState s vd r stReady
    enterWalk s vd r p
  else s

/-- The wait object of a job (R114) or a receive (R325). -/
def waitJob (kind p id : Nat) : Nat := kind * 2 ^ 30 + pierX p * 2 ^ 22 + pierY p * 2 ^ 16 + id % 65536

/-- The wait object of a counter (R325). -/
def waitCounter (kind id : Nat) : Nat := kind * 2 ^ 30 + bits id 31 28 * 2 ^ 26 + bits id 25 0

/-- Wake the unit that waits for this job or receive. -/
def wakeOn (s : State) (vd r kind p id : Nat) : State :=
  if r != 0 && recState s vd r == stWaiting && bits (recWord s vd r 4) 63 32 == waitJob kind p id then
    wakeUnit s vd r p
  else s

/-! ### Counters (R340 to R343) -/

def ctrMax : Int := 2 ^ 47 - 1
def ctrMin : Int := -(2 ^ 47)

/-- Does the condition of a waiter hold (R342, R348)? -/
def condHolds (c : Counter) : WaitCond → Bool
  | .zero => c.value == 0
  | .le b => decide (c.value ≤ b)
  | .phaseNot p => c.phase != p || c.cancelled

/-- The deck of the slice that holds a counter (R339). -/
def sliceDeck (id : Nat) : Nat := id / 2 ^ 28

/-- Is an operation of this context on its way to the slice of a counter (R375)? -/
def onWayTo (s : State) (c id : Nat) : Bool := s.ctrReqs.any (fun r => r.ctx == c && sliceDeck r.id == sliceDeck id)

/-- Is an operation of this context on its way to any slice? -/
def onWay (s : State) (c : Nat) : Bool := s.ctrReqs.any (fun r => r.ctx == c)

/-- Wake the waiters of a counter whose condition satisfies a test. -/
def wakeWhere (s : State) (id : Nat) (p : WaitCond → Bool) : State :=
  match kget? s.counters id with
  | none => s
  | some c =>
    let s := { s with counters := kput id { c with waiters := c.waiters.filter (fun w => !p w.cond) } s.counters }
    (c.waiters.filter (fun w => p w.cond)).foldl (fun s w => wakeUnit s w.vd w.record w.pier) s

/-- Wake every waiter whose condition holds (R342). -/
def wakeWaiters (s : State) (id : Nat) : State :=
  match kget? s.counters id with
  | none => s
  | some c => wakeWhere s id (condHolds c)

def setCounter (s : State) (id : Nat) (c : Counter) : State := { s with counters := kput id c s.counters }

/-- Add to a counter's value, saturating at 48 bits, and wake (R341, R347). -/
def addCounter (s : State) (id : Nat) (v : Int) : State :=
  match kget? s.counters id with
  | none => s
  | some c => wakeWaiters (setCounter s id { c with value := max ctrMin (min ctrMax (c.value + v)) }) id

/-- Take n from the value of a phase counter; the phase completes at 0 unless it is cancelled (R343, R350). -/
def phaseTake (k : Counter) (n : Nat) : Counter :=
  let v := max 0 (k.value - n)
  if v == 0 && !k.cancelled then { k with value := k.base, phase := (k.phase + 1) % 65536 } else { k with value := v }

/-- Take a provisional count of n back (R345): the value falls by exactly n, and the phase completes only where that leaves 0. -/
def phaseBack (k : Counter) (n : Nat) : Counter :=
  let v := max ctrMin (k.value - n)
  if v == 0 && !k.cancelled then { k with value := k.base, phase := (k.phase + 1) % 65536 } else { k with value := v }

/-- Remove a record from every waiter list. -/
def dropWaiter (s : State) (vd r : Nat) : State :=
  { s with counters := s.counters.map (fun c =>
      (c.1, { c.2 with waiters := c.2.waiters.filter (fun w => !(w.record == r && w.vd == vd)) })) }

/-! ### Control registers (R96, R99) -/

/-- GETC's value of a control register (R96). -/
def controlReg (s : State) (c n : Nat) : Word :=
  let x := s.ctx c
  let k := coreOfCtx c
  let p := s.pier (pierOfCtx c)
  match n with
  | 0 => BitVec.ofNat 64 (c % 4)
  | 1 => BitVec.ofNat 64 (coreId k)
  | 2 => BitVec.ofNat 64 x.level
  | 3 => x.tenant.setWidth 64
  | 4 => x.jobid.setWidth 64
  | 5 => x.launchid.setWidth 64
  | 6 => x.unitidx.setWidth 64
  | 7 => x.flags.setWidth 64
  | 8 => x.rmode.setWidth 64
  | 9 => x.urgency.setWidth 64
  | 10 => x.budget.setWidth 64
  | 11 => x.stkbase
  | 12 => x.frame
  | 13 => x.cause
  | 14 => x.faddr
  | 15 => x.fpc
  | 16 => BitVec.ofNat 64 (match s.job? x.jobid.toNat with | some j => j.fentry | none => 0)
  | 17 => x.enck.setWidth 64
  | 18 => x.enctau.setWidth 64
  | 19 => x.enceps.setWidth 64
  | 20 => x.encdict.setWidth 64
  | 21 => BitVec.ofNat 64 p.trsplit
  | 22 => (s.core k).mweight.setWidth 64
  | 23 => x.lastjob.setWidth 64
  | 24 => BitVec.ofNat 64 p.stealr
  | 25 => x.handlercap.setWidth 64
  | _ => 0

/-- The fault entry of a job (R96). -/
def fentryOf (s : State) (job : Nat) : Nat :=
  match s.job? job with
  | some j => j.fentry
  | none => 0

/-! ### Frames (R45, R47) -/

def frameSize : Nat := 8192

/-- A pending engine result of R47. -/
def pendingEntry (p : Nat) (j : Job) : Nat :=
  2 ^ 63 + j.id % 65536 * 2 ^ 32 + pierY p * 2 ^ 16 + pierX p * 2 ^ 8 + (match j.dreg with | some r => r.toNat | none => 0)

/-- Segments of the frame at an address: offset and bytes. Bytes not listed are zero (R45). -/
def frameSegs (s : State) (c : Nat) (st : Stop) (keepFault : Bool) (f : Nat) : List (Nat × Bytes) :=
  let x := s.ctx c
  let tag (n : Nat) : Nat := (kget VReg.zero x.v n).tag.toNat
  let pend := (unitJobs s c).filter (fun j => j.2.dreg.isSome && !j.2.status.final && j.2.who.level == x.level)
  let ctl (n : Nat) : Word :=
    if n == 12 then BitVec.ofNat 64 f
    else if keepFault then
      (match n with
      | 13 => BitVec.ofNat 64 (st.code * 65536 + st.cause.code) | 14 => st.faddr | 15 => st.fpc
      | _ => controlReg s c n)
    else controlReg s c n
  x.s.map (fun r => (8 * r.1, leBytes 8 r.2.toNat))
    ++ x.v.map (fun r => (0x200 + 128 * r.1, leBytes 128 r.2.bits.toNat))
    ++ x.v.map (fun r => (0x1200 + 8 * r.1, leBytes 8 r.2.side.toNat))
    ++ [(0x1300, (List.range 16).map (fun n => BitVec.ofNat 8 (tag (2 * n) + 16 * tag (2 * n + 1))))]
    ++ [(0x1310, leBytes 8 (2 ^ 64 - 1))]
    ++ x.k.map (fun r => (0x1310 + 8 * r.1, leBytes 8 r.2.toNat))
    ++ [(0x1350, leBytes 8 (~~~x.sEmpty).toNat), (0x1358, leBytes 4 (~~~x.vEmpty).toNat)
       , (0x135C, leBytes 1 (~~~x.kEmpty).toNat)]
    ++ x.h.map (fun h => (0x1360 + 8 * h.1, leBytes 8 (h.2.addr + (if h.2.ro then 1 else 0))))
    ++ (List.range 26).map (fun n => (0x1400 + 8 * n, leBytes 8 (ctl n).toNat))
    ++ [(0x1600, leBytes 1 st.pfx.length)]
    ++ (st.pfx.zip (List.range 4)).map (fun p => (0x1604 + 4 * p.2, leBytes 4 p.1.toNat))
    ++ (pend.zip (List.range 8)).map (fun p => (0x1620 + 8 * p.2, leBytes 8 (pendingEntry p.1.1 p.1.2)))
    ++ (match x.unknown with
        | some a => [(0x1660, leBytes 1 1), (0x1668, leBytes 8 a.toNat)]
        | none => [])

/-- Write a frame whole. -/
def writeFrame (s : State) (vd f : Nat) (segs : List (Nat × Bytes)) : State :=
  match sysPa s vd f with
  | none => { s with broken := some .systemPageUnmapped }
  | some pa =>
    { s with mem := segs.foldl (fun m g => memWrite m (pa + g.1) g.2) (memClear s.mem pa (pa + frameSize)) }

/-- The bytes of a frame, with addresses from 0. -/
def readFrame (s : State) (vd f : Nat) : Mem :=
  match sysPa s vd f with
  | none => []
  | some pa => (s.mem.filter (fun c => pa ≤ c.1 && c.1 < pa + frameSize)).map (fun c => (c.1 - pa, c.2))

def frameNat (m : Mem) (off n : Nat) : Nat := leNat (memRead m off n)

/-! ### Unit start and restore (R23, R48, R98) -/

/-- The registers of R23 on a context, apart from what the record gives. -/
def freshRegs (x : Ctx) : Ctx :=
  { x with s := [], sEmpty := 0, v := [], vEmpty := 0, k := [], kEmpty := 0, h := [], pfx := [], flags := 0, rmode := 0
           cause := 0, faddr := 0, fpc := 0, enck := 8, enctau := 0x3C23D70A, enceps := 0x3D4CCCCD, encdict := 0
           lastjob := 0, handlercap := 256, loads := [], stop := none, preemptReq := false, cancelReq := false
           memerr := none, unknown := none, fencing := false, fenceLines := false, sbWait := false, fifoWait := none, ending := false, reply := none, asked := false
           pageWait := false, freed := false, stealing := false, probe := false }

/-- The same, apart from what neither a fault-entry start nor the freeing of a context changes (R100). -/
def clearRegs (x : Ctx) : Ctx :=
  { freshRegs x with enck := x.enck, enctau := x.enctau, enceps := x.enceps, encdict := x.encdict, lastjob := x.lastjob }

/-- The job of a launch, and its tenant. -/
def launchJob (s : State) (l : Nat) : Nat := match s.launch? l with | some x => x.jobid | none => 0
def jobTenant (s : State) (j : Nat) : Nat := match s.job? j with | some x => x.tenant | none => 0

/-- What the record of a unit puts into the registers of unit scope (R96, R98). -/
def fromRecord (s : State) (x : Ctx) (vd r : Nat) : Ctx :=
  let w0 := recWord s vd r 0
  let l := recLaunch s vd r
  let j := launchJob s l
  { x with vd := vd, record := r, launchid := BitVec.ofNat 32 l, unitidx := BitVec.ofNat 32 (bits (recWord s vd r 2) 63 32)
           urgency := BitVec.ofNat 32 (bits (recWord s vd r 3) 63 32), budget := BitVec.ofNat 32 (bits (recWord s vd r 4) 31 0)
           frame := BitVec.ofNat 64 (recWord s vd r 1), jobid := BitVec.ofNat 32 j, tenant := BitVec.ofNat 16 (jobTenant s j)
           coresUnit := bit w0 60, strict := bit w0 58, pure := bit w0 57, pc := bits w0 47 0 / 4 * 4 }

/-- Put a word in a scalar register of a context being set up. -/
def putS (x : Ctx) (n : Nat) (w : Word) : Ctx := x.setS (BitVec.ofNat 6 n) w

/-- Start a unit whose FRAME flag is clear (R23). -/
def startUnit (s : State) (c vd r : Nat) : State :=
  let s := setRecState s vd r stRunning
  let x := fromRecord s (freshRegs (s.ctx c)) vd r
  let w (n : Nat) : Word := BitVec.ofNat 64 (recWord s vd r n)
  let x := putS (putS (putS (putS x 1 (w 5)) 2 (w 6)) 3 (w 7)) 61 0x1010000
  s.setCtx c { x with role := .unit }

/-- Read the registers of a frame into a context (R48, R98); reserved bits of control registers read zero (R96, R99). -/
def frameToCtx (m : Mem) (x : Ctx) : Ctx :=
  let word (off : Nat) : Word := BitVec.ofNat 64 (frameNat m off 8)
  let ctl (n : Nat) : Word := word (0x1400 + 8 * n)
  let tagAt (n : Nat) : BitVec 4 := BitVec.ofNat 4 ((memGet m (0x1300 + n / 2)).toNat / (if n % 2 == 0 then 1 else 16) % 16)
  let handle (n : Nat) : Option (Nat × Handle) :=
    let w := frameNat m (0x1360 + 8 * n) 8
    if bits w 47 6 == 0 then none else some (n, ⟨bits w 47 6 * 64, bit w 0, []⟩)
  { x with
      s := (List.range 64).filterMap (fun n => if n == 0 then none else some (n, word (8 * n)))
      sEmpty := ~~~(word 0x1350) &&& ~~~1#64
      v := (List.range 32).map (fun n =>
        (n, ⟨BitVec.ofNat 1024 (frameNat m (0x200 + 128 * n) 128), tagAt n, word (0x1200 + 8 * n)⟩))
      vEmpty := ~~~(BitVec.ofNat 32 (frameNat m 0x1358 4))
      k := (List.range 8).filterMap (fun n => if n == 0 then none else some (n, word (0x1310 + 8 * n)))
      kEmpty := ~~~(BitVec.ofNat 8 (frameNat m 0x135C 1)) &&& ~~~1#8
      h := (List.range 16).filterMap handle
      flags := (ctl 7).setWidth 5, rmode := (ctl 8).setWidth 2, stkbase := ctl 11 &&& 0xFFFFFFFF0000
      cause := ctl 13 &&& 0x7FFFFFF, faddr := ctl 14, fpc := ctl 15 &&& 0xFFFFFFFFFFFF, enck := (ctl 17).setWidth 4, enctau := (ctl 18).setWidth 32, enceps := (ctl 19).setWidth 32
      encdict := (ctl 20).setWidth 2, lastjob := (ctl 23).setWidth 16
      unknown := if bit (frameNat m 0x1660 1) 0 then some (word 0x1668) else none }

/-- The 64 bytes of the record that a context's handle names, where they are at hand: none where its page is not resident or is
at another module. -/
def recordNow (s : State) (core : Nat) (x : Ctx) (a : Nat) : Bytes :=
  let at_ (l : Nat → Loc) : Bytes := (List.range 64).map (fun i => readHere s (l i))
  let page (va : Nat) : Bytes := match sysPa s x.vd va with | some pa => at_ (fun i => .here (pa + i)) | none => []
  match window core x.stkbase.toNat a with
  | some (_, .spad k o) => at_ (fun i => .spad k (o + i))
  | some (_, .stack va) => page va
  | some (_, .glob va) => page va
  | none => List.replicate 64 0

/-- The copy of a bound layout record, read again at restore; a record that is not well formed leaves its handle unbound
(R274). A copy that is not at hand is empty until bindHandles has read it as HSET does. -/
def rebind (s : State) (core : Nat) (x : Ctx) : Ctx :=
  let hs := x.h.map (fun h => (h.1, { h.2 with copy := recordNow s core x h.2.addr }))
  { x with h := hs.filter (fun h => h.2.copy.isEmpty || recordOk h.2.copy) }

/-- Restore a unit from its frame onto a context; the frame and the context's own stack area return (R44, R48). -/
def restoreUnit (s : State) (c vd r : Nat) : State :=
  let f := recWord s vd r 1
  let m := readFrame s vd f
  let own := (s.ctx c).stkbase.toNat
  let s := setRecState s vd r stRunning
  let s := setRecWord s vd r 0 (setBits (recWord s vd r 0) 59 59 0)
  let s := setRecWord s vd r 1 0
  let x := fromRecord s (freshRegs (s.ctx c)) vd r
  let x := rebind s (coreOfCtx c) (frameToCtx m x)
  let s := freeStack (freeFrame s vd f) vd own
  (dropPlace s vd r).setCtx c { x with role := .unit }

/-! ### The fault entry (R378, R379, R381) -/

/-- Start the fault entry on a context for a record: CAUSE, FADDR, FPC hold the fault. The entry is not the unit: the lease
and purity checks are not made for it (log 26). -/
def startEntry (s : State) (c vd r : Nat) (k : EntryKind) (job : Nat) (cause faddr fpc : Word) : State :=
  let x := s.ctx c
  let w (n : Nat) : Word := BitVec.ofNat 64 (recWord s vd r n)
  let x := fromRecord s (clearRegs x) vd r
  let x := { x with jobid := BitVec.ofNat 32 job, tenant := BitVec.ofNat 16 (jobTenant s job), role := .entry k
                    cause := cause, faddr := faddr, fpc := fpc, pc := fentryOf s job, strict := false, pure := false }
  let x := putS (putS (putS (putS (putS x 1 (match k with | .notice => 0 | _ => w 1)) 2 (w 0)) 3 (w 2)) 4 (w 4)) 5
    (BitVec.ofNat 64 r)
  s.setCtx c x

/-! ### Freeing a context (R32, R39, R40, R41) -/

/-- Is a slice fault one of what context c runs? -/
def sliceOf (x : Ctx) (c : Nat) (f : SliceFault) : Bool :=
  f.vd == x.vd && f.record == x.record && f.level == x.level && (f.level == 0 || f.ctx == c)

/-- Context c needs no longer be waited for by a pre-emption (R49). -/
def preSettled (s : State) (c : Nat) : State :=
  let qs := s.preempts.map (fun q => { q with waiting := q.waiting.filter (fun k => k != c) })
  { s with preempts := qs.filter (fun q => q.ctx.isSome || !q.todo.isEmpty || !q.waiting.isEmpty) }

/-- The unit on context c is PARKED: it counts for the first request that waits for the context (R391). -/
def preParked (s : State) (c vd r : Nat) : State :=
  let rec go : List PreReq → List PreReq
    | [] => []
    | q :: qs => if q.waiting.contains c then { q with parked := q.parked ++ [(c, vd, r)] } :: qs else q :: go qs
  preSettled { s with preempts := go s.preempts } c

/-- The context frees: it holds no unit. `keepFor` names the co-resident unit it stays reserved for (R40). A handler's or
an entry's slice faults end with it. -/
def freeCtx (s : State) (c : Nat) (keepFor : Option Nat) : State :=
  let s := preSettled (dropArrived s c) c
  let x := s.ctx c
  let s := { s with sliceFaults := s.sliceFaults.filter (fun f => !(x.level != 0 && sliceOf x c f)) }
  s.setCtx c { clearRegs x with role := .idle, record := 0, launchid := 0, unitidx := 0, coresUnit := false, strict := false
                                pure := false, freed := keepFor.isNone, heldUnit := keepFor
                                reserved := if keepFor.isNone then none else x.reserved }

/-- Write zero, or a value, to the register of an engine job: on the context that holds the unit, or in its frame
(R47, R84). -/
def deliverReg (s : State) (p : Nat) (j : Job) (w : Word) : State :=
  match j.dreg with
  | none => s
  | some d =>
    let holds (x : Ctx) : Bool := x.busy && x.record == j.unit && x.vd == j.who.vd && x.level == j.who.level
    match s.ctxs.find? (fun x => holds x.2 && (j.unit != 0 || x.1 == j.ctx)) with
    | some (c, x) => s.setCtx c (x.setS d w)
    | none =>
      let vd := j.who.vd
      let f := if j.unit == 0 then 0 else recWord s vd j.unit 1
      if f == 0 then s
      else
        let want := pendingEntry p j
        let m := readFrame s vd f
        match (List.range 8).find? (fun i => frameNat m (0x1620 + 8 * i) 8 == want) with
        | none => s
        | some i =>
          let s := sysWrite s vd (f + 8 * d.toNat) (leBytes 8 w.toNat)
          let full := frameNat m 0x1350 8
          let s := sysWrite s vd (f + 0x1350) (leBytes 8 (if full.testBit d.toNat then full else full + 2 ^ d.toNat))
          sysWrite s vd (f + 0x1620 + 8 * i) (leBytes 8 (want - 2 ^ 63))

/-- The context number of a job that no context issued, or whose handler has trapped. -/
def noCtx : Nat := 409600

/-- A job ends with a final status: its register, if the command will not complete, takes zero (R84), and the unit that
waits for the job wakes (R114). -/
def endJobNow (s : State) (p : Nat) (j : Job) (st : JStat) : State :=
  let s := if (st == .discarded || st == .error) then deliverReg s p j 0 else s
  let s := dropArrived s (jobAgent p j.id)
  if j.unit == 0 && j.ctx == noCtx then
    let x := s.pier p
    s.setPier p { x with jobs := x.jobs.filter (fun k => k.id != j.id) }
  else
    let s := setJobOn s p { j with status := st, inq := false, dreg := none, sent := false }
    wakeOn s j.who.vd j.unit 0 p j.id

/-- Has a write of an engine agent at another module no outcome yet? -/
def writesOut (s : State) (agent : Nat) : Bool := s.remote.any (fun r => r.who == .engine agent)

/-- A job ends. One that ends with ERROR does so once its writes at other modules have their outcomes (R372, R374). -/
def endJob (s : State) (p : Nat) (j : Job) (st : JStat) : State :=
  if st == .error && writesOut s (jobAgent p j.id) then
    (dropArrived s (jobAgent p j.id)).setPier p { s.pier p with
      jobs := (s.pier p).jobs.map (fun k => if k.id == j.id then { j with status := .failing, inq := false } else k) }
  else endJobNow s p j st

/-- A write of an agent has its outcome: a job that waited for the last one ends with ERROR. -/
def writeAnswered (s : State) (agent : Nat) : State :=
  if writesOut s agent then s
  else
    match s.piers.findSome? (fun p => (p.2.jobs.find? (fun j => jobAgent p.1 j.id == agent && j.status == .failing)).map
      (fun j => (p.1, j))) with
    | some (p, j) => endJobNow s p j .error
    | none => s

/-- Has a job not started, or is it an ACCI that is stalled or parked (R206)? A stalled one holds the number of its term in
`ring`. -/
def notRunning (j : Job) : Bool := !j.started || (j.cmd == .acci && j.ring.isSome)

/-- Discard the jobs of a unit that satisfy a test and have not started, or stall or park (R25, R74, R206). -/
def discardJobs (s : State) (js : List (Nat × Job)) (f : Job → Bool) : State :=
  (js.filter (fun j => notRunning j.2 && !j.2.status.final && f j.2)).foldl (fun s j => endJob s j.1 j.2 .discarded) s

/-- Is this guard register of the context empty? -/
def guardEmpty (x : Ctx) (g : Guard) : Bool := !x.fullK g.slot

/-- The unit leaves its context: commands held on an empty guard are discarded (R74); a guard that is full by now lets its
command go or discards it. -/
def leaveGuards (s : State) (c : Nat) : State :=
  let x := s.ctx c
  let lets (g : Guard) : Bool := !guardEmpty x g && ((if g.inv then ~~~(x.getK g.slot) else x.getK g.slot).getLsbD 0)
  let s := discardJobs s (unitJobs s c) (fun j => match j.held with | some g => !lets g | none => false)
  mapJobs s (fun _ j => if jobOf x c j && j.held.isSome then { j with held := none } else j)

/-! ### Retirement and cancellation (R25, R26, R116) -/

/-- Forget the states of receives that nobody can name any more and that no message can reach. -/
def tidyRecvs (x : Pier) : Pier :=
  { x with recvStates := x.recvStates.filter (fun r => r.unit != 0 || r.ctx != noCtx
      || x.recvs.any (fun y => y.2.job == r.job) || x.deliveries.any (fun y => y.2.recv.job == r.job)) }

/-- Who posted these receives is gone (R328). -/
def orphanRecvs (s : State) (f : RecvState → Bool) : State :=
  { s with piers := s.piers.map (fun p => (p.1, tidyRecvs { p.2 with
      recvStates := p.2.recvStates.map (fun r => if f r then { r with unit := 0, ctx := noCtx } else r) })) }

/-- The unit leaves its launch: its counter is decremented once and its record is freed (R20, R116). -/
def retireUnit (s : State) (vd l r : Nat) : State :=
  let s := orphanRecvs (keepJobs s (fun j => !(j.unit == r && j.who.vd == vd))) (fun x => x.unit == r && x.vd == vd)
  let s := { s with taints := s.taints.filter (fun t => t != (vd, r))
                    sliceFaults := s.sliceFaults.filter (fun f => !(f.vd == vd && f.record == r)) }
  let s := match s.launch? l with
    | some x => s.setLaunch l { x with live := x.live.filter (fun y => y != r) }
    | none => s
  addCounter (freeRecord s vd r) l (-1)

/-- Retire every DONE unit whose started jobs have finished (R25). -/
def settleDying (s : State) : State :=
  s.dying.foldl (fun s d =>
    if (recordJobs s d.vd d.record).any (fun j => j.2.started && !j.2.status.final) then s
    else retireUnit { s with dying := s.dying.filter (fun e => e != d) } d.vd d.launch d.record) s

/-- The stack area and the frame that a stopped unit holds return to their pools. -/
def freeSaved (s : State) (vd r : Nat) : State :=
  let f := recWord s vd r 1
  if f == 0 then s
  else
    let stk := frameNat (readFrame s vd f) (0x1400 + 8 * 11) 8 % 2 ^ 48 / 65536 * 65536
    let s := freeStack (freeFrame s vd f) vd stk
    setRecWord (setRecWord s vd r 1 0) vd r 0 (setBits (recWord s vd r 0) 59 59 0)

/-- A unit that is on no context becomes DONE with a cause and is retired once its started jobs have finished. -/
def finishRecord (s : State) (vd r cause : Nat) : State :=
  let l := recLaunch s vd r
  let s := discardJobs s (recordJobs s vd r) (fun _ => true)
  let s := freeSaved s vd r
  let s := setRecCause s vd r cause
  let s := setRecState s vd r stDone
  let s := dropPlace (dropWaiter s vd r) vd r
  let s := { s with walkers := s.walkers.filter (fun w => !(w.record == r && w.vd == vd))
                    stolen := s.stolen.filter (fun w => !(w.2.1 == r && w.2.2 == vd))
                    piers := s.piers.map (fun p => (p.1, { p.2 with
                      deque := p.2.deque.filter (fun e => !(e.record == r && e.vd == vd))
                      dqWait := p.2.dqWait.filter (fun e => !(e.record == r && e.vd == vd)) }))
                    ctxs := s.ctxs.map (fun x => (x.1, if x.2.heldUnit == some r && x.2.vd == vd then
                      { x.2 with heldUnit := none, reserved := none, freed := true } else x.2))
                    dying := s.dying ++ [⟨vd, l, r⟩] }
  settleDying s

/-- The record of a notice, or of a handler that trapped, is freed (R379, R383): what was issued under it goes on alone. -/
def dropRecord (s : State) (vd r : Nat) : State :=
  let s := keepJobs s (fun j => !(j.unit == r && j.who.vd == vd && j.status.final))
  let s := mapJobs s (fun _ j => if j.unit == r && j.who.vd == vd then { j with unit := 0, ctx := noCtx } else j)
  let s := orphanRecvs s (fun x => x.unit == r && x.vd == vd)
  let s := { s with notices := s.notices.filter (fun n => !(n.record == r && n.vd == vd)) }
  freeRecord (dropPlace (freeSaved s vd r) vd r) vd r

/-- The job of a launch, by a context: what a context works for. -/
def ctxJob (x : Ctx) : Nat := x.jobid.toNat

/-- A notice of a cause (R379). -/
def raiseNotice (s : State) (vd job pier : Nat) (cause : Cause) (faddr : Word) (word2 : Nat) : State :=
  { s with notices := s.notices ++ [⟨vd, job, cause, faddr, 0, BitVec.ofNat 64 word2, pier, 0⟩] }

/-- A unit that a fault was delivered for, or that has an unknown outcome, inserts no reuse entry (R287, R386). -/
def taint (s : State) (vd r : Nat) : State :=
  if s.taints.contains (vd, r) then s else { s with taints := s.taints ++ [(vd, r)] }

/-- An outcome of context c that is unknown (R386, R387): the first one is kept until it is reported. -/
def noteUnknown (s : State) (c : Nat) (a : Word) : State :=
  let x := s.ctx c
  taint (s.setCtx c { x with unknown := match x.unknown with | some b => some b | none => some a }) x.vd x.record

/-- Forget what arrived for a group that context c gives up (R429). An unknown outcome among it is still to be reported (R386,
R387), but not that of a fetch, which the group would have raised itself (R385). -/
def settleArrived (s : State) (c : Nat) : State :=
  if s.arrived.isEmpty then s
  else
    let pc := (s.ctx c).pc
    let s := match s.arrived.find? (fun a => a.agent == c && a.fault == some .fabricUnknown && !(pc ≤ a.va && a.va < pc + 20)) with
      | some a => noteUnknown s c (BitVec.ofNat 64 a.va)
      | none => s
    { s with arrived := s.arrived.filter (fun a => a.agent != c) }

/-- Withdraw the provisional effect of a group that a stop reaches before it issues (R345): a request not yet performed is
dropped; a counter or a count is taken back; an enlisted waiter leaves. -/
def withdraw (s : State) (c : Nat) : State :=
  let x := s.ctx c
  let s := { s with ctrReqs := s.ctrReqs.filter (fun r => !(r.ctx == c && (match r.op with
      | .cnew _ _ _ => true | .cfree => true | .expect _ _ => true | .cwait _ => true | _ => false))) }
  let s := match x.reply with
    | some [1, id] => { s with counters := if id == 0 then s.counters else kdel id.toNat s.counters }
    | some [2, ok, p, id, n] =>
      if ok == 1 then
        match kget? s.counters id.toNat with
        | none => s
        | some k =>
          if k.phase == p.toNat then wakeWaiters (setCounter s id.toNat (phaseBack k n.toNat)) id.toNat else s
      else s
    | some (3 :: _) => dropWaiter s x.vd x.record
    | _ => s
  let s := { s with accnts := s.accnts.filter (fun a => a.ctx != c)
                    shoots := s.shoots.map (fun (h : Shoot) => if h.ctx == some c then { h with ctx := none } else h) }
  let x := s.ctx c
  s.setCtx c { x with reply := none, asked := false }

/-! ### A stop and what follows it (R43, R44, R387) -/

/-- Can the pools of R44 supply this context: a frame, and a stack area for the context to go on with? -/
def poolsSupply (s : State) (x : Ctx) : Bool :=
  match s.vdev? x.vd with
  | none => false
  | some v => (x.frame != 0 || !v.framePool.isEmpty) && !v.stackPool.isEmpty

/-- Steps 4 and 5 of R43 with R44: the frame is written, the record points to it, the context takes a fresh stack area. -/
def saveFrame (s : State) (c : Nat) (st : Stop) (vd r : Nat) : State :=
  match s.vdev? vd with
  | none => s
  | some v =>
    let x := s.ctx c
    let f := if x.frame != 0 then x.frame.toNat else v.framePool.headD 0
    let v := { v with framePool := if x.frame != 0 then v.framePool else v.framePool.drop 1
                      stackPool := v.stackPool.drop 1 }
    let stk := (match s.vdev? vd with | some v => v.stackPool.headD 0 | none => 0)
    let s := s.setVdev vd v
    let s := writeFrame s vd f (frameSegs s c st (st.kind != .park) f)
    let s := setRecWord s vd r 1 f
    let s := setRecWord s vd r 0 (setBits (recWord s vd r 0) 59 59 1)
    s.setCtx c { s.ctx c with stkbase := BitVec.ofNat 64 stk, frame := BitVec.ofNat 64 f }

/-- The values of s1, s2 and s3 in words 5 to 7 of a record (R19). -/
def recordArgs (s : State) (vd r : Nat) (x : Ctx) : State :=
  setRecWord (setRecWord (setRecWord s vd r 5 (x.getS 1).toNat) vd r 6 (x.getS 2).toNat) vd r 7 (x.getS 3).toNat

/-- State and cause of a stop in the record, with PC, urgency, budget and s1 to s3 (R19, R43, R44). -/
def markRecord (s : State) (c : Nat) (st : Stop) (vd r : Nat) : State :=
  let x := s.ctx c
  let state := if st.kind == .park || st.kind == .abandon then stParked else stFaulted
  let s := setRecWord s vd r 3 (setBits (recWord s vd r 3) 63 32 x.urgency.toNat)
  let s := setRecWord s vd r 4 (setBits (setBits (recWord s vd r 4) 31 0 x.budget.toNat) 63 32 st.cause.code)
  let w := setBits (setBits (recWord s vd r 0) 47 0 st.resume) 55 48 state
  recordArgs (setRecWord s vd r 0 w) vd r x

/-- The cause word of a stop for CAUSE (R99). -/
def causeWord (st : Stop) : Word := BitVec.ofNat 64 (st.code * 65536 + st.cause.code)

/-- A HANDLER record for a handler that traps (R22, R381): budget 0, level-free fields zero. Its engine jobs go on under that
record, so that their results reach its frame (R47). -/
def handlerRecord (s : State) (c : Nat) (st : Stop) : Option (Nat × State) :=
  let x := s.ctx c
  if x.record != 0 then some (x.record, s)
  else
    match takeRecord s x.vd with
    | none => none
    | some (r, s) =>
      let s := writeRecord s x.vd r
        [2 ^ 56 + stFaulted * 2 ^ 48 + st.resume, 0, 0, x.urgency.toNat * 2 ^ 32, st.cause.code * 2 ^ 32,
         (x.getS 1).toNat, (x.getS 2).toNat, (x.getS 3).toNat]
      let s := keepJobs s (fun j => !(jobOf x c j && j.status.final))
      let s := mapJobs s (fun _ j => if jobOf x c j then { j with unit := r, ctx := noCtx } else j)
      let s := orphanRecvs s (fun q => q.unit == 0 && q.ctx == c)
      some (r, s.setCtx c { x with record := r, budget := 0 })

/-- The stop of a context goes as far as it can: loads complete, the store buffer drains, remote accesses and counter
operations that were posted resolve (R345, R374), the frame is saved when the pools supply, and then what the stop is for follows. One operation for faults, budget, pre-emption,
cancellation and handler traps. -/
def advanceStop (s : State) (c : Nat) : State :=
  match (s.ctx c).stop with
  | none => s
  | some st =>
    if (s.ctx c).pageWait then s
    else if !(s.ctx c).loads.isEmpty && st.kind != .finish then s
    else
      let s := settleArrived (drainCtx s c) c
      if remoteOf s c || onWay s c then s
      else
        let s := if (s.ctx c).fenceLines then dropLines s (deckOfPier (pierOfCtx c)) (fun l => l.pier == pierOfCtx c) else s
        let x := s.ctx c
        let p := pierOfCtx c
        match st.kind with
        | .finish =>
          let r := x.record
          let vd := x.vd
          let w2 := recWord s vd r 2
          let notice := st.cause == .leaseViolation || st.cause == .purity
          let noUnit := x.role == .entry .notice || x.role == .entry .handlerRecord
          let s := freeCtx s c none
          let s := if noUnit then dropRecord s vd r else finishRecord s vd r st.cause.code
          if notice then raiseNotice s vd (ctxJob x) p st.cause st.faddr w2 else s
        | .abandon =>
          let s := setRecState s x.vd x.record stParked
          let s := setPlace s x.vd x.record p
          freeCtx (preParked s c x.vd x.record) c (if x.coresUnit then some x.record else none)
        | .deliver =>
          if x.role == .handler then
            match handlerRecord s c st with
            | none => s
            | some (r, s) =>
              if poolsSupply s (s.ctx c) then
                let s := saveFrame s c st x.vd r
                startEntry (preSettled s c) c x.vd r .handlerRecord (ctxJob x) (causeWord st) st.faddr st.fpc
              else s
          else
            let s := markRecord s c st x.vd x.record
            if poolsSupply s x then
              let s := saveFrame s c st x.vd x.record
              let s := setPlace s x.vd x.record p
              startEntry (preSettled s c) c x.vd x.record .unit (ctxJob x) (causeWord st) st.faddr st.fpc
            else preSettled (s.setCtx c { s.ctx c with stop := some { st with held := true } }) c
        | _ =>
          let s := markRecord s c st x.vd x.record
          let s := if st.kind == .park then preParked s c x.vd x.record else preSettled s c
          if poolsSupply s x then
            let s := saveFrame s c st x.vd x.record
            let s := setPlace s x.vd x.record p
            freeCtx s c (if x.coresUnit then some x.record else none)
          else s.setCtx c { s.ctx c with stop := some { st with held := true } }

/-- A context stops at a boundary (R43 step 1): held commands are discarded (R74), provisional requests withdrawn. -/
def stopCtx (s : State) (c : Nat) (st : Stop) : State :=
  let s := settleArrived (withdraw (leaveGuards s c) c) c
  let x := s.ctx c
  let s := if st.kind == .deliver then taint s x.vd x.record else s
  advanceStop (s.setCtx c { x with stop := some st, pfx := [], preemptReq := false, ending := false, sbWait := false, fifoWait := none, pageWait := false }) c

/-- The context's RELAYOUT has sent its CAS to another module: the group performs it, and no stop comes before the answer
(R294, log 94). -/
def committed (x : Ctx) : Bool := match x.reply with | some [9, _] => true | _ => false

/-- Is the context at an instruction boundary (R46)? -/
def atBoundary (x : Ctx) : Bool := x.pfx.isEmpty && !committed x

/-- R25 for a unit: on a context it stops at its boundary, elsewhere it is DONE at once. -/
def cancelUnit (s : State) (vd r : Nat) (cause : Cause) : State :=
  match s.ctxs.find? (fun x => x.2.record == r && x.2.vd == vd && x.2.busy && r != 0) with
  | none => if recState s vd r == stDone then s else finishRecord s vd r cause.code
  | some (c, x) =>
    let s := discardJobs s (unitJobs s c) (fun _ => true)
    if atBoundary x || x.stop.isSome then
      stopCtx s c ⟨.finish, cause, 0, 0, BitVec.ofNat 64 x.pc, x.pc, [], false⟩
    else s.setCtx c { s.ctx c with cancelReq := true }

/-- Cancel an admitted launch (R25): units not yet generated never are, and count as ended. The cause is that of the
completion record (R307, R380); its units become DONE with CANCELLED. -/
def cancelLaunch (s : State) (l : Nat) (cause : Cause) : State :=
  match s.launch? l with
  | none => s
  | some x =>
    if x.phase == .ended || x.phase == .recording || x.phase == .ending || x.status == 2 then s
    else
      let rest := x.units - x.next - (x.skip.filter (fun i => x.next ≤ i)).length
      let s := s.setLaunch l { x with phase := .running, next := x.units, skip := [], status := 2, cause := cause, unplaced := []
                                      reuseCopy := none }
      let s := match s.vdev? x.vd with
        | some v => if v.reserving == some l then
            { s.setVdev x.vd { v with reserving := v.coresQ.head?, coresQ := v.coresQ.drop 1 } with
                ctxs := s.ctxs.map (fun y => (y.1, if y.2.reserved == some l then { y.2 with reserved := none } else y.2)) }
          else s.setVdev x.vd { v with coresQ := v.coresQ.filter (fun y => y != l) }
        | none => s
      let s := x.live.foldl (fun s r => cancelUnit s x.vd r .cancelled) s
      if rest == 0 then s else addCounter s l (-(rest : Int))

/-- Cancel a job (R25, R206, R320, R351): every launch, the messages of the job in overflow queues, its receives and its
ACCI jobs that have not started, stall or park. Packets not yet admitted are dropped where they wait (R308). -/
def cancelJob (s : State) (job : Nat) (cause : Cause) : State :=
  match s.job? job with
  | none => s
  | some j =>
    if j.cancelled then s
    else
      let s := s.setJob job { j with cancelled := true, cause := cause }
      let s : State := (s.launches.filter (fun l => l.2.jobid == job)).foldl (fun s l => cancelLaunch s l.1 cause) s
      let s : State := { s with piers := s.piers.map (fun p => (p.1, tidyRecvs { p.2 with
          overflow := p.2.overflow.filter (fun m => m.2.msg.jobid != job)
          recvs := p.2.recvs.filter (fun r => r.2.jobid != job) })) }
      let parked := (s.piers.map (fun p => (p.2.jobs.filter (fun k =>
        k.jobid == job && k.cmd == .acci && notRunning k && !k.status.final)).map
        (fun k => (p.1, k)))).flatten
      settleDying (parked.foldl (fun s k => endJob s k.1 k.2 .discarded) s)

/-! ### Taking an exception -/

/-- takeFault without a MEMERR that waits: cause, trap code, FADDR, address of the group's first word, resume address,
prefixes of the group, and whether the pager has it first. Units stop by R43 and deliver (R378), wait for the pager or, for
LEASE_VIOLATION and PURITY, end (R262); handlers trap (R22, R381); an entry waits for the pager or cancels its job (R380);
firmware waits for the pager, and any other cause is Fault.firmwareFault (log 8). -/
def faultNow (s : State) (c : Nat) (cause : Cause) (code : Nat) (faddr : Word) (fpc resume : Nat) (pfx : List IWord)
    (pager : Bool) : State :=
  let x := s.ctx c
  let s := if cause == .page && pager then askReclaim s x.vd faddr.toNat else s
  let st : Stop := ⟨.deliver, cause, code, faddr, BitVec.ofNat 64 fpc, resume, pfx, false⟩
  let wait : State :=
    let s := settleArrived s c
    s.setCtx c { s.ctx c with pageWait := true, stop := some { st with kind := .pager }, pfx := [] }
  match x.role with
  | .idle => s
  | .firmware => if pager then wait else { s with broken := some .firmwareFault }
  | .entry _ =>
    if cause == .page then wait
    else
      let s := cancelJob s (ctxJob x) cause
      if (s.ctx c).busy && (s.ctx c).record == x.record && (s.ctx c).stop.isNone then stopCtx s c { st with kind := .finish, cause := .cancelled }
      else s
  | .handler => if pager then wait else stopCtx s c st
  | .unit =>
    if cause == .leaseViolation || cause == .purity then
      stopCtx (discardJobs s (unitJobs s c) (fun _ => true)) c { st with kind := .finish }
    else if pager then stopCtx s c { st with kind := .pager }
    else stopCtx s c st

/-- An exception in what context c runs. A load's MEMERR that waits for the boundary is taken in place of a fault whose
group executes again, and is a notice beside any other (R389, log 34). -/
def takeFault (s : State) (c : Nat) (cause : Cause) (code : Nat) (faddr : Word) (fpc resume : Nat) (pfx : List IWord)
    (pager : Bool) : State :=
  let x := s.ctx c
  match x.memerr with
  | none => faultNow s c cause code faddr fpc resume pfx pager
  | some (a, pc) =>
    let s := s.setCtx c { x with memerr := none }
    if resume == fpc then faultNow s c .memerr 0 a pc resume [] false
    else faultNow (memerrNotice s x.vd x.jobid.toNat (pierOfCtx c) a) c cause code faddr fpc resume pfx pager

/-- Is a stop due at the next boundary (R22, R25, R37, R49, R389)? -/
def stopDue (x : Ctx) : Bool :=
  x.memerr.isSome ||
  match x.role with
  | .unit => x.cancelReq || x.preemptReq || x.budget == 0
  | .entry .handlerRecord => x.cancelReq
  | .entry _ => x.cancelReq || x.preemptReq
  | .handler => x.handlercap == 0
  | _ => false

/-- Take the stop that is due: cancellation, then a fault, then pre-emption (R26, R49). FADDR of BUDGET and HANDLER_OVERRUN is
not stated: a free value (log 3). -/
def takeStop (s : State) (c : Nat) : State :=
  let x := s.ctx c
  let at_ := BitVec.ofNat 64 x.pc
  let isEntry := match x.role with | .entry _ => true | _ => false
  if x.cancelReq && (x.role == .unit || isEntry) then
    stopCtx s c ⟨.finish, .cancelled, 0, 0, at_, x.pc, [], false⟩
  else
    match x.memerr with
    | some (a, pc) => faultNow (s.setCtx c { x with memerr := none }) c .memerr 0 a pc x.pc [] false
    | none =>
      match x.role with
      | .unit =>
        if x.budget == 0 then takeFault s.takeFree c .budget 0 s.freeWord x.pc x.pc [] false
        else if x.preemptReq then stopCtx s c ⟨.park, .preempted, 0, 0, at_, x.pc, [], false⟩
        else s
      | .entry _ => if x.preemptReq then stopCtx s c ⟨.abandon, .preempted, 0, 0, at_, x.pc, [], false⟩ else s
      | .handler =>
        if x.handlercap == 0 then takeFault s.takeFree c .handlerOverrun 0 s.freeWord x.pc x.pc [] false else s
      | _ => s

/-! ### Taking a record (R23, R48, R380) -/

/-- A context takes a READY record: a unit with a cause has it delivered again, one with a frame is restored, any other
starts; a notice runs the entry. Reserved bits of the frame's CAUSE and FPC read zero (R3, R96, R99). -/
def takeUnit (s : State) (c vd r : Nat) : State :=
  let cause := recCause s vd r
  let w0 := recWord s vd r 0
  let s := s.setCtx c { s.ctx c with freed := false, stealing := false }
  let s := match s.launch? (recLaunch s vd r) with
    | some l => s.setLaunch (recLaunch s vd r) { l with unplaced := l.unplaced.filter (fun y => y != r) }
    | none => s
  match s.notices.find? (fun n => n.record == r && n.vd == vd && r != 0) with
  | some n =>
    let s := setRecState s vd r stFaulted
    startEntry s c vd r .notice n.jobid (BitVec.ofNat 64 n.cause.code) n.faddr n.fpc
  | none =>
    if cause != 0 && cause != Cause.preempted.code then
      let m := readFrame s vd (recWord s vd r 1)
      let s := setRecState s vd r stFaulted
      let ctl (n : Nat) : Word := BitVec.ofNat 64 (frameNat m (0x1400 + 8 * n) 8)
      startEntry s c vd r .unit (launchJob s (recLaunch s vd r)) (ctl 13 &&& 0x7FFFFFF) (ctl 14) (ctl 15 &&& 0xFFFFFFFFFFFF)
    else if bit w0 59 then restoreUnit (setRecCause s vd r 0) c vd r
    else startUnit (setRecCause s vd r 0) c vd r

/-! ### Voluntary suspension (R41, R93) -/

/-- Must a voluntary suspension still wait: for a load whose MEMERR comes first (R389), for remote outcomes (R386), or for counter
operations on their way (R374)? -/
def suspendBlocked (s : State) (c : Nat) : Bool :=
  (s.ctx c).loads.any (fun p => p.memerr.isSome) || remoteOf s c || onWay s c

/-- The registers at a voluntary suspension: results of loads in flight are discarded, any other result in flight is written
(R93, log 16). -/
def landWords (x : Ctx) : Ctx :=
  x.loads.foldl (fun x p => match p.dst with
    | .word d => x.setS d (BitVec.ofNat 64 (leNat p.bytes))
    | _ => x) { x with loads := [] }

/-- Write the record and free the context. `st` is WAITING with a wait object, or READY. -/
def suspendUnit (s : State) (c st obj next : Nat) : State :=
  let s := dropArrived (leaveGuards s c) c
  let s := mapJobs s (fun _ j => if jobOf (s.ctx c) c j then { j with dreg := none } else j)
  let x := landWords (s.ctx c)
  let vd := x.vd
  let r := x.record
  let s := recordArgs s vd r x
  let s := setRecWord s vd r 3 (setBits (recWord s vd r 3) 63 32 x.urgency.toNat)
  let s := setRecWord s vd r 4 (obj * 2 ^ 32 + x.budget.toNat)
  let s := setRecWord s vd r 0 (setBits (setBits (recWord s vd r 0) 47 0 next) 55 48 st)
  let s := freeCtx s c (if x.coresUnit then some r else none)
  if st == stReady then enterWalk s vd r (pierOfCtx c) else s

/-! ### How an instruction ends -/

/-- The verdict of a meaning: not issued; a fault of the group; a fault whose resume address is the next group; completed,
with the next PC; or the context changed hands. -/
inductive Verdict where
  | wait (s : State)
  | trap (s : State) (cause : Cause) (faddr : Word) (pager : Bool)
  | trapNext (s : State) (cause : Cause) (code : Nat) (faddr : Word)
  | ok (s : State)
  | jump (s : State) (pc : Nat)
  | left (s : State)
  deriving DecidableEq, Repr

/-- The address of the instruction word of the group (R72). -/
def wordPc (x : Ctx) : Nat := (x.pc + 4 * x.pfx.length) % 2 ^ 48

/-- The address of the next group (R72). -/
def nextPc (x : Ctx) : Nat := (x.pc + 4 * x.pfx.length + 4) % 2 ^ 48

/-- The group has issued and the next one stands at `pc`, of which the PC holds 48 bits (R95). -/
def retire (s : State) (pc : Nat) : State :=
  let s := dropArrived s s.cur
  let x := s.me
  s.setMe { x with pc := pc % 2 ^ 48, pfx := [], reply := none, asked := false, sbWait := false, fifoWait := none, probe := false }

/-- A halted core that was given one group has used it (R392). -/
def stepUsed (s : State) (k : Nat) : State :=
  if (s.core k).stepping then s.setCore k { s.core k with stepping := false } else s

/-- A meaning's verdict as the outcome of the step. A group that waits while a stop is due stops before it (R46); one that is
only tried stays. -/
def conclude (s0 : State) (v : Verdict) : Out :=
  let x := s0.me
  let k := coreOfCtx s0.cur
  match v with
  | .wait s => if stopDue s.me && !committed s.me && !s.me.probe then (takeStop s s.cur).done else s.done
  | .trap s cause faddr pager => (takeFault (stepUsed s k) s.cur cause 0 faddr x.pc x.pc x.pfx pager).done
  | .trapNext s cause code faddr => (takeFault (stepUsed s k) s.cur cause code faddr x.pc (nextPc x) x.pfx false).done
  | .ok s => (retire (stepUsed s k) (nextPc x)).done
  | .jump s pc => (retire (stepUsed s k) pc).done
  | .left s => (stepUsed s k).done

end Sys2Proof.Machine
end

