-- ==== Sys2Proof/Machine/Operands.lean ====
section
/-!
DEFINITION. The operand forms: which prefixes a group holds and which an instruction accepts (R75 to R79), immediates and
displacements (R76), the guard (R74), source policies (R73), the tag checks (R125), and the gate that every instruction
passes, in the fault order of R80.
-/
namespace Sys2Proof.Machine

/-! ### Prefixes (R75 to R79) -/

def pfxOp (w : IWord) : Nat := bits w.toNat 31 24
def isXimm (w : IWord) : Bool := pfxOp w == 0xFC
def isMod (w : IWord) : Bool := pfxOp w == 0xFD
def isHint (w : IWord) : Bool := pfxOp w == 0xFE

/-- Is a word a prefix? -/
def isPrefix (w : IWord) : Bool := isXimm w || isMod w || isHint w

/-- What an instruction accepts: XIMM, and the MOD fields of a mask; HINT it always accepts (R76, R78, R79). -/
structure Accept where
  ximm : Bool
  mods : Nat
  deriving DecidableEq, Repr

/-- MOD fields: all of [23:10], those of F1, saturate, and the guard fields (R78). -/
def modF2 : Nat := 0xFFFC00
def modF1 : Nat := 0xF5FC00
def modIS : Nat := 0x800000
def modG : Nat := 0x0003E0

/-- Accept HINT only. -/
def accNone : Accept := ⟨false, 0⟩
/-- R format of group F2, F1 or IS. -/
def accF2 : Accept := ⟨false, modF2⟩
def accF1 : Accept := ⟨false, modF1⟩
def accIS : Accept := ⟨false, modIS⟩
/-- The MOD guard (E format, and I format without XIMM). -/
def accG : Accept := ⟨false, modG⟩
/-- XIMM and the MOD guard (I, M and V formats). -/
def accXG : Accept := ⟨true, modG⟩
/-- XIMM, saturate and the MOD guard (ADDI, MULI). -/
def accXGS : Accept := ⟨true, modG ||| modIS⟩

/-- A MOD word with a reserved field that is not zero (R77). -/
def modReserved (w : IWord) : Bool :=
  let n := w.toNat
  bits n 4 0 != 0 || (!bit n 5 && bits n 9 6 != 0)

/-- The group's prefixes make its instruction ILLEGAL (R75, R78). -/
def groupBad (pfx : List IWord) (a : Accept) : Bool :=
  let xs := pfx.filter isXimm
  let ms := pfx.filter isMod
  xs.length > 2 || ms.length > 1 || (pfx.filter isHint).length > 1 || (!a.ximm && !xs.isEmpty)
    || ms.any (fun m => a.mods == 0 || modReserved m || (bits m.toNat 23 0) &&& (0xFFFFFF - a.mods) != 0)

/-- The MOD word of a group; zero without one. -/
def modWord (pfx : List IWord) : IWord := (pfx.filter isMod).headD 0

/-- The arithmetic fields of the group's MOD (R77). -/
def modsOf (pfx : List IWord) : Mods := Mods.ofWord (modWord pfx)

/-- The guard that MOD gives, k0 without use-guard (R74). -/
def modGuard (pfx : List IWord) : Guard :=
  let n := (modWord pfx).toNat
  if bit n 5 then ⟨BitVec.ofNat 3 (bits n 9 7), bit n 6⟩ else ⟨0, false⟩

/-- Sign-extend the low n bits of a number to 64. -/
def sext (n x : Nat) : Word := BitVec.ofInt 64 (intOfBits true n x)

/-- The value of a low field of `n` bits with the group's XIMM words, and whether there were any (R76). -/
def extended (n low : Nat) (pfx : List IWord) : Word × Bool :=
  match (pfx.filter isXimm).map (fun w => bits w.toNat 23 0) with
  | [] => (sext n low, false)
  | [x1] => (sext (n + 24) (x1 * 2 ^ n + low), true)
  | x1 :: x2 :: _ => (sext (n + 48) (x1 * 2 ^ (n + 24) + x2 * 2 ^ n + low), true)

/-- Immediate of an I-format instruction. -/
def immOf (imm : BitVec 11) (pfx : List IWord) : Word := (extended 11 imm.toNat pfx).1

/-- Byte displacement of an M or V format: scaled without XIMM, in bytes with it (R70, R76). -/
def dispOf (n low scale : Nat) (pfx : List IWord) : Word :=
  let e := extended n low pfx
  if e.2 then e.1 else e.1 * BitVec.ofNat 64 scale

/-! ### Guards and sources (R73, R74) -/

/-- The effective guard (R74). -/
def guardWord (x : Ctx) (g : Guard) : Word := if g.inv then ~~~(x.getK g.slot) else x.getK g.slot

/-- A source register with its empty policy: true traps (R73). -/
inductive Src where
  | s (r : SReg) (trap : Bool)
  | v (r : VNum) (trap : Bool)
  | k (r : KReg) (trap : Bool)
  deriving DecidableEq, Repr

/-- Is a source full? -/
def srcFull (x : Ctx) : Src → Bool
  | .s r _ => x.fullS r
  | .v r _ => x.fullV r
  | .k r _ => x.fullK r

def srcTraps : Src → Bool
  | .s _ t => t
  | .v _ t => t
  | .k _ t => t

/-- A destination register. -/
inductive Dst where
  | s (r : SReg)
  | v (r : VNum)
  deriving DecidableEq, Repr

/-- An engine job of what the executing context runs still has to write this register (R47, R92). -/
def jobWrites (s : State) (r : SReg) : Bool :=
  (unitJobs s s.cur).any (fun j => j.2.dreg == some r && !j.2.status.final)

/-- A producer in flight writes this register, which is empty until then (R92). -/
def dstPending (s : State) : Dst → Bool
  | .s r => r != 0 && !s.me.fullS r && (s.me.loadsS r || jobWrites s r)
  | .v r => s.me.pendingV r

/-- A fault whose FADDR the spec does not state: a free value (log 3). -/
def trapFree (s : State) (c : Cause) : Verdict := .trap s.takeFree c s.freeWord false

/-- An instruction that would block: it waits, and in a handler traps with HANDLER_BLOCK (R22). -/
def block (s : State) : Verdict :=
  if s.me.role == .handler then trapFree s .handlerBlock else .wait s

/-- A pure unit raises PURITY at the instructions of R289; its FADDR is not stated: a free value (log 3). -/
def impure (s : State) (v : Verdict) : Verdict := if s.me.pure then trapFree s .purity else v

/-- What an instruction is to the gate. -/
structure Form where
  acc : Accept
  /-- The guard; the MOD guard for I, M, V and E formats. -/
  guard : Guard
  /-- Bit 0 of the guard decides whether it executes; false for vector instructions, SEL and END (R74). -/
  scalarGuard : Bool
  /-- Encodings and levels refused before any source is read (R71, R86). -/
  illegal : Bool
  minLevel : Nat
  srcs : List Src
  dsts : List Dst
  /-- Tag failure among the full vector sources (R125, R80). -/
  badTag : Ctx → Bool

/-- The gate: ILLEGAL, the guard, PRIVILEGE, sources that wait, FORMAT, sources that trap, and a destination whose producer
is still in flight (R71, R73, R74, R75, R80, R92); then the instruction itself. -/
def gate (s : State) (f : Form) (body : Ctx → Verdict) : Verdict :=
  let x := s.me
  if groupBad x.pfx f.acc || f.illegal then trapFree s .illegal
  else if !x.fullK f.guard.slot then block s
  else if f.scalarGuard && !(guardWord x f.guard).getLsbD 0 then .ok s
  else if x.level < f.minLevel then trapFree s .privilege
  else if f.srcs.any (fun r => !srcTraps r && !srcFull x r) then block s
  else if f.badTag x then .trap s .format 0 false
  else if f.srcs.any (fun r => !srcFull x r) then trapFree s .emptyRead
  else if f.dsts.any (dstPending s) then .wait s
  else body x

/-- FORMAT is raised with FADDR zero (R125). -/
def formatTrap (s : State) : Verdict := .trap s .format 0 false

/-- No tag is checked. -/
def anyTag (_ : Ctx) : Bool := false

/-- An R-format scalar instruction. -/
def formR (acc : Accept) (g : Guard) (srcs : List Src) (dsts : List Dst) : Form :=
  ⟨acc, g, true, false, 0, srcs, dsts, anyTag⟩

/-- An I, M or E format scalar instruction: its guard is MOD's. -/
def formG (s : State) (acc : Accept) (srcs : List Src) (dsts : List Dst) : Form :=
  ⟨acc, modGuard s.me.pfx, true, false, 0, srcs, dsts, anyTag⟩

/-- Source with the wait policy. -/
def waits (r : SReg) : Src := .s r false

/-! ### Results -/

/-- Write a scalar of the executing context. -/
def setD (s : State) (d : SReg) (w : Word) : State := s.setMe (s.me.setS d w)

/-- Write a guard: all ones or all zeros by a condition (R94). -/
def setKBool (s : State) (k : KReg) (b : Bool) : State :=
  s.setMe (s.me.setK k (if b then BitVec.allOnes 64 else 0))

/-- A long-latency producer of the executing context (R92, R93): its destination empties, its result is in flight. -/
def produce (s : State) (p : PendLoad) : State :=
  let x := s.me
  let x := match p.dst with
    | .scalar d _ _ => x.emptyS d
    | .word d => x.emptyS d
    | .vector d _ _ _ => x.emptyV d
  s.setMe { x with loads := x.loads ++ [p] }

/-- A producer whose 64-bit result is known at issue. -/
def produceWord (s : State) (d : SReg) (w : Word) : State :=
  produce s ⟨.word d, leBytes 8 w.toNat, [], none, s.me.pc⟩

end Sys2Proof.Machine
end

