-- ==== Sys2Proof/Machine/Pipes.lean ====
section
/-!
DEFINITION. The access pipelines: window checks (R152), reads that an instruction makes for itself (R429), loads (R155, R163,
R359, R389), stores into the store buffer (R155, R159, R358), strongly ordered pages (R254), engine reads and writes (R370),
and what an instruction does with an access that faults (R80, R153, R242).
-/
namespace Sys2Proof.Machine

/-- The answer of an access: a fault, not yet, or a value. -/
inductive Got (α : Type) where
  | fault (s : State) (f : AFault)
  | wait (s : State)
  | ok (s : State) (a : α)

/-- The executing context's agent record. -/
def meWho (s : State) : Who := s.me.who (coreOfCtx s.cur)

/-- The verdict of a faulting access of the executing context. -/
def accessTrap (s : State) (f : AFault) : Verdict := .trap s f.cause (BitVec.ofNat 64 f.faddr) f.pager

def addressFault (a : Nat) : AFault := ⟨.address, a, false⟩

/-- R152 for one access of n bytes: window, alignment, and scratchpad for qualifiers 10 and 11. -/
def checkAccess (core a n align q : Nat) : Option AFault :=
  if !oneWindow core a n || a % align != 0 || (2 ≤ q && !inSpad core a n) then some (addressFault a) else none

/-! ### The core's store buffer as a load sees it (R359) -/

/-- How many of the oldest entries must leave so that none touches these places. -/
def touchCount (sb : List SbEntry) (ls : List Loc) : Nat :=
  ((List.range sb.length).filter (fun i =>
    match sb[i]? with | some e => ls.any (entryTouches e) | none => false)).foldl (fun m i => max m (i + 1)) 0

/-- Every entry that touches these places, and all older ones, leave. -/
def drainTouching (s : State) (core : Nat) (ls : List Loc) : State :=
  drainN core (touchCount (s.core core).sb ls) s

/-- Bytes from the buffer: all from it when it holds every byte; else the entries that hold some leave first. -/
def bufferView (s : State) (core : Nat) (ls : List Loc) : State × List (Option Byte) :=
  let sb := (s.core core).sb
  if sb.isEmpty then (s, ls.map (fun _ => none))
  else
    let fs := ls.map (forwarded sb)
    if ls.any (placeTouches sb) then (drainTouching s core ls, ls.map (fun _ => none))
    else if fs.all Option.isSome then (s, fs)
    else if fs.any Option.isSome then (drainTouching s core ls, ls.map (fun _ => none))
    else (s, fs)

/-- Does a request ask for the bytes at this place? -/
def RemoteReq.holds (r : RemoteReq) (l : Loc) : Bool :=
  match l with
  | .there t pa _ => r.target == t && r.pa ≤ pa && pa < r.pa + r.size
  | _ => false

/-- An access of this agent to this byte has no outcome yet and went to where the byte's page was before it moved (R249): a later
access to the byte waits for it (R356, R366). -/
def ownMoved (s : State) (agent : Nat) (p : Placed) : Bool :=
  s.remote.any (fun r => r.who.agent == some agent && r.va ≤ p.va && p.va < r.va + r.reach && !r.holds p.loc)

/-- A store, ATOM or CAS of this agent to this remote byte, or any access of it to the byte where it was before, has no outcome
yet: a read waits (R356, R366). -/
def ownWriteOut (s : State) (agent : Nat) (p : Placed) : Bool :=
  ownMoved s agent p
    || s.remote.any (fun r => r.who.agent == some agent && r.kind != RemoteKind.read && r.holds p.loc)

/-! ### Reads of remote bytes (R247, R385, R404) -/

/-- A part in which remote bytes are requested: whether it fills a CACHE line, the first byte wanted of it, where it goes,
how many, and the mark of a handle element (R279). -/
structure Part where
  target : Nat
  pa : Nat
  size : Nat
  line : Bool
  skip : Nat
  off : Nat
  n : Nat
  mark : Word
  deriving DecidableEq, Repr

/-- The parts for places with their positions (R247, R404). -/
def remoteParts (xs : List (Loc × Nat)) : List Part :=
  (slotRuns xs).flatMap (fun r =>
    let t := r.1
    let pa := r.2.1
    let off := r.2.2.2.1
    let n := r.2.2.2.2
    if r.2.2.1 then
      let l0 := pa / 64
      let l1 := (pa + n - 1) / 64
      (List.range (l1 + 1 - l0)).map (fun i =>
        let line := (l0 + i) * 64
        let a := max pa line
        let b := min (pa + n) (line + 64)
        ⟨t, line, 64, true, a - line, off + (a - pa), b - a, 0⟩)
    else (chop pa off n).map (fun q => ⟨t, q.1, q.2.2, false, 0, q.2.1, q.2.2, 0⟩))

/-- What a handle access does with the bytes it has placed: it moves them to where their homes keep them, and marks what it asks
other modules for, by the position of a byte: the first byte of an element by `elemMark`, its other bytes by 1 (R279). -/
structure Adj where
  move : State → List Placed → List Placed
  mark : List Placed → List Word

/-- Any other access. -/
def Adj.plain : Adj := ⟨fun _ ps => ps, fun _ => []⟩

/-- The parts for places, of which those in handle elements are marked: an element is one part. -/
def markedParts (xs : List (Loc × Nat × Word)) : List Part :=
  let plain := xs.filter (fun x => x.2.2 == 0)
  remoteParts (plain.map (fun x => (x.1, x.2.1)))
    ++ xs.filterMap (fun x => match x.1 with
      | .there t pa _ => if x.2.2.getLsbD 63 then
          let w := bits x.2.2.toNat 39 36
          some ⟨t, pa, w, false, 0, x.2.1, w, x.2.2⟩ else none
      | _ => none)

/-- Bytes of a held CACHE line. -/
def fromLine (s : State) (pier : Nat) (l : Loc) : Option Byte :=
  match l with
  | .there t pa true =>
    match lineAt s pier t pa with
    | some ln => some (ln.bytes.getD (pa % 64) 0)
    | none => none
  | _ => none

/-- Bytes that arrived for an agent. -/
def fromArrived (s : State) (agent : Nat) (l : Loc) : Option (Byte × Option Cause) :=
  match l with
  | .there t pa _ =>
    match s.arrived.find? (fun a => a.agent == agent && a.target == t && a.pa ≤ pa && pa < a.pa + a.bytes.length) with
    | some a => some (a.bytes.getD (pa - a.pa) 0, a.fault)
    | none => none
  | _ => none

/-- The first of these places whose bytes came with a fault for an agent: its position and the cause. -/
def arrivedFault (s : State) (agent : Nat) (ls : List Loc) : Option (Nat × Cause) :=
  (ls.zip (List.range ls.length)).findSome? (fun x =>
    match fromArrived s agent x.1 with | some (_, some c) => some (x.2, c) | _ => none)

/-- Replace the bytes of a list at an offset. -/
def patch (bs : Bytes) (off : Nat) (new : Bytes) : Bytes :=
  bs.take off ++ new ++ bs.drop (off + new.length)

/-- Request the parts for an operand or engine read, unless they are under way. -/
def requestMarked (s : State) (agent pier : Nat) (as : List Nat) (ls : List (Loc × Nat × Word)) : State :=
  (markedParts ls).foldl (fun s p =>
    if s.remote.any (fun r => r.who == .operand agent && r.target == p.target && r.pa == p.pa && r.size == p.size) then s
    else
      sendRemote s p.target .read p.pa p.size [] p.mark 0 (.operand agent) (as.getD p.off 0)
        (if p.line then some (deckOfPier pier, pier) else none)) s

/-- The same for bytes that are in no handle element. -/
def requestParts (s : State) (agent pier : Nat) (as : List Nat) (ls : List (Loc × Nat)) : State :=
  requestMarked s agent pier as (ls.map (fun l => (l.1, l.2, 0)))

/-- The first address among poisoned places, for MEMERR (R389). -/
def poisonAddr (s : State) (ps : List Placed) (as : List Nat) : Option Nat :=
  if s.poison.isEmpty then none
  else ((ps.zip as).find? (fun x => poisonedAt s x.1.loc)).map Prod.snd

/-- A read meets poison: its MEMERR counts (R412). -/
def countPoison (s : State) (ps : List Placed) : State :=
  if s.poison.isEmpty then s
  else match ps.find? (fun p => poisonedAt s p.loc) with | some p => countUncorr s (deckOfLoc p.loc) | none => s

/-- Read placed bytes for an agent that needs them now: `none` in a position where they must still come. -/
def readPlaced (s : State) (agent pier : Nat) (fwd : List (Option Byte)) (ps : List Placed) : List (Option Byte) :=
  (ps.zip fwd).map (fun x =>
    match x.2 with
    | some b => some b
    | none =>
      match x.1.loc with
      | .there _ _ _ =>
        (match fromLine s pier x.1.loc with
        | some b => some b
        | none => (fromArrived s agent x.1.loc).map Prod.fst)
      | l => some (readHere s l))

/-- The tracking entry of a tracked address, once its bytes are at hand; a part of it at a peer is read for `agent` (R255).
`none` where its page is not resident. -/
def trackWord (s : State) (agent vd va : Nat) : Option Nat :=
  match sysLoc s vd (trackVa s vd va) with
  | some (.here pa) => some (leNat (memRead s.mem pa 8))
  | some (.there t pa ca) =>
    let bs := (List.range 8).filterMap (fun i => (fromArrived s agent (.there t (pa + i) ca)).map Prod.fst)
    if bs.length == 8 then some (leNat bs) else none
  | _ => none

/-- Virtual address of the header of a tracked address (R158, R255). -/
def headerVa (s : State) (agent vd va : Nat) : Option Nat :=
  (trackWord s agent vd va).map (fun e => e + va % 65536 / 4096 * 16)

/-- Local address of the header of a tracked address. -/
def headerPa (s : State) (agent vd va : Nat) : Option Nat := (headerVa s agent vd va).bind (sysPa s vd)

/-- The address at which the header of a tracked address is not resident: that of its tracking entry, or its own. -/
def headerLost (s : State) (agent vd va : Nat) : Nat := (headerVa s agent vd va).getD (trackVa s vd va)

/-- Where this module must read the tracking entry of a placed byte at a peer, and has not yet done so: the entry's
address (R255). -/
def trackMissing (s : State) (agent vd : Nat) (p : Placed) : Option (Nat × Loc) :=
  if !p.trk || p.loc.isThere || (trackWord s agent vd p.va).isSome then none
  else
    match sysLoc s vd (trackVa s vd p.va) with
    | some (.there t pa ca) => some (trackVa s vd p.va, .there t pa ca)
    | _ => none

/-- Ask for the tracking entries at peers that a write of these places needs; true while some are still to come. -/
def trackFetch (s : State) (agent pier vd : Nat) (ps : List Placed) : State × Bool :=
  match ps.findSome? (trackMissing s agent vd) with
  | some (a, .there t pa ca) =>
    (requestParts s agent pier (span a 8) ((List.range 8).map (fun i => (.there t (pa + i) ca, i))), true)
  | _ => (s, false)

/-- The CACHE lines of a pier go where an access touches a strongly ordered page: the acquire of its fence (R247, R254). -/
def strongLines (s : State) (p : Nat) (ps : List Placed) : State :=
  if ps.any (fun q => q.strong) then dropLines s (deckOfPier p) (fun l => l.pier == p) else s

/-- An access of the executing context to a strongly ordered page is fenced at FABRIC scope on both sides (R254): earlier
stores leave, outcomes are awaited, CACHE lines of the pier go; true when it must wait. -/
def strongBefore (s : State) (c : Nat) (ps : List Placed) : State × Bool :=
  if ps.any (fun p => p.strong) then
    let s := drainCtx s c
    if remoteOf s c then (s, true) else (strongLines s (pierOfCtx c) ps, false)
  else (s, false)

/-- Later groups of the context wait for its remote outcomes, and at FABRIC scope the pier's CACHE lines go then (R254,
R364). -/
def setFencing (s : State) (c : Nat) (lines : Bool) : State :=
  if remoteOf s c then
    s.setCtx c { s.ctx c with fencing := true, fenceLines := lines || (s.ctx c).fenceLines }
  else s

/-- A read that context c makes for itself (R429): the checks of a load, the bytes at once. -/
def ctxRead (s : State) (c : Nat) (w : Who) (k : AKind) (leased : Bool) (as : List Nat) : Got Bytes :=
  match placeAll s w k leased as with
  | .error f => .fault (noteAll s w as) f
  | .ok ps =>
    let s := noteAll s w as
    let ls := ps.map (fun p => p.loc)
    if ls.any (heldAt s) then .wait s
    else
      match strongBefore s c ps with
      | (s, true) => .wait s
      | (s, false) =>
        let v := bufferView s w.core ls
        let s := v.1
        if ps.any (ownWriteOut s c) then .wait s
        else
          match poisonAddr s ps as with
          | some a => .fault (countPoison s ps) ⟨.memerr, a, false⟩
          | none =>
            let p := pierOfCore w.core
            let bs := readPlaced s c p v.2 ps
            if bs.all Option.isSome then
              match arrivedFault s c ls with
              | some (i, .memerr) => .fault s ⟨.memerr, as.getD i 0, false⟩
              | some (i, _) =>
                .ok (strongLines (noteUnknown (countPlaced s w.vd ps) c (BitVec.ofNat 64 ((ps.map (fun q => q.va)).getD i 0))) p ps)
                  (bs.map (fun b => b.getD 0))
              | none => .ok (strongLines (countPlaced s w.vd ps) p ps) (bs.map (fun b => b.getD 0))
            else
              let miss := ((ls.zip (List.range ls.length)).zip bs).filter (fun x => x.2.isNone)
              .wait (requestParts s c p (ps.map (fun q => q.va)) (miss.map Prod.fst))

/-- n bytes from an address for the executing context, read as a load (R429). -/
def operand (s : State) (a n : Nat) : Got Bytes :=
  let w := meWho s
  if !oneWindow w.core a n then .fault s (addressFault a)
  else ctxRead s s.cur w .read true (span a n)

/-- Replace n bytes of another module by `new` if they are `old`: a CAS there, for `agent`. True when it has replaced them, or
when its outcome is unknown; false when they were others. -/
def remoteCas (s : State) (agent target pa va n old new : Nat) : Got Bool :=
  if s.remote.any (fun r => r.who == .operand agent && r.kind == RemoteKind.cas) then .wait s
  else
    match s.arrived.find? (fun a => a.agent == agent && a.target == target && a.pa == pa && a.bytes.length == n) with
    | some a =>
      (match a.fault with
      | some .memerr => .fault s ⟨.memerr, va, false⟩
      | some _ => .ok (dropArrived (noteUnknown s agent (BitVec.ofNat 64 va)) agent) true
      | none => .ok (dropArrived s agent) (leNat a.bytes == old))
    | none => .wait (sendRemote s target .cas pa n [] (BitVec.ofNat 64 old) (BitVec.ofNat 64 new) (.operand agent) va none)

/-! ### Loads (R163, R164, R389) -/

/-- Local and buffered bytes of a load now, and requests for the rest: the producer in flight. `xs` gives the address and
the position of each byte in the result, whose other bytes are those of `base`; `marks` gives the mark of each byte. -/
def launchLoad (s : State) (c : Nat) (dst : LoadDst) (w : Who) (xs : List (Nat × Nat)) (base : Bytes) (ps : List Placed)
    (marks : List Word) (fwd : List (Option Byte)) : State :=
  let ls := ps.map (fun p => p.loc)
  let p := pierOfCore w.core
  let got := (ls.zip fwd).map (fun x =>
    match x.2 with
    | some b => some b
    | none =>
      match x.1 with
      | .there _ _ _ => fromLine s p x.1
      | l => some (readHere s l))
  let slots := xs.map Prod.snd
  let miss := ((((ls.zip slots).zip (List.range ls.length)).zip got).filter (fun x => x.2.isNone)).map
    (fun x => (x.1.1.1, x.1.1.2, marks.getD x.1.2 0))
  let vaOf (o : Nat) : Nat := match (slots.zip ps).find? (fun x => x.1 == o) with | some x => x.2.va | none => 0
  let step (acc : State × List (Nat × Nat × Nat × Nat)) (q : Part) : State × List (Nat × Nat × Nat × Nat) :=
    (sendRemote acc.1 q.target .read q.pa q.size [] q.mark 0 (.load c) (vaOf q.off)
      (if q.line then some (deckOfPier p, p) else none),
     acc.2 ++ [(acc.1.nextUid, q.skip, q.off, q.n)])
  let r := (markedParts miss).foldl step (s, [])
  let bad := poisonAddr s ps (xs.map Prod.fst)
  let bytes := match bad with
    | some _ => List.replicate base.length (0 : Byte)
    | none => (slots.zip got).foldl (fun bs x => match x.2 with | some b => bs.set x.1 b | none => bs) base
  let s := countPoison (countPlaced r.1 w.vd ps) ps
  produce s ⟨dst, bytes, r.2, bad.map (BitVec.ofNat 64), s.me.pc⟩

/-- A load of the executing context with qualifier q. -/
def issueLoadBy (s : State) (adj : Adj) (q : Nat) (xs : List (Nat × Nat)) (base : Bytes)
    (dst : LoadDst) : Verdict :=
  let c := s.cur
  let w := meWho s
  let as := xs.map Prod.fst
  match placeAll s w .read true as with
  | .error f => accessTrap (noteAll s w as) f
  | .ok qs =>
    let s := noteAll s w as
    let ps := adj.move s qs
    let ls := ps.map (fun p => p.loc)
    if ls.any (heldAt s) then .wait s
    else if 2 ≤ q then
      let s := drainTouching s w.core ls
      let gs := granulesOf ls
      if !granulesFull s gs then block (if s.me.probe then s.countEvent (pierOfCtx c) 8 1 else s)
      else
        let s := launchLoad s c dst w xs base ps [] (ls.map (fun _ => none))
        .ok (if q == 3 then setGranules s false gs else s)
    else
      match strongBefore s c ps with
      | (s, true) => .wait s
      | (s, false) =>
        let v := bufferView s w.core ls
        if ps.any (ownWriteOut v.1 c) then .wait v.1
        else
          let s := launchLoad v.1 c dst w xs base ps (adj.mark ps) v.2
          let strong := ps.any (fun p => p.strong)
          .ok (if q == 1 || strong then setFencing s c strong else s)

/-- A load of bytes at the places their addresses name. -/
def issueLoad (s : State) (q : Nat) (xs : List (Nat × Nat)) (base : Bytes) (dst : LoadDst) : Verdict :=
  issueLoadBy s Adj.plain q xs base dst

/-! ### Stores (R155, R159, R358) -/

/-- Which entry a byte belongs to: its scratchpad granule, or its 64-byte line. -/
def entryKey : Loc → Nat × Nat × Nat
  | .spad c o => (0, c, o / 16)
  | .here pa => (1, 0, pa / 64)
  | .there t pa _ => (2, t, pa / 64)

/-- A byte on its way into the buffer: place, value, address, the header of its tile when this byte counts a write (R159),
and the number of its element. -/
structure StByte where
  loc : Loc
  b : Byte
  va : Nat
  hdr : Option Nat
  elem : Nat
  deriving DecidableEq, Repr

/-- How a store counts writes to tiles and takes entries (R159, R358): a vector store or row, one write to each tile;
elements of n bytes, one write each; or a scalar store, one write to each tile and one entry. -/
inductive Tally where
  | whole
  | each (n : Nat)
  | one
  deriving DecidableEq, Repr

/-- The entry of some bytes of a store. -/
def entryOf (ctx : Nat) (fill : Bool) (bs : List StByte) : SbEntry :=
  ⟨ctx, bs.map (fun b => (b.loc, b.b)), bs.map (fun b => b.va), fill, none, bs.filterMap (fun b => b.hdr), [], false⟩

/-- Bytes of two entries that are performed in one operation: both in a scratchpad (R165), or they share a tracked tile (R159,
R277) or an element (R165). -/
def sharesOp (xs ys : List StByte) : Bool :=
  let spad (bs : List StByte) : Bool := bs.any (fun b => match b.loc with | .spad _ _ => true | _ => false)
  (spad xs && spad ys) || xs.any (fun x => ys.any (fun y => x.elem == y.elem || (x.hdr.isSome && x.va / 4096 == y.va / 4096)))

/-- Group bytes by the granule or line they lie in, in the order in which these are first touched (R358). -/
def groupBytes (bs : List StByte) : List (List StByte) :=
  ((bs.map (fun b => entryKey b.loc)).eraseDups).map (fun k => bs.filter (fun b => entryKey b.loc == k))

/-- Mark every entry that leaves together with the next one: some entry up to it shares an operation with one behind it. -/
def markOps (ctx : Nat) (fill : Bool) : List (List StByte) → List (List StByte) → List SbEntry
  | _, [] => []
  | before, g :: gs =>
    let upto := g :: before
    { entryOf ctx fill g with more := upto.any (fun x => gs.any (sharesOp x)) } :: markOps ctx fill upto gs

/-- The entries of a store: one for each granule or line of a vector store, STX or TST, one for any other (R358). -/
def groupEntries (ctx : Nat) (fill : Bool) (t : Tally) (bs : List StByte) : List SbEntry :=
  match t with
  | .one => [entryOf ctx fill bs]
  | _ => markOps ctx fill [] (groupBytes bs)

/-- The bytes of a store with their tile headers; a header or tracking entry that is not resident is a PAGE fault (R255), one at
an address that no stack has is MEMERR (R243). -/
def tallyBytes (s : State) (agent vd : Nat) (t : Tally) (xs : List (Placed × Byte)) : Except AFault (List StByte) :=
  let tile (p : Placed) : Nat := p.va / 4096
  let step (acc : Except AFault (List StByte × List Nat × Nat)) (x : Placed × Byte) :
      Except AFault (List StByte × List Nat × Nat) :=
    match acc with
    | .error f => .error f
    | .ok (out, seen, i) =>
      let p := x.1
      let seen := match t with
        | .each n => if i % n == 0 then [] else seen
        | _ => seen
      let elem := match t with | .each n => i / n | _ => i
      if p.trk && !p.loc.isThere && !seen.contains (tile p) then
        match headerPa s agent vd p.va with
        | some h => .ok (out ++ [⟨p.loc, x.2, p.va, some h, elem⟩], tile p :: seen, i + 1)
        | none =>
          let a := headerLost s agent vd p.va
          if sysAbsent s vd a then .error ⟨.memerr, a, false⟩ else .error ⟨.page, a, true⟩
      else .ok (out ++ [⟨p.loc, x.2, p.va, none, elem⟩], seen, i + 1)
  match xs.foldl step (.ok ([], [], 0)) with
  | .error f => .error f
  | .ok r => .ok r.1

def sbCap : Nat := 16

/-- Entries enter the buffer (R358): where they do not all fit, one waits for a free place, and several wait for an empty
buffer. More than sixteen follow one another into the buffer, with no other store between (log 21). -/
def enterEntries (s : State) (core : Nat) (es : List SbEntry) (waited : Bool) : Option State :=
  let k := s.core core
  if k.sb.isEmpty || (k.sb.length + es.length ≤ sbCap && !(waited && 1 < es.length)) then
    some (s.setCore core { k with sb := k.sb ++ es })
  else none

/-- The store of the executing context waits for the buffer; one with several entries waits for an empty one (R358). -/
def waitBuffer (s : State) (es : List SbEntry) : Verdict :=
  .wait (if 1 < es.length then s.setMe { s.me with sbWait := true } else s)

/-- A release of DEVICE scope by context c: its entries leave; true when remote outcomes are still missing (R364, R369). -/
def releaseWait (s : State) (c : Nat) : State × Bool :=
  let s := drainCtx s c
  (s, remoteOf s c)

/-- Store bytes at addresses for the executing context; `place` turns bytes of entries into handle places (R279). -/
def issueStoreBy (s : State) (place : List Placed → List SbEntry → List SbEntry) (q : Nat) (t : Tally)
    (xs : List (Nat × Byte)) : Verdict :=
  let c := s.cur
  let w := meWho s
  let as := xs.map Prod.fst
  match placeAll s w .write true as with
  | .error f => accessTrap (noteAll s w as) f
  | .ok ps =>
    if ps.any (ownMoved s c) then .wait (noteAll s w as)
    else
    match trackFetch s c (pierOfCtx c) w.vd ps with
    | (s, true) => .wait s
    | (s, false) =>
      match tallyBytes s c w.vd t (ps.zip (xs.map Prod.snd)) with
      | .error f => accessTrap (noteAll s w as) f
      | .ok bs =>
        let s := noteAll s w as
        match (if q % 2 == 1 then releaseWait s c else (s, false)) with
        | (s, true) => .wait s
        | (s, false) =>
          match strongBefore s c ps with
          | (s, true) => .wait s
          | (s, false) =>
            let es := place ps (groupEntries c (2 ≤ q) t bs)
            match enterEntries s w.core es s.me.sbWait with
            | none => waitBuffer s es
            | some s =>
              let s := countPlaced s w.vd ps
              .ok (if ps.any (fun p => p.strong) then setFencing (drainCtx s c) c true else s)

/-- Store bytes at the places their addresses name. -/
def issueStore (s : State) (q : Nat) (t : Tally) (xs : List (Nat × Byte)) : Verdict :=
  issueStoreBy s (fun _ es => es) q t xs

/-- Bytes that an instruction itself stores (R429), entered behind what it reads: the same pipeline, given as a state. -/
def selfStore (s : State) (a : Nat) (bs : Bytes) : Got Unit :=
  let w := meWho s
  if !oneWindow w.core a bs.length then .fault s (addressFault a)
  else
    match issueStore s 0 .one ((span a bs.length).zip bs) with
    | .ok s => .ok s ()
    | .wait s => .wait s
    | .trap s cause f pager => .fault s ⟨cause, f.toNat, pager⟩
    | _ => .wait s

/-! ### Atomic operations (R168, R169) -/

/-- The new word of an ATOM. -/
def atomNew (op : AtomOp) (w : Nat) (old b : Nat) : Nat :=
  let so := intOfBits true w old
  let sb := intOfBits true w b
  let r := match op with
    | .add => old + b
    | .fadd32 => (add32 old b).1
    | .min => if so ≤ sb then old else b
    | .max => if so ≤ sb then b else old
    | .minn => min old b
    | .maxn => max old b
    | .and => old &&& b
    | .or => old ||| b
    | .xor => old ^^^ b
    | .swap => b
  r % 2 ^ w

/-- Perform a read-modify-write of n bytes at this module's places: the old word. `f` gives the new word, `none` to leave
it. A locked tile is converted first, so that the word is wholly of after (R277). -/
def rmwHere (s : State) (vd jobid pier : Nat) (addrs : List Nat) (ps : List Loc) (hdr : Option Nat) (f : Nat → Option Nat) :
    State × Nat :=
  let s := unlockTiles s ps
  let old := leNat (ps.map (readHere s))
  match f old with
  | none => (s, old)
  | some new =>
    let s := writeCells s vd jobid pier addrs (ps.zip (leBytes ps.length new))
    (bumpHeaders s (match hdr with | some h => [h] | none => []), old)

/-! ### Engine reads and writes (R370) -/

/-- Has a write of an engine agent no outcome yet, at another module or held by a page that is leaving? -/
def agentBusy (s : State) (agent : Nat) : Bool :=
  s.remote.any (fun r => r.who == .engine agent) || holdsFor s agent

/-- An engine read of bytes for a job: no store buffer, no granule test. -/
def engReadBy (s : State) (agent : Nat) (w : Who) (adj : Adj) (as : List Nat) : Got Bytes :=
  match placeAll s w .read true as with
  | .error f => .fault (noteAll s w as) f
  | .ok qs =>
    let s := noteAll s w as
    let ps := adj.move s qs
    let ls := ps.map (fun p => p.loc)
    if ls.any (heldAt s) || (agentBusy s agent && ps.any (fun p => p.strong)) || ps.any (ownWriteOut s agent) then .wait s
    else
      match poisonAddr s ps as with
      | some a => .fault (countPoison s ps) ⟨.memerr, a, false⟩
      | none =>
        let p := pierOfCore w.core
        let bs := readPlaced s agent p (ls.map (fun _ => none)) ps
        if bs.all Option.isSome then
          match arrivedFault s agent ls with
          | some (i, f) => .fault s ⟨f, if f == .memerr then as.getD i 0 else (ps.map (fun q => q.va)).getD i 0, false⟩
          | none => .ok (strongLines (countPlaced s w.vd ps) p ps) (bs.map (fun b => b.getD 0))
        else
          let marks := adj.mark ps
          let miss := ((ls.zip (List.range ls.length)).zip bs).filter (fun x => x.2.isNone)
          .wait (requestMarked (strongLines s p ps) agent p (ps.map (fun q => q.va))
            (miss.map (fun x => (x.1.1, x.1.2, marks.getD x.1.2 0))))

/-- An engine read of bytes at the places their addresses name. -/
def engRead (s : State) (agent : Nat) (w : Who) (as : List Nat) : Got Bytes := engReadBy s agent w Adj.plain as

/-- The places an engine write reaches, checked (R242: every engine write counts as a write). -/
def engPlace (s : State) (w : Who) (as : List Nat) : Except AFault (List Placed) := placeAll s w .write true as

/-- An engine write of bytes at checked places: performed at once, granules set full, one write to each tile (R159, R162).
It waits for a tracking entry that is at a peer, and on a strongly ordered page for the agent's earlier writes (R254, R255). -/
def engPut (s : State) (agent jobid : Nat) (w : Who) (ps : List Placed) (bs : Bytes) : Got Unit :=
  if (agentBusy s agent && ps.any (fun p => p.strong)) || ps.any (ownMoved s agent) then .wait s
  else
    let p := pierOfCore w.core
    match trackFetch s agent p w.vd ps with
    | (s, true) => .wait s
    | (s, false) =>
      match tallyBytes s agent w.vd .whole (ps.zip bs) with
      | .error f => .fault s f
      | .ok xs =>
        let s := performWrite (strongLines s p ps) w.vd jobid p (ps.map (fun q => q.va)) (.engine agent)
          (xs.map (fun x => (x.loc, x.b))) (xs.filterMap (fun x => x.hdr))
        .ok (countPlaced (setGranules s true (granulesOf (ps.map (fun p => p.loc)))) w.vd ps) ()

/-- An engine write of bytes at addresses. -/
def engWrite (s : State) (agent jobid : Nat) (w : Who) (xs : List (Nat × Byte)) : Got Unit :=
  let as := xs.map Prod.fst
  match engPlace s w as with
  | .error f => .fault (noteAll s w as) f
  | .ok ps => engPut (noteAll s w as) agent jobid w ps (xs.map Prod.snd)

/-- n bytes of one engine access in one window. -/
def engReadAt (s : State) (agent : Nat) (w : Who) (a n : Nat) : Got Bytes :=
  if !oneWindow w.core a n then .fault s (addressFault a) else engRead s agent w (span a n)

def engWriteAt (s : State) (agent jobid : Nat) (w : Who) (a : Nat) (bs : Bytes) : Got Unit :=
  if !oneWindow w.core a bs.length then .fault s (addressFault a)
  else engWrite s agent jobid w ((span a bs.length).zip bs)

end Sys2Proof.Machine
end

