-- ==== Sys2Proof/Machine/Prefix.lean ====
section
/-!
DEFINITION. The prefixes (R75 to R79): each takes an issue slot and is recorded for the instruction of its group.
-/
namespace Sys2Proof.Machine

/-- Record a prefix word of the group (R75). -/
def addPrefix (s : State) (w : IWord) : Out :=
  let s := dropArrived s s.cur
  (s.setMe { s.me with pfx := s.me.pfx ++ [w] }).done

/-- XIMM (R76). -/
def execXimm (n : BitVec 24) (s : State) : Out := addPrefix s (0xFC#8 ++ n)

/-- MOD (R77). -/
def execModPfx (f : BitVec 24) (s : State) : Out := addPrefix s (0xFD#8 ++ f)

/-- HINT (R79). -/
def execHint (f : BitVec 24) (s : State) : Out := addPrefix s (0xFE#8 ++ f)

end Sys2Proof.Machine
end

