-- ==== Sys2Proof/Machine/Turns.lean ====
section
/-!
DEFINITION. What a step does around the instruction, but for the choice of who moves (Slots): cached entries that leave (R161,
R257), telemetry and enrolment (R402, R412), fetching a word (R72, R80, R274, R385) and decoding it (R87); and how a word is put
where the next step fetches it (log 5).
-/
namespace Sys2Proof.Machine

/-- A cached translation or line leaves (R161, R257, R258). -/
def dropCached (s : State) : DropTlb → State
  | .micro k base =>
    let x := s.core k
    s.setCore k { x with utlb := x.utlb.filter (fun e => e.base != base) }
  | .pier p base =>
    let x := s.pier p
    s.setPier p { x with tlb := x.tlb.filter (fun e => e.base != base) }
  | .walk d table =>
    let x := s.deck d
    s.setDeck d { x with walks := x.walks.filter (fun e => e.table != table) }
  | .line d pa => dropLines s d (fun l => l.pa == pa)

/-- What sensors and monitors write (R412). -/
def writeReadings (s : State) (deck : Nat) (junction : BitVec 16) (power : BitVec 32) (inlet outlet : BitVec 16) (flow : BitVec 64)
    (inPower : BitVec 32) : State :=
  let s : State := { s with inlet := inlet, outlet := outlet, flow := flow, inPower := inPower }
  if 16 ≤ deck then s else s.setDeck deck { s.deck deck with junction := junction, power := power }

/-- A host is enrolled, or is no longer (R402). -/
def enrolHost (s : State) (host : Nat) (on : Bool) : State :=
  let rest := s.hosts.filter (fun h => h != host)
  { s with hosts := if on then rest ++ [host] else rest }

/-! ### Fetch -/

/-- Bind the handles that a restore has left: those whose page was not resident or is at another module. Each is read as HSET reads its
record, and a PAGE fault is the context's (R274). One record is read in a turn. That a binding was leased is not checked again
(DESIGN CHOICE, log 95). -/
def bindHandles (s : State) (c : Nat) : Got Unit :=
  let x := s.ctx c
  match x.h.find? (fun h => h.2.copy.isEmpty) with
  | none => .ok s ()
  | some (n, h) =>
    match ctxRead s c (x.who (coreOfCtx c)) .read false (span h.addr 64) with
    | .fault s f => .fault s f
    | .wait s => .wait s
    | .ok s bs =>
      let y := s.ctx c
      .wait ((dropArrived s c).setCtx c { y with h := if recordOk bs then kput n { h with copy := bs } y.h else kdel n y.h })

/-- Fetch one instruction word for a context (R72, R242, R254, R385). -/
def fetchWord (s : State) (c a : Nat) : Got Nat :=
  let x := s.ctx c
  let w := x.who (coreOfCtx c)
  match bindHandles s c with
  | .fault s f => .fault s f
  | .wait s => .wait s
  | .ok s _ =>
  match window w.core w.stk a with
  | none => .fault s (addressFault a)
  | some (_, .spad _ _) => .fault s (addressFault a)
  | _ =>
    match placeAll s w .fetch false (span a 4) with
    | .error f => .fault (noteAll s w (span a 4)) f
    | .ok ps =>
      match strongBefore (noteAll s w (span a 4)) c ps with
      | (s, true) => .wait s
      | (s, false) =>
      match poisonAddr s ps (span a 4) with
      | some b => .fault (countPoison s ps) ⟨.memerr, b, false⟩
      | none =>
        let ls := ps.map (fun p => p.loc)
        let bs := readPlaced s c (pierOfCtx c) (ls.map (fun _ => none)) ps
        if bs.all Option.isSome then
          match arrivedFault s c ls with
          | some (i, f) => .fault s ⟨f, if f == .memerr then a + i else (ps.map (fun q => q.va)).getD i 0, false⟩
          | none => .ok (strongLines (countPlaced s w.vd ps) (pierOfCtx c) ps) (leNat (bs.map (fun b => b.getD 0)))
        else
          let miss := ((ls.zip (List.range 4)).zip bs).filter (fun y => y.2.isNone)
          .wait (requestParts s c (pierOfCtx c) (ps.map (fun q => q.va)) (miss.map Prod.fst))

/-- A word that is no instruction traps as ILLEGAL in its group (R75, R87). -/
def illegalWord (s : State) : Out := conclude s (trapFree s .illegal)

/-- The instruction that a fetched word holds; a MOD word is a prefix whatever its reserved bits (R75). -/
def decoded (w : Nat) : Option Instr :=
  if w / 2 ^ 24 == 0xFD then some (.modPfx (BitVec.ofNat 24 w))
  else
    match decodeWord w with
    | .ok i => some i
    | .error _ => none

/-- The fence of a context is over: the pier's CACHE lines go where it acquires at FABRIC scope (R254, R364). -/
def fenceOver (s : State) (c : Nat) : State :=
  let x := s.ctx c
  if x.fencing then
    let s := if x.fenceLines then dropLines s (deckOfPier (pierOfCtx c)) (fun l => l.pier == pierOfCtx c) else s
    s.setCtx c { s.ctx c with fencing := false, fenceLines := false }
  else s

/-! ### Putting a word where the next step fetches (log 5) -/

/-- First virtual address of the machine that `loadWord` sets up. -/
def bootVa : Nat := 2 ^ 40

/-- A level-4 leaf for a 64 KiB frame: V, W, X, U as given. -/
def bootLeaf (frame rights : Nat) : Nat := frame * 2 ^ 28 + 2 ^ 4 + rights

/-- A unit in context 0 of pier 0 with its virtual device, job, launch, page table, code page, record page, frame page, data
page and stack areas. -/
def bootState (s : State) : State :=
  let put (m : Mem) (a w : Nat) : Mem := memWrite m a (leBytes 8 w)
  let m := put s.mem (0x1000 + 8 * 2) (0x2000 / 4096 * 2 ^ 24 + 1)
  let m := put m 0x2000 (0x3000 / 4096 * 2 ^ 24 + 1)
  let m := put m 0x3000 (0x4000 / 4096 * 2 ^ 24 + 1)
  let m := put m 0x4000 (bootLeaf 1 15)
  let m := put m 0x4008 (bootLeaf 2 3)
  let m := put m 0x4010 (bootLeaf 3 11)
  let m := put m 0x4018 (bootLeaf 4 11)
  let m := put m 0x4020 (bootLeaf 5 11)
  let m := put m 0x4028 (bootLeaf 6 11)
  let r := bootVa + 0x10000
  let s := { s with mem := m }
  let s := s.setVdev 1 { piers := [0], root := 0x1000, peerTab := 0x5000, tracking := bootVa + 0x30000, migThresh := 256
                         tenant := 1, recPool := (List.range 8).map (fun n => r + 64 * (n + 1))
                         framePool := (List.range 8).map (fun n => bootVa + 0x20000 + 8192 * n)
                         stackPool := [bootVa + 0x50000], reuseBase := 0, reuseQuota := 0, reuseFree := []
                         reserving := none, coresQ := [], quiesced := false, movedTo := none, movedFrom := none, recFixes := []
                         tablePool := [], jobs := [1] }
  let s := s.setJob 1 { vd := 1, tenant := 1, fentry := bootVa + 0x800, handlers := false, entryTab := 0
                        counterQuota := 64, frameQuota := 64, cancelled := false, cause := .none }
  let s := s.setLaunch 2 { vd := 1, jobid := 1, queue := 0, seq := 0, deck := 0, phase := .running, pkt := []
                           units := 1, next := 1, spawnNext := 1, unplaced := [], live := [r], leases := [], retired := 0
                           status := 0, cause := .none, args := [], results := [], argAddrs := [], resAddrs := []
                           codeHash := [], msgM := [], argGens := [], reuseCopy := none, skip := [] }
  let s := { s with counters := kput 1 ⟨1, 0, 0, .level, false, 1, [], false⟩
                      (kput 2 ⟨1, 0, 0, .level, false, 1, [], false⟩ s.counters) }
  let s := s.setPier 0 { s.pier 0 with owner := some 1 }
  let s := writeRecord s 1 r [stRunning * 2 ^ 48 + bootVa, 0, 2, 0, 1000, 0, 0, 0]
  startUnit (s.setCtx 0 { s.ctx 0 with vd := 1, stkbase := BitVec.ofNat 64 (bootVa + 0x40000) }) 0 1 r

/-- Can context `cur` fetch at its pc now? -/
def canFetch (s : State) : Bool :=
  let x := s.me
  let core := s.core (coreOfCtx s.cur)
  x.busy && x.stop.isNone && !x.pageWait && !core.halted && !stopDue x && !x.fencing
    && (match fetchWord s s.cur (wordPc x) with | .ok _ _ => true | _ => false)

/-- Store an instruction word at the place that context `cur` fetches next. -/
def pokeWord (s : State) (w : Nat) : State :=
  let x := s.me
  match placeAll s (x.who (coreOfCtx s.cur)) .fetch false (span (wordPc x) 4) with
  | .error _ => s
  | .ok ps => ((ps.map (fun p => p.loc)).zip (leBytes 4 w)).foldl (fun s c => pokeByte s c.1 c.2) s

/-- The round robin of the core of context `cur` comes to that context next. -/
def nextIsCur (s : State) : State :=
  let k := coreOfCtx s.cur
  s.setCore k { s.core k with lastIssue := (s.cur + 3) % 4 }

/-- The word w, where the next step fetches. -/
def loadWord (s : State) (w : Nat) : State :=
  let s := nextIsCur { s with agenda := [] }
  pokeWord (if canFetch s then s else bootState (nextIsCur { s with cur := 0 })) w

end Sys2Proof.Machine
end

