-- ==== Sys2Proof/Machine/Scalar.lean ====
section
/-!
DEFINITION. The scalar instructions of R101 to R112 and RDCYC: integer, immediate, compare, guard, FP32, branch and loop.
-/
namespace Sys2Proof.Machine

/-! ### Values (R101 to R104) -/

/-- Sat of an exact result to I64 (R55). -/
def sat64 (z : Int) : Word := BitVec.ofInt 64 (satInt true 64 z)

def aluAdd (sat : Bool) (a b : Word) : Word := if sat then sat64 (a.toInt + b.toInt) else a + b
def aluSub (sat : Bool) (a b : Word) : Word := if sat then sat64 (a.toInt - b.toInt) else a - b
def aluMul (sat : Bool) (a b : Word) : Word := if sat then sat64 (a.toInt * b.toInt) else a * b

/-- Bits [127:64] of the signed product. -/
def aluMulh (a b : Word) : Word := BitVec.ofInt 64 (a.toInt * b.toInt / 2 ^ 64)

/-- Bits [127:64] of the unsigned product. -/
def aluMulhn (a b : Word) : Word := BitVec.ofNat 64 (a.toNat * b.toNat / 2 ^ 64)

/-- R102, signed: division by zero gives −1; the quotient rounds towards zero; −2^63 by −1 wraps. -/
def aluDiv (a b : Word) : Word := if b = 0 then BitVec.allOnes 64 else BitVec.ofInt 64 (a.toInt.tdiv b.toInt)
def aluDivn (a b : Word) : Word := if b = 0 then BitVec.allOnes 64 else BitVec.ofNat 64 (a.toNat / b.toNat)
def aluRem (a b : Word) : Word := if b = 0 then a else BitVec.ofInt 64 (a.toInt.tmod b.toInt)
def aluRemn (a b : Word) : Word := if b = 0 then a else BitVec.ofNat 64 (a.toNat % b.toNat)

def aluAnd (a b : Word) : Word := a &&& b
def aluOr (a b : Word) : Word := a ||| b
def aluXor (a b : Word) : Word := a ^^^ b

/-- Shifts use b [5:0] (R101). -/
def aluShl (a b : Word) : Word := a <<< (b.toNat % 64)
def aluShr (a b : Word) : Word := a >>> (b.toNat % 64)
def aluSar (a b : Word) : Word := a.sshiftRight (b.toNat % 64)
def aluRot (a b : Word) : Word := a.rotateLeft (b.toNat % 64)
def aluMin (a b : Word) : Word := if a.toInt ≤ b.toInt then a else b
def aluMax (a b : Word) : Word := if a.toInt ≤ b.toInt then b else a
def aluMinn (a b : Word) : Word := if a.toNat ≤ b.toNat then a else b
def aluMaxn (a b : Word) : Word := if a.toNat ≤ b.toNat then b else a

/-- Leading zero bits, 0 to 64. -/
def aluClz (a : Word) : Word := if a = 0 then 64 else BitVec.ofNat 64 (63 - a.toNat.log2)

/-- Set bits, 0 to 64. -/
def aluPopc (a : Word) : Word := BitVec.ofNat 64 ((List.range 64).filter (fun n => a.getLsbD n)).length

/-- Address of vector block b from base a. -/
def aluLea (a b : Word) : Word := a + (b <<< 7)

/-- Position, width and sign bit of a bit-field operand; a width above 64 acts as 64 (R103). -/
def fieldPos (b : Word) : Nat := bits b.toNat 5 0
def fieldWidth (b : Word) : Nat := min (bits b.toNat 14 8) 64

/-- BFX (R103). -/
def aluBfx (a b : Word) : Word :=
  let w := fieldWidth b
  let f := a.toNat / 2 ^ fieldPos b % 2 ^ w
  if bit b.toNat 15 && w > 0 && bit f (w - 1) then BitVec.ofInt 64 ((f : Int) - 2 ^ w) else BitVec.ofNat 64 f

/-- BFI (R103). -/
def aluBfi (d a b : Word) : Word :=
  let mask := BitVec.ofNat 64 ((2 ^ fieldWidth b - 1) * 2 ^ fieldPos b)
  (d &&& ~~~mask) ||| ((a <<< fieldPos b) &&& mask)

/-! ### Shapes -/

/-- Three registers; the operation may see MOD saturate. -/
def scalar3 (s : State) (acc : Accept) (o : R3) (f : Bool → Word → Word → Word) : Out :=
  conclude s (gate s (formR acc o.g [.s o.a o.ta, .s o.b o.tb] [.s o.d]) fun x =>
    .ok (setD s o.d (f (modsOf x.pfx).sat (x.getS o.a) (x.getS o.b))))

/-- Two registers. -/
def scalar2 (s : State) (o : R2) (f : Word → Word) : Out :=
  conclude s (gate s (formR accNone o.g [.s o.a o.ta] [.s o.d]) fun x => .ok (setD s o.d (f (x.getS o.a))))

/-- Register and immediate (R104): the I-format guard is MOD's. -/
def scalarI (s : State) (acc : Accept) (o : I2) (f : Bool → Word → Word → Word) : Out :=
  conclude s (gate s ⟨acc, modGuard s.me.pfx, true, false, 0, [.s o.a o.ta], [.s o.d], anyTag⟩ fun x =>
    .ok (setD s o.d (f (modsOf x.pfx).sat (x.getS o.a) (immOf o.imm x.pfx))))

/-- Register and shift count. -/
def scalarSh (s : State) (o : ISh) (f : Word → Word → Word) : Out :=
  conclude s (gate s ⟨accG, modGuard s.me.pfx, true, false, 0, [.s o.a o.ta], [.s o.d], anyTag⟩ fun x =>
    .ok (setD s o.d (f (x.getS o.a) (o.n.setWidth 64))))

/-- Compare of registers into a guard (R105). -/
def compareR (s : State) (o : RCmp) (f : Word → Word → Bool) : Out :=
  conclude s (gate s (formR accNone o.g [.s o.a o.ta, .s o.b o.tb] []) fun x =>
    .ok (setKBool s o.k (f (x.getS o.a) (x.getS o.b))))

/-- Compare with an immediate (R105). -/
def compareI (s : State) (o : ICmp) (f : Word → Word → Bool) : Out :=
  conclude s (gate s ⟨accXG, modGuard s.me.pfx, true, false, 0, [.s o.a o.ta], [], anyTag⟩ fun x =>
    .ok (setKBool s o.k (f (x.getS o.a) (immOf o.imm x.pfx))))

/-- Signed and unsigned integer conditions (R83). -/
def condS (cc : BitVec 3) (a b : Word) : Bool := condInt cc.toNat a.toInt b.toInt a.toNat b.toNat
def condU (cc : BitVec 3) (a b : Word) : Bool := condInt cc.toNat a.toNat b.toNat a.toNat b.toNat

/-- Guard operation of two sources (R106). -/
def guard3 (s : State) (o : K3) (f : Word → Word → Word) : Out :=
  conclude s (gate s (formR accNone o.g [.k o.a o.ta, .k o.b o.tb] []) fun x =>
    .ok (s.setMe (x.setK o.d (f (x.getK o.a) (x.getK o.b)))))

/-- Guard operation of one source (R106). -/
def guard2 (s : State) (o : K2) (f : Word → Word) : Out :=
  conclude s (gate s (formR accNone o.g [.k o.a o.ta] []) fun x => .ok (s.setMe (x.setK o.d (f (x.getK o.a)))))

/-! ### Scalar FP32 (R107 to R110) -/

/-- The FP32 operand of a scalar: bits [31:0]. -/
def fp32Of (w : Word) : Nat := w.toNat % 2 ^ 32

def rmodeOf (x : Ctx) : RMode := RMode.ofCode x.rmode.toNat

/-- Write a result and OR its flags into FLAGS (R64). -/
def setF (s : State) (d : SReg) (r : Nat × Flags) : State :=
  s.setMe ((s.me.setS d (BitVec.ofNat 64 r.1)).addFlags r.2)

/-- Two FP32 sources, group F2. -/
def float3 (s : State) (o : R3) (op : RMode → FVal → FVal → FVal × Flags) : Out :=
  conclude s (gate s (formR accF2 o.g [.s o.a o.ta, .s o.b o.tb] [.s o.d]) fun x =>
    .ok (setF s o.d (arith2 op .fp32 (modsOf x.pfx) (rmodeOf x) (fp32Of (x.getS o.a)) (fp32Of (x.getS o.b)))))

/-- The register value of a converted result: sign-extended for I formats, zero-extended for others (R110). -/
def extendTo (f : Fmt) (x : Nat) : Word :=
  if fmtIsInt f && fmtSigned f then BitVec.ofInt 64 (intOfBits true (fmtBits f) x) else BitVec.ofNat 64 x

/-- FCVT in either direction, group F1 (R110). -/
def floatCvt (s : State) (o : RCvt) (src dst : Fmt) : Out :=
  conclude s (gate s (formR accF1 o.g [.s o.a o.ta] [.s o.d]) fun x =>
    let r := convert src dst (modsOf x.pfx) (rmodeOf x) ((x.getS o.a).toNat % 2 ^ fmtBits src)
    .ok (s.setMe ((x.setS o.d (extendTo dst r.1)).addFlags r.2)))

/-! ### Branches (R72, R111) -/

/-- The target of an offset in words from the branch word itself (R72). -/
def branchTarget (x : Ctx) (off : Int) : Nat := (((wordPc x : Int) + 4 * off) % 2 ^ 48).toNat

/-- BR and BRL. -/
def branchB (s : State) (o : BOff) (link : Bool) : Out :=
  conclude s (gate s (formR accNone o.g [] (if link then [.s 62] else [])) fun x =>
    .jump (if link then setD s 62 (BitVec.ofNat 64 (nextPc x)) else s) (branchTarget x o.off.toInt))

/-- A jump to a register's value: bits [1:0] set raise ADDRESS with FADDR the target (R72); the PC takes 48 bits of it,
and a target in no window faults at its fetch (R95, log 27). -/
def jumpTo (s : State) (t : Word) (f : State → State) : Verdict :=
  if t.toNat % 4 != 0 then .trap s .address t false else .jump (f s) (t.toNat % 2 ^ 48)

/-! ### Meanings -/

/-- ILLEGAL traps with its group (R87). -/
def execIllegal (_ : BitVec 24) (s : State) : Out := conclude s (trapFree s .illegal)

/-- NOP accepts HINT only (R88). -/
def execNop (s : State) : Out := conclude s (gate s (formR accNone ⟨0, false⟩ [] []) fun _ => .ok s)

/-- ADD (R101). -/
def execAdd (o : R3) (s : State) : Out := scalar3 s accIS o aluAdd

/-- SUB (R101). -/
def execSub (o : R3) (s : State) : Out := scalar3 s accIS o aluSub

/-- MUL (R101). -/
def execMul (o : R3) (s : State) : Out := scalar3 s accIS o aluMul

/-- MULH (R101). -/
def execMulh (o : R3) (s : State) : Out := scalar3 s accNone o (fun _ => aluMulh)

/-- MULHN (R101). -/
def execMulhn (o : R3) (s : State) : Out := scalar3 s accNone o (fun _ => aluMulhn)

/-- DIV (R102). -/
def execDiv (o : R3) (s : State) : Out := scalar3 s accNone o (fun _ => aluDiv)

/-- DIVN (R102). -/
def execDivn (o : R3) (s : State) : Out := scalar3 s accNone o (fun _ => aluDivn)

/-- REM (R102). -/
def execRem (o : R3) (s : State) : Out := scalar3 s accNone o (fun _ => aluRem)

/-- REMN (R102). -/
def execRemn (o : R3) (s : State) : Out := scalar3 s accNone o (fun _ => aluRemn)

/-- XOR (R101). -/
def execXor (o : R3) (s : State) : Out := scalar3 s accNone o (fun _ => aluXor)

/-- SHL (R101). -/
def execShl (o : R3) (s : State) : Out := scalar3 s accNone o (fun _ => aluShl)

/-- SHR (R101). -/
def execShr (o : R3) (s : State) : Out := scalar3 s accNone o (fun _ => aluShr)

/-- SAR (R101). -/
def execSar (o : R3) (s : State) : Out := scalar3 s accNone o (fun _ => aluSar)

/-- ROT (R101). -/
def execRot (o : R3) (s : State) : Out := scalar3 s accNone o (fun _ => aluRot)

/-- MIN (R101). -/
def execMin (o : R3) (s : State) : Out := scalar3 s accNone o (fun _ => aluMin)

/-- MAX (R101). -/
def execMax (o : R3) (s : State) : Out := scalar3 s accNone o (fun _ => aluMax)

/-- MINN (R101). -/
def execMinn (o : R3) (s : State) : Out := scalar3 s accNone o (fun _ => aluMinn)

/-- MAXN (R101). -/
def execMaxn (o : R3) (s : State) : Out := scalar3 s accNone o (fun _ => aluMaxn)

/-- BFX (R103). -/
def execBfx (o : R3) (s : State) : Out := scalar3 s accNone o (fun _ => aluBfx)

/-- LEA (R101). -/
def execLea (o : R3) (s : State) : Out := scalar3 s accNone o (fun _ => aluLea)

/-- AND (R101). -/
def execAnd (o : R3) (s : State) : Out := scalar3 s accNone o (fun _ => aluAnd)

/-- OR (R101). -/
def execOr (o : R3) (s : State) : Out := scalar3 s accNone o (fun _ => aluOr)

/-- CLZ (R101). -/
def execClz (o : R2) (s : State) : Out := scalar2 s o aluClz

/-- POPC (R101). -/
def execPopc (o : R2) (s : State) : Out := scalar2 s o aluPopc

/-- MOV (R101). -/
def execMov (o : R2) (s : State) : Out := scalar2 s o id

/-- BFI reads d with the wait policy (R73, R103). -/
def execBfi (o : R3) (s : State) : Out :=
  conclude s (gate s (formR accNone o.g [.s o.a o.ta, .s o.b o.tb, waits o.d] []) fun x =>
    .ok (setD s o.d (aluBfi (x.getS o.d) (x.getS o.a) (x.getS o.b))))

/-- SEL: its guard is its selector, and it always executes (R74, R103). -/
def execSel (o : R3) (s : State) : Out :=
  conclude s (gate s ⟨accNone, o.g, false, false, 0, [.s o.a o.ta, .s o.b o.tb], [.s o.d], anyTag⟩ fun x =>
    .ok (setD s o.d (if (guardWord x o.g).getLsbD 0 then x.getS o.a else x.getS o.b)))

/-- ADDI (R104). -/
def execAddi (o : I2) (s : State) : Out := scalarI s accXGS o aluAdd

/-- MULI (R104). -/
def execMuli (o : I2) (s : State) : Out := scalarI s accXGS o aluMul

/-- ANDI (R104). -/
def execAndi (o : I2) (s : State) : Out := scalarI s accXG o (fun _ => aluAnd)

/-- ORI (R104). -/
def execOri (o : I2) (s : State) : Out := scalarI s accXG o (fun _ => aluOr)

/-- XORI (R104). -/
def execXori (o : I2) (s : State) : Out := scalarI s accXG o (fun _ => aluXor)

/-- SHLI (R104). -/
def execShli (o : ISh) (s : State) : Out := scalarSh s o aluShl

/-- SHRI (R104). -/
def execShri (o : ISh) (s : State) : Out := scalarSh s o aluShr

/-- SARI (R104). -/
def execSari (o : ISh) (s : State) : Out := scalarSh s o aluSar

/-- MOVI (R104). -/
def execMovi (o : ID) (s : State) : Out :=
  conclude s (gate s (formG s accXG [] [.s o.d]) fun x => .ok (setD s o.d (immOf o.imm x.pfx)))

/-- CMP (R105). -/
def execCmp (o : RCmp) (s : State) : Out := compareR s o (condS o.cc)

/-- CMPN (R105). -/
def execCmpn (o : RCmp) (s : State) : Out := compareR s o (condU o.cc)

/-- CMPI (R105). -/
def execCmpi (o : ICmp) (s : State) : Out := compareI s o (condS o.cc)

/-- CMPNI (R105). -/
def execCmpni (o : ICmp) (s : State) : Out := compareI s o (condU o.cc)

/-- KAND (R106). -/
def execKand (o : K3) (s : State) : Out := guard3 s o aluAnd

/-- KOR (R106). -/
def execKor (o : K3) (s : State) : Out := guard3 s o aluOr

/-- KXOR (R106). -/
def execKxor (o : K3) (s : State) : Out := guard3 s o aluXor

/-- KNOT (R106). -/
def execKnot (o : K2) (s : State) : Out := guard2 s o (fun a => ~~~a)

/-- KMOV (R106). -/
def execKmov (o : K2) (s : State) : Out := guard2 s o id

/-- KGET (R106). -/
def execKget (o : KG) (s : State) : Out :=
  conclude s (gate s (formR accNone o.g [.k o.a o.ta] [.s o.d]) fun x => .ok (setD s o.d (x.getK o.a)))

/-- KCLR empties a guard and leaves its bits (R106). -/
def execKclr (o : KD) (s : State) : Out :=
  conclude s (gate s (formR accNone o.g [] []) fun x => .ok (s.setMe (x.emptyK o.d)))

/-- FADD (R107). -/
def execFadd (o : R3) (s : State) : Out := float3 s o opAdd

/-- FSUB (R107). -/
def execFsub (o : R3) (s : State) : Out := float3 s o opSub

/-- FMUL (R107). -/
def execFmul (o : R3) (s : State) : Out := float3 s o opMul

/-- FDIV (R107). -/
def execFdiv (o : R3) (s : State) : Out := float3 s o opDiv

/-- FMIN (R108). -/
def execFmin (o : R3) (s : State) : Out := float3 s o opMin

/-- FMAX (R108). -/
def execFmax (o : R3) (s : State) : Out := float3 s o opMax

/-- FFMA reads d with the wait policy (R73, R107). -/
def execFfma (o : R3) (s : State) : Out :=
  conclude s (gate s (formR accF2 o.g [.s o.a o.ta, .s o.b o.tb, waits o.d] []) fun x =>
    .ok (setF s o.d (arithFma .fp32 (modsOf x.pfx) (rmodeOf x) (fp32Of (x.getS o.a)) (fp32Of (x.getS o.b))
      (fp32Of (x.getS o.d)))))

/-- FSQRT, group F1 (R107). -/
def execFsqrt (o : R2) (s : State) : Out :=
  conclude s (gate s (formR accF1 o.g [.s o.a o.ta] [.s o.d]) fun x =>
    .ok (setF s o.d (arith1 sqrtX .fp32 (modsOf x.pfx) (rmodeOf x) (fp32Of (x.getS o.a)))))

/-- FCMP (R109). -/
def execFcmp (o : RCmp) (s : State) : Out :=
  compareR s o (fun a b => condFloat o.cc.toNat (decodeFloat .fp32 (fp32Of a)) (decodeFloat .fp32 (fp32Of b)))

/-- FCVT.to: FP32 to fmt (R110). -/
def execFcvtTo (o : RCvt) (s : State) : Out := floatCvt s o .fp32 o.f

/-- FCVT.from: fmt to FP32 (R110). -/
def execFcvtFrom (o : RCvt) (s : State) : Out := floatCvt s o o.f .fp32

/-- BR (R111). -/
def execBr (o : BOff) (s : State) : Out := branchB s o false

/-- BRL writes the return address to s62 (R111). -/
def execBrl (o : BOff) (s : State) : Out := branchB s o true

/-- JR (R111). -/
def execJr (o : RA) (s : State) : Out :=
  conclude s (gate s (formR accNone o.g [.s o.a o.ta] []) fun x => jumpTo s (x.getS o.a) id)

/-- JRL (R111). -/
def execJrl (o : R2) (s : State) : Out :=
  conclude s (gate s (formR accNone o.g [.s o.a o.ta] [.s o.d]) fun x =>
    jumpTo s (x.getS o.a) (fun s => setD s o.d (BitVec.ofNat 64 (nextPc x))))

/-- LOOP counts d down and branches while it is not zero (R112). -/
def execLoop (o : ID) (s : State) : Out :=
  conclude s (gate s (formG s accG [waits o.d] []) fun x =>
    let d := x.getS o.d
    if d = 0 then .ok s
    else
      let t := setD s o.d (d - 1)
      if d - 1 = 0 then .ok t else .jump t (branchTarget x o.imm.toInt))

/-- RDCYC (R118, R289). -/
def execRdcyc (o : RD) (s : State) : Out :=
  conclude s (gate s (formR accNone o.g [] [.s o.d]) fun _ =>
    impure s <| .ok (setD s o.d (s.core (coreOfCtx s.cur)).cycles))

/-! ### Control registers (R96, R97, R117) -/

/-- Lowest level that may write a control register; `none` for those that cannot be written (R96). -/
def ctrlLevel (n : Nat) : Option Nat :=
  if n == 10 || n == 16 then some 3
  else if n == 13 || n == 14 || n == 15 then some 2
  else if n == 7 || n == 8 || n == 9 || (17 ≤ n && n ≤ 22) || n == 24 then some 0
  else none

/-- The bits of the fields of a register that cannot be written: every other bit is reserved or zero (R3, R96, R99). -/
def fixedBits (n : Nat) : Nat :=
  match n with
  | 0 => 0x3
  | 1 => 0x0F3FFF07
  | 2 => 0x3
  | 3 => 0xFFFF
  | 4 => 0xFFFFFFFF
  | 5 => 0xFFFFFFFF
  | 6 => 0xFFFFFFFF
  | 11 => 0xFFFFFFFF0000
  | 23 => 0xFFFF
  | 25 => 0x1FF
  | _ => 0xFFFFFFFFFFFFFFFF

/-- Does SETC refuse this value: a reserved bit set, or a field outside its range (R117)? CAUSE's cause field takes any
16-bit code. -/
def ctrlRefuses (n : Nat) (v : Nat) : Bool :=
  match n with
  | 7 => v ≥ 2 ^ 5
  | 8 => v ≥ 2 ^ 2
  | 9 => v ≥ 2 ^ 32
  | 10 => v ≥ 2 ^ 32
  | 13 => v ≥ 2 ^ 27
  | 14 => false
  | 15 => v ≥ 2 ^ 48
  | 16 => v ≥ 2 ^ 48 || v % 4 != 0
  | 17 => v ≥ 16 || v == 0
  | 18 => v ≥ 2 ^ 32
  | 19 => v ≥ 2 ^ 32
  | 20 => v ≥ 4
  | 21 => v > 8
  | 22 => v ≥ 16 || v == 0
  | 24 => v ≥ 32
  | _ => v &&& fixedBits n != v

/-- The write of a control register (R96). -/
def setControl (s : State) (n : Nat) (w : Word) : State :=
  let x := s.me
  let k := coreOfCtx s.cur
  let p := pierOfCtx s.cur
  match n with
  | 7 => s.setMe { x with flags := w.setWidth 5 }
  | 8 => s.setMe { x with rmode := w.setWidth 2 }
  | 9 => s.setMe { x with urgency := w.setWidth 32 }
  | 10 => s.setMe { x with budget := w.setWidth 32 }
  | 13 => s.setMe { x with cause := w }
  | 14 => s.setMe { x with faddr := w }
  | 15 => s.setMe { x with fpc := w }
  | 16 =>
    (match s.job? x.jobid.toNat with
    | some j => s.setJob x.jobid.toNat { j with fentry := w.toNat }
    | none => s)
  | 17 => s.setMe { x with enck := w.setWidth 4 }
  | 18 => s.setMe { x with enctau := w.setWidth 32 }
  | 19 => s.setMe { x with enceps := w.setWidth 32 }
  | 20 => s.setMe { x with encdict := w.setWidth 2 }
  | 21 =>
    let pr := s.pier p
    s.setPier p (if w.toNat == pr.split then
      { pr with trsplit := w.toNat, splitWait := [], jobs := pr.jobs.map (fun j => if j.eng == .matrix then { j with ver := 0 } else j) }
    else { pr with trsplit := w.toNat, splitWait := if pr.splitWait.contains k then pr.splitWait else pr.splitWait ++ [k] })
  | 22 => s.setCore k { s.core k with mweight := w.setWidth 4 }
  | 24 => s.setPier p { s.pier p with stealr := w.toNat }
  | _ => s

/-- May this level write this register? A handler writes its own context's registers: the exception of R97 names those of the
unit contexts, which no SETC of a handler reaches. -/
def ctrlAllowed (level n : Nat) : Bool :=
  match ctrlLevel n with
  | some l => l ≤ level
  | none => false

/-- GETC (R117). -/
def execGetc (o : IGet) (s : State) : Out :=
  conclude s (gate s (formG s accG [] [.s o.d]) fun _ => .ok (setD s o.d (controlReg s s.cur o.n.toNat)))

/-- The level that SETC is judged by before its source is at hand: that of the register when the source is empty and traps,
since PRIVILEGE ranks before EMPTY_READ (R80). No level writes a register without a Write level. -/
def setcLevel (x : Ctx) (o : ISet) : Nat := if o.ta && !x.fullS o.a then (ctrlLevel o.n.toNat).getD 4 else 0

/-- SETC: a refused value is ILLEGAL before the level is judged (R80, R117). -/
def execSetc (o : ISet) (s : State) : Out :=
  conclude s (gate s ⟨accG, modGuard s.me.pfx, true, false, setcLevel s.me o, [.s o.a o.ta], [], anyTag⟩ fun x =>
    let w := x.getS o.a
    if ctrlRefuses o.n.toNat w.toNat then trapFree s .illegal
    else if !ctrlAllowed x.level o.n.toNat then trapFree s .privilege
    else .ok (setControl s o.n.toNat w))

/-- TRAP: the resume address is the next group (R113). FADDR is not stated: a free value (log 3). -/
def execTrap (code : BitVec 11) (s : State) : Out :=
  conclude s (gate s (formG s accG [] []) fun _ => .trapNext s.takeFree .trap code.toNat s.freeWord)

end Sys2Proof.Machine
end

