-- ==== Sys2Proof/Machine/Vector.lean ====
section
/-!
DEFINITION. The vector instructions of R128 to R149: their waiting, tag checks and partial writes (R121 to R127), over the
lane computations of Lanes.lean.
-/
namespace Sys2Proof.Machine

/-! ### Tags (R125) -/

/-- A full source whose tag is not accepted. -/
def tagBad (x : Ctx) (p : Fmt → Bool) (v : VNum) : Bool :=
  x.fullV v && (match (x.getV v).fmt? with | some f => !p f | none => true)

/-- Two full sources that must agree and do not. -/
def tagsDiffer (x : Ctx) (v w : VNum) : Bool := x.fullV v && x.fullV w && (x.getV v).tag != (x.getV w).tag

def isFp (f : Fmt) : Bool := f == .fp32 || f == .bf16
def notE2 (f : Fmt) : Bool := f != .e2m1x
def anyFmt (_ : Fmt) : Bool := true

/-- The format of a register that passed its check. -/
def fmtOfV (x : Ctx) (v : VNum) : Fmt := ((x.getV v).fmt?).getD .i64

/-! ### The gate of an instruction that writes a vector register (R124, R127) -/

/-- What a vector instruction is to its gate. -/
structure VForm where
  acc : Accept
  guard : Guard
  /-- Format fixed by the encoding. -/
  fixed : Option Fmt
  srcs : Ctx → List Src
  badTag : Ctx → Bool
  /-- Result format, once the sources are full. -/
  result : Ctx → Fmt
  d : VNum
  /-- The guard is a lane mask and every lane of d is written (VSEL, VCOMP; log 31). -/
  always : Bool

/-- R124: no lane enabled writes nothing; a partial write needs d full with the result's tag. -/
def vgate (s : State) (f : VForm) (body : Ctx → Word → Fmt → Verdict) : Verdict :=
  let x := s.me
  if groupBad x.pfx f.acc then trapFree s .illegal
  else if !x.fullK f.guard.slot then block s
  else
    let g := guardWord x f.guard
    let none_ := match f.fixed with
      | some t => g == 0 || !anyOn g t
      | none => !f.always && g == 0
    if none_ then .ok s
    else if (f.srcs x).any (fun r => !srcTraps r && !srcFull x r) then block s
    else if f.badTag x then formatTrap s
    else if (f.srcs x).any (fun r => !srcFull x r) then trapFree s .emptyRead
    else
      let t := f.result x
      if f.always then (if x.pendingV f.d then .wait s else body x g t)
      else if !anyOn g t then .ok s
      else if allOn g t then (if x.pendingV f.d then .wait s else body x g t)
      else if !x.fullV f.d then block s
      else if (x.getV f.d).tag != BitVec.ofNat 4 t.code then formatTrap s
      else body x g t

/-- Write a vector register and OR flags into FLAGS (R64). -/
def setVF (s : State) (d : VNum) (r : VReg × Flags) : State :=
  s.setMe ((s.me.setV d r.1).addFlags r.2)

/-- Lane by lane, two sources of one tag. -/
def vector3 (s : State) (acc : Accept) (o : V3) (p : Fmt → Bool) (op : Ctx → Fmt → Nat → Nat → Nat × Flags) : Out :=
  conclude s (vgate s ⟨acc, o.g, none, fun _ => [.v o.a o.ta, .v o.b o.tb],
      fun x => tagBad x p o.a || tagBad x p o.b || tagsDiffer x o.a o.b, fun x => fmtOfV x o.a, o.d, false⟩
    fun x g t => .ok (setVF s o.d (writeComputed g t (map2Lanes t (op x t) (x.getV o.a) (x.getV o.b)) (x.getV o.d))))

/-- Lane by lane, one source. -/
def vector2 (s : State) (acc : Accept) (o : V2) (p : Fmt → Bool) (op : Ctx → Fmt → Nat → Nat × Flags) : Out :=
  conclude s (vgate s ⟨acc, o.g, none, fun _ => [.v o.a o.ta], fun x => tagBad x p o.a, fun x => fmtOfV x o.a, o.d, false⟩
    fun x g t => .ok (setVF s o.d (writeComputed g t (map1Lanes t (op x t) (x.getV o.a)) (x.getV o.d))))

/-- A float lane operation of two sources by R78. -/
def floatLane2 (op : RMode → FVal → FVal → FVal × Flags) (x : Ctx) (t : Fmt) (a b : Nat) : Nat × Flags :=
  match floatOf t with
  | some ff => arith2 op ff (modsOf x.pfx) (rmodeOf x) a b
  | none => (a, 0)

/-- A float lane operation of one source by R78. -/
def floatLane1 (op : FVal → FVal × Flags) (x : Ctx) (t : Fmt) (a : Nat) : Nat × Flags :=
  match floatOf t with
  | some ff => arith1 op ff (modsOf x.pfx) (rmodeOf x) a
  | none => (a, 0)

/-- An integer lane operation of group IS. -/
def intLaneM (op : Int → Int → Int) (x : Ctx) (t : Fmt) (a b : Nat) : Nat × Flags :=
  intLane t (modsOf x.pfx).sat op a b

/-- Bit-by-bit lane operations. -/
def bitLane (f : Nat → Nat → Nat) (_ : Ctx) (_ : Fmt) (a b : Nat) : Nat × Flags := (f a b, 0)

/-- The gate of an instruction that reads vectors under a lane guard and writes a guard or a scalar: it always executes. -/
def formV (g : Guard) (srcs : List Src) (dsts : List Dst) (badTag : Ctx → Bool) : Form :=
  ⟨accNone, g, false, false, 0, srcs, dsts, badTag⟩

/-- VCMP and VICMP (R132). -/
def vcompare (s : State) (o : VCmp) (p : Fmt → Bool) : Out :=
  conclude s (gate s (formV o.g [.v o.a o.ta, .v o.b o.tb] []
      (fun x => tagBad x p o.a || tagBad x p o.b || tagsDiffer x o.a o.b)) fun x =>
    let t := fmtOfV x o.a
    .ok (s.setMe (x.setK o.k
      (guardOfLanes (enabled (guardWord x o.g) t) (cmpLanes t o.cc.toNat (x.getV o.a) (x.getV o.b))))))

/-- Tags of VICMP (R132). -/
def icmpTag (f : Fmt) : Bool := fmtIsInt f && fmtLanes f ≤ 64

/-- Tags of the reductions (R146). -/
def reduceTag (f : Fmt) : Bool := isFp f || fmtIsInt f

/-- A reduction of one vector into a scalar (R146). -/
def reduce1 (s : State) (o : SV) (ff : Fmt → Word → VReg → Nat × Flags) (fi : Fmt → Word → VReg → Nat) : Out :=
  conclude s (gate s (formV o.g [.v o.a o.ta] [.s o.d] (fun x => tagBad x reduceTag o.a)) fun x =>
    let t := fmtOfV x o.a
    let g := guardWord x o.g
    if isFp t then
      let r := ff t g (x.getV o.a)
      .ok (produceWord (s.setMe (x.addFlags r.2)) o.d (BitVec.ofNat 64 r.1))
    else .ok (produceWord s o.d (BitVec.ofNat 64 (fi t g (x.getV o.a)))))

/-! ### Meanings -/

/-- VADD (R128). -/
def execVadd (o : V3) (s : State) : Out := vector3 s accF2 o isFp (floatLane2 opAdd)

/-- VSUB (R128). -/
def execVsub (o : V3) (s : State) : Out := vector3 s accF2 o isFp (floatLane2 opSub)

/-- VMUL (R128). -/
def execVmul (o : V3) (s : State) : Out := vector3 s accF2 o isFp (floatLane2 opMul)

/-- VMIN (R128). -/
def execVmin (o : V3) (s : State) : Out := vector3 s accF2 o isFp (floatLane2 opMin)

/-- VMAX (R128). -/
def execVmax (o : V3) (s : State) : Out := vector3 s accF2 o isFp (floatLane2 opMax)

/-- VDIV (R128). -/
def execVdiv (o : V3) (s : State) : Out := vector3 s accF2 o isFp (floatLane2 opDiv)

/-- VSQRT (R128, R129). -/
def execVsqrt (o : V2) (s : State) : Out := vector2 s accF1 o isFp (floatLane1 sqrtX)

/-- VRCP (R128, R129). -/
def execVrcp (o : V2) (s : State) : Out := vector2 s accF1 o isFp (floatLane1 rcpX)

/-- VRSQ (R128, R129). -/
def execVrsq (o : V2) (s : State) : Out := vector2 s accF1 o isFp (floatLane1 rsqX)

/-- VEXP2 (R128, R129). -/
def execVexp2 (o : V2) (s : State) : Out := vector2 s accF1 o isFp (floatLane1 exp2X)

/-- VLOG2 (R128, R129). -/
def execVlog2 (o : V2) (s : State) : Out := vector2 s accF1 o isFp (floatLane1 log2X)

/-- VIADD (R130). -/
def execViadd (o : V3) (s : State) : Out := vector3 s accIS o fmtIsInt (intLaneM (· + ·))

/-- VISUB (R130). -/
def execVisub (o : V3) (s : State) : Out := vector3 s accIS o fmtIsInt (intLaneM (· - ·))

/-- VIMUL (R130). -/
def execVimul (o : V3) (s : State) : Out := vector3 s accIS o fmtIsInt (intLaneM (· * ·))

/-- VSHL (R130). -/
def execVshl (o : V3) (s : State) : Out := vector3 s accNone o fmtIsInt (fun _ t => shlLane t)

/-- VSHR (R130). -/
def execVshr (o : V3) (s : State) : Out := vector3 s accNone o fmtIsInt (fun _ t => shrLane t)

/-- VSAR (R130). -/
def execVsar (o : V3) (s : State) : Out := vector3 s accNone o fmtIsInt (fun _ t => sarLane t)

/-- VIMIN (R130). -/
def execVimin (o : V3) (s : State) : Out := vector3 s accNone o fmtIsInt (fun _ t => intLane t false intMinOp)

/-- VIMAX (R130). -/
def execVimax (o : V3) (s : State) : Out := vector3 s accNone o fmtIsInt (fun _ t => intLane t false intMaxOp)

/-- VAND (R131). -/
def execVand (o : V3) (s : State) : Out := vector3 s accNone o notE2 (bitLane (fun a b => a &&& b))

/-- VOR (R131). -/
def execVor (o : V3) (s : State) : Out := vector3 s accNone o notE2 (bitLane (fun a b => a ||| b))

/-- VXOR (R131). -/
def execVxor (o : V3) (s : State) : Out := vector3 s accNone o notE2 (bitLane (fun a b => a ^^^ b))

/-- VCMP (R132). -/
def execVcmp (o : VCmp) (s : State) : Out := vcompare s o isFp

/-- VICMP (R132). -/
def execVicmp (o : VCmp) (s : State) : Out := vcompare s o icmpTag

/-- VFMA reads d, which carries the same tag (R128). -/
def execVfma (o : V3) (s : State) : Out :=
  conclude s (vgate s ⟨accF2, o.g, none, fun _ => [.v o.a o.ta, .v o.b o.tb, .v o.d false],
      fun x => tagBad x isFp o.a || tagBad x isFp o.b || tagBad x isFp o.d || tagsDiffer x o.a o.b || tagsDiffer x o.a o.d
        || tagsDiffer x o.b o.d,
      fun x => fmtOfV x o.a, o.d, false⟩
    fun x g t =>
      match floatOf t with
      | none => .ok s
      | some ff =>
        let rs := (((x.getV o.a).lanes t).zip (((x.getV o.b).lanes t).zip ((x.getV o.d).lanes t))).map (fun l =>
          arithFma ff (modsOf x.pfx) (rmodeOf x) l.1 l.2.1 l.2.2)
        .ok (setVF s o.d (writeComputed g t rs (x.getV o.d))))

/-- VNZ (R133). -/
def execVnz (o : VNzO) (s : State) : Out :=
  conclude s (gate s (formV o.g [.v o.a o.ta] [] (fun x => tagBad x (fun f => fmtLanes f ≤ 64) o.a)) fun x =>
    let t := fmtOfV x o.a
    .ok (s.setMe (x.setK o.k
      (guardOfLanes (enabled (guardWord x o.g) t) (((x.getV o.a).lanes t).map (laneNonZero t))))))

/-- VMOV copies bits; a whole copy takes a's side word, a partial one leaves d's (R134). -/
def execVmov (o : V2) (s : State) : Out :=
  conclude s (vgate s ⟨accNone, o.g, none, fun _ => [.v o.a o.ta], fun x => tagBad x anyFmt o.a, fun x => fmtOfV x o.a, o.d,
      false⟩
    fun x g t =>
      let a := x.getV o.a
      let r := writeLanes g t (a.lanes t) (x.getV o.d)
      .ok (s.setMe (x.setV o.d { r with side := if allOn g t then a.side else (x.getV o.d).side })))

/-- VBCAST (R135). -/
def execVbcast (o : VSF) (s : State) : Out :=
  conclude s (vgate s ⟨accNone, o.g, some o.f, fun _ => [.s o.a o.ta], anyTag, fun _ => o.f, o.d, false⟩
    fun x g t =>
      .ok (s.setMe (x.setV o.d (writeLanes g t (List.replicate (fmtLanes t) ((x.getS o.a).toNat % 2 ^ fmtBits t))
        (x.getV o.d)))))

/-- VEXTR obeys bit 0 of its guard and is a producer (R136). -/
def execVextr (o : VEx) (s : State) : Out :=
  conclude s (gate s ⟨accNone, o.g, true, false, 0, [.v o.a o.ta, .s o.b o.tb], [.s o.d],
      fun x => tagBad x notE2 o.a⟩ fun x =>
    let t := fmtOfV x o.a
    let n := (x.getS o.b).toNat % fmtLanes t
    .ok (produceWord s o.d (extractLane t (laneAt (fmtBits t) (x.getV o.a).bits.toNat n))))

/-- VINS writes one lane of d when it is enabled; tag and side word stay (R137). -/
def execVins (o : VIn) (s : State) : Out :=
  let x := s.me
  conclude s
    (if groupBad x.pfx accNone then trapFree s .illegal
    else if !x.fullK o.g.slot then block s
    else if guardWord x o.g == 0 then .ok s
    else
      gate s ⟨accNone, o.g, false, false, 0, [.s o.a o.ta, .s o.b o.tb, .v o.d false], [],
        fun x => tagBad x notE2 o.d⟩ fun x =>
      let t := fmtOfV x o.d
      let n := (x.getS o.b).toNat % fmtLanes t
      if laneOn (guardWord x o.g) (fmtLanes t) n then
        let old := x.getV o.d
        let new := ((old.lanes t).zip (List.range (fmtLanes t))).map (fun l =>
          if l.2 == n then (x.getS o.a).toNat % 2 ^ fmtBits t else l.1)
        .ok (s.setMe (x.setV o.d { old with bits := BitVec.ofNat 1024 (packLanes (fmtBits t) new) }))
      else .ok s)

/-- VPERM (R138). -/
def execVperm (o : V3) (s : State) : Out :=
  conclude s (vgate s ⟨accNone, o.g, none, fun _ => [.v o.a o.ta, .v o.b o.tb],
      fun x => tagBad x notE2 o.a || tagBad x fmtIsInt o.b
        || (x.fullV o.a && x.fullV o.b && !permTagOk (fmtOfV x o.a) (fmtOfV x o.b)),
      fun x => fmtOfV x o.a, o.d, false⟩
    fun x g t =>
      .ok (s.setMe (x.setV o.d (writeLanes g t (permLanes t (x.getV o.a) ((x.getV o.b).lanes (fmtOfV x o.b))) (x.getV o.d)))))

/-- The registers that VSLIDE reads, by the sign of its count (R139). -/
def slideSrcs (x : Ctx) (o : VSl) : List VNum :=
  if x.fullS o.b then
    let k := (x.getS o.b).toInt
    if k > 0 then [o.a, o.a + 1] else if k < 0 then [o.a - 1, o.a] else [o.a]
  else [o.a]

/-- VSLIDE (R139). -/
def execVslide (o : VSl) (s : State) : Out :=
  conclude s (vgate s ⟨accNone, o.g, none,
      fun x => .s o.b o.tb :: (slideSrcs x o).map (fun v => .v v o.ta),
      fun x => (slideSrcs x o).any (fun v => tagBad x notE2 v || tagsDiffer x v o.a || (slideSrcs x o).any (tagsDiffer x v)),
      fun x => fmtOfV x o.a, o.d, false⟩
    fun x g t =>
      .ok (s.setMe (x.setV o.d (writeLanes g t
        (slideLanes t (x.getS o.b).toInt (x.getV (o.a - 1)) (x.getV o.a) (x.getV (o.a + 1))) (x.getV o.d)))))

/-- VSEL takes the guard as its selector and writes every lane (R140). -/
def execVsel (o : V3) (s : State) : Out :=
  conclude s (vgate s ⟨accNone, o.g, none, fun _ => [.v o.a o.ta, .v o.b o.tb],
      fun x => tagBad x notE2 o.a || tagBad x notE2 o.b || tagsDiffer x o.a o.b, fun x => fmtOfV x o.a, o.d, true⟩
    fun x g t =>
      let new := mergeLanes (enabled g t) ((x.getV o.a).lanes t) ((x.getV o.b).lanes t)
      .ok (s.setMe (x.setV o.d ⟨BitVec.ofNat 1024 (packLanes (fmtBits t) new), BitVec.ofNat 4 t.code, 0⟩)))

/-- VCOMP writes every lane (R141, log 31). -/
def execVcomp (o : V2) (s : State) : Out :=
  conclude s (vgate s ⟨accNone, o.g, none, fun _ => [.v o.a o.ta], fun x => tagBad x notE2 o.a, fun x => fmtOfV x o.a, o.d,
      true⟩
    fun x g t =>
      let new := compLanes (enabled g t) ((x.getV o.a).lanes t)
      .ok (s.setMe (x.setV o.d ⟨BitVec.ofNat 1024 (packLanes (fmtBits t) new), BitVec.ofNat 4 t.code, 0⟩)))

/-- VEXPD (R127, R141): d is read with the wait policy. -/
def execVexpd (o : V2) (s : State) : Out :=
  conclude s (vgate s ⟨accNone, o.g, none, fun _ => [.v o.a o.ta, .v o.d false], fun x => tagBad x notE2 o.a,
      fun x => fmtOfV x o.a, o.d, false⟩
    fun x g t =>
      .ok (s.setMe (x.setV o.d (writeLanes g t (expdLanes (enabled g t) ((x.getV o.a).lanes t)) (x.getV o.d)))))

/-- VIOTA (R142). -/
def execViota (o : VF) (s : State) : Out :=
  conclude s (vgate s ⟨accNone, o.g, some o.f, fun _ => [], anyTag, fun _ => o.f, o.d, false⟩
    fun x g t =>
      .ok (s.setMe (x.setV o.d (writeLanes g t ((List.range (fmtLanes t)).map (iotaLane t)) (x.getV o.d)))))

/-- VZERO; with E2M1X each whole block gets the side pair of a zero block (R143). -/
def execVzero (o : VF) (s : State) : Out :=
  conclude s (vgate s ⟨accNone, o.g, some o.f, fun _ => [], anyTag, fun _ => o.f, o.d, false⟩
    fun x g t =>
      let old := x.getV o.d
      let r := writeLanes g t (List.replicate (fmtLanes t) 0) old
      .ok (s.setMe (x.setV o.d (if t == .e2m1x then { r with side := zeroSide g old.side } else r))))

/-- VTAG changes the tag only (R144). -/
def execVtag (o : VF) (s : State) : Out :=
  conclude s (gate s ⟨accNone, o.g, true, false, 0, [.v o.d false], [], anyTag⟩ fun x =>
    .ok (s.setMe (x.setV o.d { x.getV o.d with tag := BitVec.ofNat 4 o.f.code })))

/-- VSIDE.get (R145). -/
def execVsideGet (o : SV) (s : State) : Out :=
  conclude s (gate s ⟨accNone, o.g, true, false, 0, [.v o.a o.ta], [.s o.d], anyTag⟩ fun x =>
    .ok (produceWord s o.d (x.getV o.a).side))

/-- VSIDE.set (R145). -/
def execVsideSet (o : VS) (s : State) : Out :=
  conclude s (gate s ⟨accNone, o.g, true, false, 0, [.s o.a o.ta, .v o.d false], [], anyTag⟩ fun x =>
    .ok (s.setMe (x.setV o.d { x.getV o.d with side := x.getS o.a })))

/-- VRSUM (R146). -/
def execVrsum (o : SV) (s : State) : Out := reduce1 s o rsumFloat rsumInt

/-- VRMAX (R146). -/
def execVrmax (o : SV) (s : State) : Out := reduce1 s o (fun f g a => (rextFloat true f g a, 0)) (rextInt true)

/-- VRMIN (R146). -/
def execVrmin (o : SV) (s : State) : Out := reduce1 s o (fun f g a => (rextFloat false f g a, 0)) (rextInt false)

/-- VDOT (R146). -/
def execVdot (o : SV2) (s : State) : Out :=
  conclude s (gate s (formV o.g [.v o.a o.ta, .v o.b o.tb] [.s o.d]
      (fun x => tagBad x reduceTag o.a || tagBad x reduceTag o.b || tagsDiffer x o.a o.b)) fun x =>
    let t := fmtOfV x o.a
    let g := guardWord x o.g
    if isFp t then
      let r := rdotFloat t g (x.getV o.a) (x.getV o.b)
      .ok (produceWord (s.setMe (x.addFlags r.2)) o.d (BitVec.ofNat 64 r.1))
    else .ok (produceWord s o.d (BitVec.ofNat 64 (rdotInt t g (x.getV o.a) (x.getV o.b)))))

/-- VCVT, group F1 (R147). -/
def execVcvt (o : VCv) (s : State) : Out :=
  conclude s (vgate s ⟨accF1, o.g, some o.f, fun _ => [.v o.a o.ta], fun x => tagBad x notE2 o.a, fun _ => o.f, o.d, false⟩
    fun x g t =>
      .ok (setVF s o.d (writeComputed g t (cvtLanes (fmtOfV x o.a) t (modsOf x.pfx) (rmodeOf x) (x.getV o.a)) (x.getV o.d))))

/-- The sources of VPACK whose block is enabled (R148). -/
def packSrcs (x : Ctx) (o : V2) : List VNum :=
  ((List.range 4).filter (blockOn (guardWord x o.g))).map (fun b => o.a + BitVec.ofNat 5 b)

/-- Does VPACK leave a block, so that its destination is read with the wait policy (R124, R127)? -/
def packPartial (x : Ctx) (o : V2) : Bool := !(List.range 4).all (blockOn (guardWord x o.g))

/-- VPACK (R148). A block that is left needs d to carry E2M1X already. -/
def execVpack (o : V2) (s : State) : Out :=
  conclude s (vgate s ⟨accNone, o.g, some .e2m1x,
      fun x => (packSrcs x o).map (fun v => .v v o.ta) ++ (if packPartial x o then [.v o.d false] else []),
      fun x => (packSrcs x o).any (tagBad x (fun f => f == .bf16)), fun _ => .e2m1x, o.d, true⟩
    fun x g _ =>
      let old := x.getV o.d
      let r := packRegs g (fun b => x.getV (o.a + BitVec.ofNat 5 b)) old
      if !packPartial x o || old.tag == 12 then .ok (setVF s o.d r) else formatTrap s)

/-- VUNPK writes up to four registers, all from a's old value (R149). -/
def execVunpk (o : V2) (s : State) : Out :=
  let x := s.me
  conclude s
    (if groupBad x.pfx accNone then trapFree s .illegal
    else if !x.fullK o.g.slot then block s
    else if guardWord x o.g == 0 then .ok s
    else
      let bs := (List.range 4).filter (blockOn (guardWord x o.g))
      gate s ⟨accNone, o.g, false, false, 0, [.v o.a o.ta], bs.map (fun b => .v (o.d + BitVec.ofNat 5 b)),
        fun x => tagBad x (fun f => f == .e2m1x) o.a⟩ fun x =>
      let a := x.getV o.a
      .ok (s.setMe (bs.foldl (fun y b =>
        let r := unpackBlock a b
        (y.setV (o.d + BitVec.ofNat 5 b) r.1).addFlags r.2) x)))

end Sys2Proof.Machine
end

