-- ==== Sys2Proof/Machine/Memory.lean ====
section
/-!
DEFINITION. The loads and stores of R163 to R166, atomics, fences, FESET, JWAIT and PREF (R168 to R171, R177, R178), and the
events of loads and of the store buffer (R92, R157, R358, R389).
-/
namespace Sys2Proof.Machine

/-! ### Scalar loads and stores (R163) -/

/-- Address of an M-format access. -/
def memAddr (x : Ctx) (a : SReg) (disp : BitVec 10) (size : Nat) : Nat :=
  (x.getS a + dispOf 10 disp.toNat size x.pfx).toNat

/-- A scalar load of n bytes. -/
def scalarLoad (s : State) (o : MOp) (n : Nat) (signed : Bool) : Out :=
  conclude s (gate s (formG s accXG [waits o.a] [.s o.d]) fun x =>
    let a := memAddr x o.a o.disp n
    match checkAccess (coreOfCtx s.cur) a n n o.q.toNat with
    | some f => accessTrap s f
    | none => issueLoad s o.q.toNat ((span a n).zip (List.range n)) (List.replicate n 0) (.scalar o.d n signed))

/-- A scalar store of n bytes. -/
def scalarStore (s : State) (o : MOp) (n : Nat) : Out :=
  conclude s (gate s (formG s accXG [waits o.a, waits o.d] []) fun x =>
    let a := memAddr x o.a o.disp n
    match checkAccess (coreOfCtx s.cur) a n n o.q.toNat with
    | some f => accessTrap s f
    | none => issueStore s o.q.toNat .whole ((span a n).zip (leBytes n (x.getS o.d).toNat)))

def execLdb (o : MOp) (s : State) : Out := scalarLoad s o 1 true
def execLdh (o : MOp) (s : State) : Out := scalarLoad s o 2 true
def execLdw (o : MOp) (s : State) : Out := scalarLoad s o 4 true
def execLdd (o : MOp) (s : State) : Out := scalarLoad s o 8 false
def execLdbn (o : MOp) (s : State) : Out := scalarLoad s o 1 false
def execLdhn (o : MOp) (s : State) : Out := scalarLoad s o 2 false
def execLdwn (o : MOp) (s : State) : Out := scalarLoad s o 4 false
def execStb (o : MOp) (s : State) : Out := scalarStore s o 1
def execSth (o : MOp) (s : State) : Out := scalarStore s o 2
def execStw (o : MOp) (s : State) : Out := scalarStore s o 4
def execStd (o : MOp) (s : State) : Out := scalarStore s o 8

/-- PREF changes nothing a program can see (R178). -/
def execPref (o : MPref) (s : State) : Out :=
  conclude s (gate s (formG s accXG [waits o.a] []) fun _ => .ok s)

/-! ### Vector loads and stores (R164) -/

/-- The bytes of the register that belong to enabled lanes (R123). -/
def enabledBytes (g : Word) (f : Fmt) : List Nat :=
  (List.range 128).filter (fun j => laneOn g (fmtLanes f) (j * 8 / fmtBits f))

/-- The gate of a store under a lane guard: no lane enabled does nothing and waits for nothing more (R124, log 33). -/
def storeGate (s : State) (acc : Accept) (f : Fmt) (srcs : List Src) (badTag : Ctx → Bool) (body : Ctx → Word → Verdict) :
    Verdict :=
  let x := s.me
  let g := modGuard x.pfx
  if groupBad x.pfx acc then trapFree s .illegal
  else if !x.fullK g.slot then block s
  else if !anyOn (guardWord x g) f then .ok s
  else gate s ⟨acc, g, false, false, 0, srcs, [], badTag⟩ fun x => body x (guardWord x g)

/-- R152 for a vector access: alignment first, then the window of its enabled bytes. -/
def checkVector (core a : Nat) (js : List Nat) (q : Nat) : Option AFault :=
  if a % 16 != 0 then some (addressFault a)
  else
    let lo := a + js.headD 0
    let hi := a + js.getLastD 0
    checkAccess core lo (hi + 1 - lo) 1 q

def vecAddr (x : Ctx) (o : VMem) : Nat := (x.getS o.a + dispOf 6 o.disp.toNat 128 x.pfx).toNat

/-- LDV (R164). -/
def execLdv (o : VMem) (s : State) : Out :=
  conclude s (vgate s ⟨accXG, modGuard s.me.pfx, some o.f, fun _ => [waits o.a], anyTag, fun _ => o.f, o.v, false⟩
    fun x g f =>
      let a := vecAddr x o
      let js := enabledBytes g f
      match checkVector (coreOfCtx s.cur) a js o.q.toNat with
      | some e => accessTrap s e
      | none => issueLoad s o.q.toNat (js.map (fun j => (a + j, j))) (List.replicate 128 0) (.vector o.v f g (f == .e2m1x)))

/-- STV (R164). -/
def execStv (o : VMem) (s : State) : Out :=
  conclude s (storeGate s accXG o.f [waits o.a, .v o.v false]
    (fun x => tagBad x (fun t => t == o.f) o.v) fun x g =>
      let a := vecAddr x o
      let js := enabledBytes g o.f
      match checkVector (coreOfCtx s.cur) a js o.q.toNat with
      | some e => accessTrap s e
      | none =>
        let bs := leBytes 128 (x.getV o.v).bits.toNat
        issueStore s o.q.toNat .whole (js.map (fun j => (a + j, bs.getD j 0))))

/-! ### Indexed loads and stores (R166) -/

/-- The format of an element size. -/
def indexFmt (sz : BitVec 2) : Fmt :=
  match sz.toNat with | 0 => .n8 | 1 => .n16 | 2 => .n32 | _ => .i64

/-- The offsets register's format. -/
def offsetFmt (o16 : Bool) : Fmt := if o16 then .n16 else .n8

/-- Enabled elements that have an offset: index and address. -/
def indexAddrs (x : Ctx) (o : XMem) (g : Word) : List (Nat × Nat) :=
  let L := fmtLanes (indexFmt o.sz)
  let offs := (x.getV o.b).lanes (offsetFmt o.o16)
  ((List.range L).filter (fun i => laneOn g L i && i < offs.length)).map (fun i =>
    (i, (x.getS o.a + BitVec.ofNat 64 (offs.getD i 0 * 2 ^ o.sz.toNat)).toNat))

/-- The fault of an indexed access: each element's window by R152, each byte's page by R242; the lowest failing one counts
(R165). -/
def indexFault (s : State) (k : AKind) (n q : Nat) (es : List Nat) : Option AFault :=
  let core := coreOfCtx s.cur
  let bad (a : Nat) : Bool := (checkAccess core a n 1 q).isSome
  match es.filter bad with
  | [] => none
  | b :: bs =>
    let m := bs.foldl min b
    match placeAll s (meWho s) k true ((es.filter (fun a => !bad a)).flatMap (fun a => span a n)) with
    | .error f => if f.faddr < m then some f else some (addressFault m)
    | .ok _ => some (addressFault m)

/-- LDX (R166). -/
def execLdx (o : XMem) (s : State) : Out :=
  conclude s (vgate s ⟨accG, modGuard s.me.pfx, some (indexFmt o.sz), fun _ => [waits o.a, .v o.b false],
      fun x => tagBad x (fun t => t == offsetFmt o.o16) o.b, fun _ => indexFmt o.sz, o.v, false⟩
    fun x g f =>
      let n := 2 ^ o.sz.toNat
      let es := indexAddrs x o g
      match indexFault s .read n o.q.toNat (es.map Prod.snd) with
      | some e => accessTrap s e
      | none =>
        issueLoad s o.q.toNat (es.flatMap (fun e => (List.range n).map (fun j => (e.2 + j, e.1 * n + j))))
          (List.replicate 128 0) (.vector o.v f g false))

/-- STX (R166). -/
def execStx (o : XMem) (s : State) : Out :=
  conclude s (storeGate s accG (indexFmt o.sz) [waits o.a, .v o.b false, .v o.v false]
    (fun x => tagBad x (fun t => t == offsetFmt o.o16) o.b || tagBad x (fun t => fmtBits t == 8 * 2 ^ o.sz.toNat) o.v)
    fun x g =>
      let n := 2 ^ o.sz.toNat
      let es := indexAddrs x o g
      match indexFault s .write n o.q.toNat (es.map Prod.snd) with
      | some e => accessTrap s e
      | none =>
        let bs := leBytes 128 (x.getV o.v).bits.toNat
        issueStore s o.q.toNat (.each n)
          (es.flatMap (fun e => (List.range n).map (fun j => (e.2 + j, bs.getD (e.1 * n + j) 0)))))

/-! ### Atomics (R168, R169) -/

/-- What an atomic does with the old word: the new word, or `none` for a CAS that fails; and how a peer is asked. -/
structure Rmw where
  f : Nat → Option Nat
  cas : Bool
  opw : Word
  cmpw : Word

/-- An ATOM or CAS of n bytes at address a into d (R168, R169, R247, R359, R389). -/
def issueRmw (s : State) (d : SReg) (a n : Nat) (r : Rmw) : Verdict :=
  let c := s.cur
  let w := meWho s
  let as := span a n
  let dst : LoadDst := .scalar d n false
  let writes := placeAll s w .write true as
  match (if r.cas then placeAll s w .read true as else writes) with
  | .error f => accessTrap (noteAll s w as) f
  | .ok ps =>
    let s := noteAll s w as
    let ls := ps.map (fun p => p.loc)
    let s := drainTouching (drainCtx s c) w.core ls
    if ls.any (heldAt s) || ps.any (ownWriteOut s c) || holdsFor s c then .wait s
    else
      match strongBefore s c ps with
      | (s, true) => .wait s
      | (s, false) =>
        let p := pierOfCore w.core
        let finish (s : State) : Verdict := .ok (if ps.any (fun q => q.strong) then setFencing s c true else s)
        match ls with
        | .there t pa _ :: _ =>
          let s := dropLines s (deckOfPier p) (fun l => l.target == t && l.pa == pa / 64 * 64 && l.pier == p)
          (match writes with
          | .ok _ =>
            let uid := s.nextUid
            let va := (ps.map (fun q => q.va)).getD 0 a
            let s := sendRemote s t (if r.cas then .cas else .atom) pa n [] r.opw r.cmpw (.load c) va none
            finish (produce s ⟨dst, List.replicate n 0, [(uid, 0, 0, n)], none, s.me.pc⟩)
          | .error f =>
            match ctxRead s c w .read true as with
            | .fault s e => accessTrap s e
            | .wait s => .wait s
            | .ok s bs =>
              if (r.f (leNat bs)).isSome then accessTrap s f
              else finish (produce s ⟨dst, bs, [], none, s.me.pc⟩))
        | _ =>
          if ls.any (fun l => match l with | .here pa => (inTransfer s pa).isSome | _ => false) then .wait s
          else
            match poisonAddr s ps as with
            | some b => finish (produce (countPoison s ps) ⟨dst, List.replicate n 0, [], some (BitVec.ofNat 64 b), s.me.pc⟩)
            | none =>
              let will := (r.f (leNat (ls.map (readHere s)))).isSome
              match trackFetch s c p w.vd ps with
              | (s, true) => .wait s
              | (s, false) =>
              match writes, tallyBytes s c w.vd .whole (ps.map (fun q => (q, (0 : Byte)))) with
              | .error f, _ => if will then accessTrap s f else
                  finish (produce (countPlaced s w.vd ps) ⟨dst, ls.map (readHere s), [], none, s.me.pc⟩)
              | .ok _, .error f => if will then accessTrap s f else
                  finish (produce (countPlaced s w.vd ps) ⟨dst, ls.map (readHere s), [], none, s.me.pc⟩)
              | .ok _, .ok bs =>
                let hdr := (bs.filterMap (fun b => b.hdr)).head?
                let q := rmwHere s w.vd (jobOfCtx s c) p as ls hdr r.f
                finish (produce (countPlaced q.1 w.vd ps) ⟨dst, leBytes n q.2, [], none, s.me.pc⟩)

/-- Size of an atomic. -/
def atomSize (w32 : Bool) : Nat := if w32 then 4 else 8

/-- ATOM (R168, R289). -/
def execAtom (o : EAtom) (s : State) : Out :=
  conclude s (gate s (formG s accG [waits o.a, waits o.b] [.s o.d]) fun x =>
    impure s <|
    let n := atomSize o.w32
    let a := (x.getS o.a).toNat
    let b := (x.getS o.b).toNat % 2 ^ (8 * n)
    match checkAccess (coreOfCtx s.cur) a n n 0 with
    | some f => accessTrap s f
    | none => issueRmw s o.d a n ⟨fun old => some (atomNew o.op (8 * n) old b), false, BitVec.ofNat 64 b,
        BitVec.ofNat 64 o.op.code⟩)

/-- CAS (R169, R289). -/
def execCas (o : ECas) (s : State) : Out :=
  conclude s (gate s (formG s accG [waits o.a, waits o.b, waits o.d] []) fun x =>
    impure s <|
    let n := atomSize o.w32
    let a := (x.getS o.a).toNat
    let b := (x.getS o.b).toNat % 2 ^ (8 * n)
    let d := (x.getS o.d).toNat % 2 ^ (8 * n)
    match checkAccess (coreOfCtx s.cur) a n n 0 with
    | some f => accessTrap s f
    | none => issueRmw s o.d a n ⟨fun old => if old == d then some b else none, true, BitVec.ofNat 64 d,
        BitVec.ofNat 64 b⟩)

/-! ### FENCE and FESET (R170, R171) -/

/-- A point that reports unknown outcomes and slice faults must wait: remote accesses, and counter operations that count as
remote atomics (R345, R386). -/
def outcomesDue (s : State) (c : Nat) : Bool := remoteOf s c || onWay s c

/-- The fault that a FENCE or END reports: FABRIC_UNKNOWN first, then the oldest slice fault (R345, R386), with the state in
which it counts as reported. -/
def reportDue (s : State) (c : Nat) : Option (Cause × Word × State) :=
  let x := s.ctx c
  match x.unknown with
  | some a => some (.fabricUnknown, a, taint (s.setCtx c { x with unknown := none }) x.vd x.record)
  | none =>
    match s.sliceFaults.find? (sliceOf x c) with
    | some f => some (f.cause, f.faddr, { s with sliceFaults := s.sliceFaults.erase f })
    | none => none

/-- FENCE (R170, R247, R254, R361, R366, R369). A fence waits for the context's loads in flight and its remote accesses at
every scope; a release of PIER scope or wider drains the store buffer; an acquire of FABRIC scope drops the pier's CACHE
lines. -/
def execFence (o : EFence) (s : State) : Out :=
  conclude s (gate s (formG s accG [] []) fun _ =>
    let c := s.cur
    let s := if o.kind != .acquire && o.scope != .core then drainCtx s c else s
    if !s.me.loads.isEmpty || outcomesDue s c then .wait s
    else
      let p := pierOfCtx c
      let s := if o.kind != .release && o.scope == .fabric then
          dropLines s (deckOfPier p) (fun l => l.pier == p) else s
      match reportDue s c with
      | some (cause, a, s) => .trapNext s cause 0 a
      | none => .ok s)

/-- FESET (R171): one entry of the store buffer; entries that touch its granules leave first (R359). -/
def execFeset (o : EFeset) (s : State) : Out :=
  conclude s (gate s (formG s accG [waits o.a, waits o.b] []) fun x =>
    let a := (x.getS o.a).toNat
    let b := (x.getS o.b).toNat
    let core := coreOfCtx s.cur
    if b > 1024 then trapFree s .illegal
    else if b == 0 then .ok s
    else if a % 16 != 0 || !inSpad core a (16 * b) then accessTrap s (addressFault a)
    else
      let p := spadPlace core a
      let s := drainTouching s core ((List.range (16 * b)).map (fun i => Loc.spad p.1 (p.2 + i)))
      match enterEntries s core [⟨s.cur, [], [], false, some (p.1, p.2 / 16, b, o.v), [], [], false⟩] false with
      | some s => .ok s
      | none => .wait s)

/-! ### JWAIT (R177) -/

/-- Forget a job whose flags and ERROR the unit has taken. -/
def forgetJob (s : State) (p id : Nat) : State :=
  let x := s.pier p
  s.setPier p { x with jobs := x.jobs.filter (fun j => j.id != id) }

/-- JWAIT: flags and ERROR of the job (R65, R382). -/
def execJwait (o : EA) (s : State) : Out :=
  conclude s (gate s (formG s accG [waits o.a] []) fun x =>
    let id := (x.getS o.a).toNat % 65536
    let p := pierOfCtx s.cur
    match (s.pier p).jobs.find? (fun j => j.id == id && jobOf x s.cur j) with
    | none => .ok s
    | some j =>
      if !j.status.final then block s
      else
        let s := (forgetJob s p id).setMe (x.addFlags j.flags)
        if j.status == .error && !j.reported then .trapNext s j.cause 0 j.faddr else .ok s)

/-! ### Events of loads and the store buffer -/

/-- The value that a completed load gives its register (R163, R164, R166). -/
def landLoad (x : Ctx) (p : PendLoad) : Ctx :=
  match p.dst with
  | .scalar d n signed =>
    let v := leNat (p.bytes.take n)
    x.setS d (if signed then BitVec.ofInt 64 (intOfBits true (8 * n) v) else BitVec.ofNat 64 v)
  | .word d => x.setS d (BitVec.ofNat 64 (leNat p.bytes))
  | .vector d f g _ =>
    x.setV d (writeLanes g f (lanesOf (fmtBits f) (fmtLanes f) (leNat p.bytes)) (x.getV d))

/-- The destination of a load whose data is poisoned: full and zero (R389). -/
def landZero (x : Ctx) (p : PendLoad) : Ctx :=
  match p.dst with
  | .scalar d _ _ => x.setS d 0
  | .word d => x.setS d 0
  | .vector d f _ _ => x.setV d (writeLanes (BitVec.allOnes 64) f (lanesOf (fmtBits f) (fmtLanes f) 0) (x.getV d))

/-- A load's MEMERR in context c (R389), at the next boundary: a unit that is being parked or waits for the pager stops for it instead; beside
another fault it is a notice (log 34). -/
def takeMemerr (s : State) (c : Nat) (a : Word) (fpc : Nat) : State :=
  let x := s.ctx c
  match x.stop with
  | none =>
    if atBoundary x then takeFault s c .memerr 0 a fpc x.pc [] false
    else if x.memerr.isSome then s
    else s.setCtx c { x with memerr := some (a, fpc) }
  | some st =>
    match st.kind with
    | .deliver => memerrNotice s x.vd x.jobid.toNat (pierOfCtx c) a
    | .finish => s
    | _ =>
      takeFault (s.setCtx c { x with stop := none, pageWait := false }) c .memerr 0 a fpc st.resume [] false

/-- LOAD_COMPLETE: the i-th producer in flight of context c completes, if all its bytes are there (R92). -/
def execLoadComplete (c i : Nat) (s : State) : Out :=
  let x := s.ctx c
  match x.loads[i]? with
  | none => .next s
  | some p =>
    if !p.need.isEmpty then .next s
    else
      let x := { x with loads := x.loads.eraseIdx i }
      (advanceStop (match p.memerr with
        | none => s.setCtx c (landLoad x p)
        | some a => takeMemerr (s.setCtx c (landZero x p)) c a p.fpc) c).done

/-- STORE_BUFFER_DRAIN: the oldest entry of a core leaves (R358). -/
def execStoreBufferDrain (core : Nat) (s : State) : Out :=
  ((List.range 4).foldl (fun s i => advanceStop s (core * 4 + i)) (drainOne s core)).done

end Sys2Proof.Machine
end

