-- ==== Sys2Proof/Machine/Pins.lean ====
section
/-!
DEFINITION. Stores into page tables, and pins: the leaf of an address and its place (R237 to R241), the stores of the pager and of
the fabric manager (R242, R244, R265), lease ranges with L on their pages and how many pages they cover (R256, R261, R263), and
the units that wait for the pager (R264, R380).
-/
namespace Sys2Proof.Machine

/-! ### Leaves and their places (R237 to R241) -/

/-- The leaf of an address with the local address of its entry and its level, from a table at a level. -/
def leafAtFrom (m : Mem) (va : Nat) : Nat → Nat → Nat → Option (Nat × Nat × Nat)
  | 0, _, _ => none
  | fuel + 1, lvl, t =>
    let a := t + 8 * vaIndex va lvl
    let x := leNat (memRead m a 8)
    if !bit x 0 || pteBad x lvl then none
    else if bits x 5 4 == 0 then leafAtFrom m va fuel (lvl + 1) (bits x 55 24 * 4096)
    else some (a, x, lvl)

/-- The leaf that maps an address in a virtual device's table; none from 2^48 on (R151). -/
def leafAt (s : State) (vd va : Nat) : Option (Nat × Nat × Nat) :=
  if va < 2 ^ 48 then leafAtFrom s.mem va 4 1 (rootOf s vd) else none

/-- The entries of a table that are not zero: index and entry. -/
def tableEntries (m : Mem) (t n : Nat) : List (Nat × Nat) :=
  (((m.filter (fun c => t ≤ c.1 && c.1 < t + 8 * n)).map (fun c => (c.1 - t) / 8)).eraseDups).map (fun i =>
    (i, leNat (memRead m (t + 8 * i) 8)))

/-- Every leaf below a table: virtual base and leaf. -/
def leavesFrom (m : Mem) : Nat → Nat → Nat → Nat → List (Nat × Nat)
  | 0, _, _, _ => []
  | fuel + 1, lvl, t, base =>
    (tableEntries m t (if lvl == 4 then 32 else 512)).flatMap (fun e =>
      let va := base + e.1 * (match lvl with | 1 => 2 ^ 39 | 2 => 2 ^ 30 | 3 => 2 ^ 21 | _ => 2 ^ 16)
      if !bit e.2 0 || pteBad e.2 lvl then []
      else if bits e.2 5 4 == 0 then leavesFrom m fuel (lvl + 1) (bits e.2 55 24 * 4096) va
      else [(va, e.2)])

/-- Every leaf of a virtual device's table. -/
def allLeaves (s : State) (vd : Nat) : List (Nat × Nat) := leavesFrom s.mem 4 1 (rootOf s vd) 0

/-- The page that maps a local address: virtual device, virtual base, leaf. -/
def pageOf (s : State) (pa : Nat) : Option (Nat × Nat × Nat) :=
  s.vdevs.findSome? (fun v => ((allLeaves s v.1).find? (fun l =>
    (match leafLoc s v.1 l.2 l.1 with | .here a => a ≤ pa && pa < a + leafPages l.2 | _ => false))).map (fun l => (v.1, l.1, l.2)))

/-- The peer number that a virtual device uses for a module. -/
def peerOf (s : State) (vd pre : Nat) : Option Nat :=
  if pre == s.ownPrefix then some 0
  else ((List.range 4096).drop 1).find? (fun n => peerPrefix s vd n == some pre)

/-- Store a 64-bit word at a local address. -/
def pagerStore (s : State) (a : Nat) (w : Nat) : State := { s with mem := memWrite s.mem a (leBytes 8 w) }

/-! ### Stores of the pager and of the fabric manager (R244, R265) -/

/-- Does an address lie in a table at a level, or in one below it? Tables of level 4 have 256 bytes (R237). -/
def inTables (m : Mem) (a : Nat) : Nat → Nat → Nat → Bool
  | 0, _, _ => false
  | fuel + 1, lvl, t =>
    (t ≤ a && a < t + (if lvl == 4 then 256 else 4096))
      || (lvl < 4 && (tableEntries m t 512).any (fun e =>
        bit e.2 0 && !pteBad e.2 lvl && bits e.2 5 4 == 0 && inTables m a fuel (lvl + 1) (bits e.2 55 24 * 4096)))

/-- Does an address lie in the peer table of a virtual device (R244)? -/
def inPeerTable (v : VDev) (a : Nat) : Bool := v.peerTab ≤ a && a < v.peerTab + 32768

/-- May the pager of a virtual device store at this address? It stores to tables of its own, to tracking entries, and to frames
that no page of a virtual device has; never to a peer table or to the tables or data of another (R244, R265). -/
def pagerMay (s : State) (vd a : Nat) : Bool :=
  a % 8 == 0 && !s.vdevs.any (fun v => inPeerTable v.2 a || (v.1 != vd && inTables s.mem a 4 1 v.2.root))
    && (match pageOf s a with
      | none => true
      | some (u, base, leaf) =>
        u == vd && (match s.vdev? vd with
          | some v =>
            let va := base + a % leafPages leaf
            v.tracking ≤ va && va < v.tracking + 2 ^ 35
          | none => false))

/-- The stores of a pager action for a virtual device, in order. -/
def pagerStores (s : State) (vd : Nat) (ws : List (Nat × Word)) : State :=
  ws.foldl (fun s w => if pagerMay s vd w.1 then pagerStore s w.1 w.2.toNat else s) s

/-- Where an address is kept by the table of a virtual device. -/
def placeIn (s : State) (vd va : Nat) : Option Loc := (leafAt s vd va).map (fun l => leafLoc s vd l.2.1 va)

/-- The frames that the stores from s to t made resident are the job's from then on; a page that moved to another frame here stays its
job's (R263, R264). -/
def chargeFrames (s t : State) (vd : Nat) (job : Option Nat) : State :=
  (allLeaves t vd).foldl (fun u l =>
    match placeIn t vd l.1 with
    | some (.here pb) =>
      let put (j : Option Nat) : State :=
        { u with frameJobs := match j with | some j => kput (pb / 65536) j u.frameJobs | none => kdel (pb / 65536) u.frameJobs }
      (match placeIn s vd l.1 with
      | some (.here pa) => if pa == pb then u else put (kget? s.frameJobs (pa / 65536))
      | _ => put job)
    | _ => u) t

/-- What the pager of a virtual device stores for a job, or for none. -/
def pagerMaps (s : State) (vd : Nat) (job : Option Nat) (ws : List (Nat × Word)) : State :=
  if ws.isEmpty then s else chargeFrames s (pagerStores s vd ws) vd job

/-- May these stores be made for a virtual device outside the pager's actions? The fabric manager stores peer entries. Before the
device has a pier, firmware prepares its tables and areas where no other device has anything (R237, R244, R265). -/
def tableMay (s : State) (vd a : Nat) : Bool :=
  a % 8 == 0 &&
    (match s.vdev? vd with
    | some v => inPeerTable v a
    | none => (pageOf s a).isNone && !s.vdevs.any (fun v => inPeerTable v.2 a || inTables s.mem a 4 1 v.2.root))

/-- The fabric manager stores peer entries, or firmware prepares the tables of a virtual device. -/
def storeTables (s : State) (vd : Nat) (stores : List (Nat × Word)) : State :=
  stores.foldl (fun s w => if tableMay s vd w.1 then pagerStore s w.1 w.2.toNat else s) s

/-! ### Ranges (R261, R263) -/

/-- A lease range from its two words: ILLEGAL's conditions (R261, R267 item 1). -/
def rangeOf (w0 w1 : Nat) : Option LeaseRange :=
  let n := w1 % 2 ^ 32
  let r := bits w1 33 32
  if w0 % 65536 != 0 || w1 / 2 ^ 34 != 0 || r % 2 == 0 || n == 0 || n > 65536 then none
  else some ⟨w0, n, r == 3⟩

/-- Does a range lie in the global window? -/
def rangeInside (r : LeaseRange) : Bool := 2 ^ 40 ≤ r.base && r.base + r.pages * 65536 ≤ 2 ^ 48

def insertRange (r : LeaseRange) : List LeaseRange → List LeaseRange
  | [] => [r]
  | q :: qs => if r.base ≤ q.base then r :: q :: qs else q :: insertRange r qs

/-- How many pages ranges cover, each counted once. -/
def coverPages (rs : List LeaseRange) : Nat :=
  ((rs.foldl (fun acc r => insertRange r acc) []).foldl (fun (acc : Nat × Nat) r =>
    let lo := max acc.1 (r.base / 65536)
    let hi := max lo (r.base / 65536 + r.pages)
    (hi, acc.2 + (hi - lo))) (0, 0)).2

/-- Ranges of the launches, of the packets whose ranges are pinned, and of storage transfers (R403), that satisfy a test on
(virtual device, job); a storage transfer is of no job. -/
def pinnedRanges (s : State) (f : Nat → Nat → Bool) : List LeaseRange :=
  (s.launches.filter (fun l => f l.2.vd l.2.jobid && l.2.phase != .ended)).flatMap (fun l => l.2.leases.map Prod.snd)
    ++ (s.queues.filter (fun q => f q.2.vd q.2.jobid && q.2.pkt.isSome && q.2.info.granted)).flatMap
      (fun q => q.2.info.ranges)
    ++ (s.storage.filter (fun t => t.refused.isNone && f t.vd 0)).map (fun t => ⟨t.base / 65536 * 65536, (t.base % 65536 + t.bytes + 65535) / 65536, true⟩)
    ++ (s.leaseReqs.filter (fun r => r.ready && (match s.launch? r.launch with | some l => f l.vd l.jobid | none => false))).map
      (fun r => r.range)

def jobRanges (s : State) (job : Nat) : List LeaseRange := pinnedRanges s (fun _ j => j == job)
def vdRanges (s : State) (vd : Nat) : List LeaseRange := pinnedRanges s (fun v _ => v == vd)

/-- May ranges ever fit the quota of a job? -/
def canFit (s : State) (job : Nat) (rs : List LeaseRange) : Bool :=
  match s.job? job with
  | some j => coverPages rs ≤ j.frameQuota - 64
  | none => false

/-- Do ranges fit beside what the launches of the job have pinned? -/
def fitsNow (s : State) (job : Nat) (rs : List LeaseRange) : Bool := canFit s job (rs ++ jobRanges s job)

/-- Does a range touch one of the 64 KiB pages from `base` on? -/
def touchesPages (r : LeaseRange) (base size : Nat) : Bool := r.base < base + size && base < r.base + r.pages * 65536

/-- Is every page of a range mapped, and none on its way to another module? A page is pinned once its transfer is over: a pinned one
does not migrate (R256). -/
def resident (s : State) (vd : Nat) (r : LeaseRange) : Bool :=
  (List.range r.pages).all (fun i =>
    let va := r.base + 65536 * i
    match leafAt s vd va with
    | none => false
    | some (_, x, _) => match leafLoc s vd x va with | .here pa => (inTransfer s pa).isNone | _ => true)

/-- Set or clear L in the leaf of an address (R256). -/
def setPin (s : State) (vd va : Nat) (on : Bool) : State :=
  match leafAt s vd va with
  | none => s
  | some (a, x, _) => pagerStore s a (setBits x 12 12 (if on then 1 else 0))

/-- Pin the pages of a range. -/
def pinRange (s : State) (vd : Nat) (r : LeaseRange) : State :=
  (List.range r.pages).foldl (fun s i => setPin s vd (r.base + 65536 * i) true) s

/-! ### Units that wait for the pager (R242, R264, R380) -/

/-- The context that a unit still stands on, held for want of a frame. -/
def onContext (s : State) (vd r : Nat) : Bool := s.ctxs.any (fun x => x.2.busy && x.2.record == r && x.2.vd == vd)

/-- The cause, and the faulting address, that a unit's frame holds. -/
def frameCause (s : State) (vd r : Nat) : Nat := frameNat (readFrame s vd (recWord s vd r 1)) (0x1400 + 8 * 13) 2
def frameAddr (s : State) (vd r : Nat) : Nat := frameNat (readFrame s vd (recWord s vd r 1)) (0x1400 + 8 * 14) 8

/-- Does a unit wait for the pager? -/
def waitsPager (s : State) (vd r : Nat) : Bool :=
  recState s vd r == stFaulted && !onContext s vd r && bit (recWord s vd r 0) 59
    && [Cause.page.code, Cause.writeProtect.code, Cause.frameWait.code].contains (recCause s vd r)

/-- A lease of a job has ended: the pager has each fault of the job again that waited for a frame (R264). -/
def retryFrames (s : State) (job : Nat) : State :=
  s.places.foldl (fun s p =>
    if recCause s p.1 p.2.1 == Cause.frameWait.code && waitsPager s p.1 p.2.1 && launchJob s (recLaunch s p.1 p.2.1) == job then
      setRecCause s p.1 p.2.1 (frameCause s p.1 p.2.1)
    else s) s

/-- A range has ended: L goes from each of its pages that no lease of a launch covers any more. -/
def unpinRange (s : State) (vd : Nat) (r : LeaseRange) : State :=
  let left := vdRanges s vd
  (List.range r.pages).foldl (fun s i =>
    let va := r.base + 65536 * i
    match leafAt s vd va with
    | none => s
    | some (_, x, _) =>
      let n := leafPages x
      if left.any (fun q => touchesPages q (va / n * n) n) then s else setPin s vd va false) s

/-- The lowest range number that is free. -/
def rangeNumber (l : Launch) : Option Nat :=
  ((List.range 16).map (fun i => i + 1)).find? (fun n => !l.leases.any (fun r => r.1 == n))

end Sys2Proof.Machine
end

