-- ==== Sys2Proof/Machine/Sha.lean ====
section
/-!
DEFINITION. SHA-512 and SHA-512/256 (R284, R298). The spec names the functions; their constants are those of FIPS 180-4
(PRESUMED, log 10), given here by the way that standard derives them.
-/
namespace Sys2Proof.Machine

/-- Is a number prime, by trial division? -/
def shaPrime (n : Nat) : Bool := decide (2 ≤ n) && (List.range n).all (fun d => d < 2 || n % d != 0)

/-- The greatest r whose e-th power is at most n, found bit by bit from bit k − 1 down. -/
def shaRoot (e n : Nat) : Nat → Nat → Nat
  | 0, r => r
  | k + 1, r => shaRoot e n k (if (r + 2 ^ k) ^ e ≤ n then r + 2 ^ k else r)

/-- The first 64 bits of the fraction of the e-th root of p. -/
def shaFraction (e p : Nat) : BitVec 64 := BitVec.ofNat 64 (shaRoot e (p * 2 ^ (64 * e)) 70 0)

/-- The round constants: fractions of the cube roots of the eighty primes below 410. -/
def shaRounds : List (BitVec 64) := ((List.range 410).filter shaPrime).map (shaFraction 3)

/-- The first state of SHA-512: fractions of the square roots of the eight primes below 20. -/
def shaStart : List (BitVec 64) := ((List.range 20).filter shaPrime).map (shaFraction 2)

/-- A number from bytes, most significant first. -/
def beWord (bs : Bytes) : BitVec 64 := bs.foldl (fun w b => (w <<< 8) ||| b.setWidth 64) 0

/-- The eight bytes of a word, most significant first. -/
def beBytes (w : BitVec 64) : Bytes := (leBytes 8 w.toNat).reverse

/-- The padded message. -/
def shaPad (m : Bytes) : Bytes :=
  m ++ [0x80#8] ++ List.replicate ((239 - m.length % 128) % 128) 0 ++ (leBytes 16 (8 * m.length)).reverse

/-- The schedule, newest word first. -/
def shaExtend : Nat → List (BitVec 64) → List (BitVec 64)
  | 0, w => w
  | n + 1, w =>
    let x := w.getD 1 0
    let y := w.getD 14 0
    let s1 := x.rotateRight 19 ^^^ x.rotateRight 61 ^^^ (x >>> 6)
    let s0 := y.rotateRight 1 ^^^ y.rotateRight 8 ^^^ (y >>> 7)
    shaExtend n ((s1 + w.getD 6 0 + s0 + w.getD 15 0) :: w)

/-- One round: the eight working words, a round constant and a schedule word. -/
def shaRound (v : List (BitVec 64)) (kw : BitVec 64 × BitVec 64) : List (BitVec 64) :=
  match v with
  | [a, b, c, d, e, f, g, h] =>
    let s1 := e.rotateRight 14 ^^^ e.rotateRight 18 ^^^ e.rotateRight 41
    let ch := (e &&& f) ^^^ (~~~e &&& g)
    let t1 := h + s1 + ch + kw.1 + kw.2
    let s0 := a.rotateRight 28 ^^^ a.rotateRight 34 ^^^ a.rotateRight 39
    let mj := (a &&& b) ^^^ (a &&& c) ^^^ (b &&& c)
    [t1 + s0 + mj, a, b, c, d + t1, e, f, g]
  | _ => v

/-- The n 8-byte words at the front of a list. -/
def shaWords : Nat → Bytes → List (BitVec 64)
  | 0, _ => []
  | n + 1, bs => beWord (bs.take 8) :: shaWords n (bs.drop 8)

/-- Fold n blocks of 128 bytes. -/
def shaBlocks : Nat → Bytes → List (BitVec 64) → List (BitVec 64)
  | 0, _, h => h
  | n + 1, bs, h =>
    let w := (shaExtend 64 (shaWords 16 bs).reverse).reverse
    let v := (shaRounds.zip w).foldl shaRound h
    shaBlocks n (bs.drop 128) ((h.zip v).map (fun x => x.1 + x.2))

/-- The state after every block of the padded message. -/
def shaState (init : List (BitVec 64)) (m : Bytes) : List (BitVec 64) :=
  shaBlocks ((shaPad m).length / 128) (shaPad m) init

/-- SHA-512: 64 bytes. -/
def sha512 (m : Bytes) : Bytes := (shaState shaStart m).flatMap beBytes

/-- The ASCII text SHA-512/256, from which the standard derives the first state of that function. -/
def shaTruncName : Bytes := [0x53, 0x48, 0x41, 0x2D, 0x35, 0x31, 0x32, 0x2F, 0x32, 0x35, 0x36]

/-- The first state of SHA-512/256: the hash of its name, from the first state of SHA-512 xor 0xA5 in every byte. -/
def shaStart256 : List (BitVec 64) :=
  shaState (shaStart.map (fun w => w ^^^ BitVec.ofNat 64 (leNat (List.replicate 8 0xA5)))) shaTruncName

/-- SHA-512/256: 32 bytes. -/
def sha256of512 (m : Bytes) : Bytes := ((shaState shaStart256 m).flatMap beBytes).take 32

end Sys2Proof.Machine
end

