-- ==== Sys2Proof/Machine/Layout.lean ====
section
/-!
DEFINITION. Handles and layout records: HSET, HGET, TLD, TST (R167, R274, R292, R293), relayout with RELAYOUT, RLWAIT and
its events (R277 to R281, R294, R295), CHASH (R298) and ENTSET (R299).
-/
namespace Sys2Proof.Machine

/-! ### Reads of records -/

/-- n bytes at an address, read as a load; without the lease check for what R428 exempts. -/
def recordRead (s : State) (leased : Bool) (a n : Nat) : Got Bytes :=
  let w := meWho s
  if !oneWindow w.core a n then .fault s (addressFault a)
  else ctxRead s s.cur w .read leased (span a n)

/-- The records that the pure list of the unit's launch names. -/
def pureRecords (s : State) : List Nat :=
  match s.launch? s.me.launchid.toNat with
  | some l => l.argAddrs ++ l.resAddrs
  | none => []

/-- Control word of a bound record, read again (R274); that of a record of a pure launch's list is not checked (R428). -/
def ctlRead (s : State) (h : Handle) : Got Nat :=
  match recordRead s (!(pureRecords s).contains h.addr) (h.addr + 0x2C) 4 with
  | .fault s f => .fault s f
  | .wait s => .wait s
  | .ok s bs => .ok s (leNat bs)

/-- Go on with a value that an instruction reads for itself. -/
def got {α : Type} (g : Got α) (f : State → α → Verdict) (s : State) : Verdict :=
  match g with
  | .fault s e => accessTrap s e
  | .wait s => .wait s
  | .ok s a => f s a

/-- An unbound handle raises ADDRESS with FADDR zero. -/
def unbound (s : State) : Verdict := .trap s .address 0 false

/-- The gate of E-format words. -/
def gateE (s : State) (srcs : List Src) (dsts : List Dst) (body : Ctx → Verdict) : Verdict :=
  gate s ⟨accG, modGuard s.me.pfx, true, false, 0, srcs, dsts, anyTag⟩ body

/-- PRIVILEGE below a level, after ILLEGAL for an operand value (R80, R86). -/
def atLevel (s : State) (n : Nat) (v : Verdict) : Verdict := if s.me.level < n then trapFree s .privilege else v

/-! ### HSET, HGET (R292, R293, R428) -/

/-- Bind or unbind a handle of the executing context. -/
def setHandle (s : State) (h : HReg) (b : Option Handle) : State :=
  let x := s.me
  s.setMe { x with h := match b with | some v => kput h.toNat v x.h | none => kdel h.toNat x.h }

/-- HSET. A pure unit's HSET of a record that its launch does not name raises PURITY with the record's address, the first failing
byte (R379, R428). -/
def execHset (o : EHset) (s : State) : Out :=
  conclude s (gateE s [waits o.a, waits o.b] [] fun x =>
    let a := (x.getS o.a).toNat
    let b := (x.getS o.b).toNat
    if b / 2 != 0 then trapFree s .illegal
    else if a == 0 then .ok (setHandle s o.h none)
    else if a % 64 != 0 then accessTrap s (addressFault a)
    else if x.pure && !(pureRecords s).contains a then .trap s .purity (BitVec.ofNat 64 a) false
    else
      got (recordRead s (!(pureRecords s).contains a) a 64) (fun s bs =>
        if recordOk bs then .ok (setHandle s o.h (some ⟨a, bit b 0, bs⟩)) else .trap s .illegal (BitVec.ofNat 64 a) false) s)

/-- What HGET gives for the selectors it answers from the copy. -/
def handleField (h : Handle) (n : Nat) : Nat :=
  match n with
  | 0 => lBase h.copy
  | 1 => lShadow h.copy
  | 3 => lFill h.copy
  | 4 => lSide h.copy
  | 12 => lTiles h.copy
  | 13 => h.addr
  | _ => lDim h.copy (n - 5)

def execHget (o : EHget) (s : State) : Out :=
  conclude s (gateE s [waits o.b] [.s o.d] fun x =>
    let n := (x.getS o.b).toNat
    if n > 13 then trapFree s .illegal
    else
      match x.handle? o.h with
      | none => if n == 13 then .ok (setD s o.d 0) else unbound s
      | some h =>
        if n == 2 then got (ctlRead s h) (fun s c => .ok (setD s o.d (BitVec.ofNat 64 c))) s
        else .ok (setD s o.d (BitVec.ofNat 64 (handleField h n))))

/-! ### TLD, TST (R167, R279) -/

/-- An enabled lane of a handle access: lane number and place, `none` outside the tensor. -/
abbrev LaneAt := Nat × Option ElemAt

/-- The enabled lanes of an access by coordinates. -/
def laneElems (h : Handle) (tag : Nat) (cs : List Int) (g : Word) : List LaneAt :=
  let L := fmtLanes (lFmt h.copy)
  let k := lRank h.copy - 1
  ((List.range L).filter (laneOn g L)).map (fun i => (i, elemAt? h.copy tag (cs.set k (cs.getD k 0 + i))))

/-- Coordinates in registers from a on. -/
def coords (x : Ctx) (a : SReg) (n : Nat) : List Int :=
  (List.range n).map (fun k => (x.getS (BitVec.ofNat 6 (a.toNat + k))).toInt)

/-- The lanes that lie inside the tensor. -/
def insideOf (ls : List LaneAt) : List (Nat × ElemAt) :=
  ls.filterMap (fun l => match l.2 with | some e => some (l.1, e) | none => none)

/-- Place of an element whose first byte stands at these addresses by the Tag read, at this module or at another. -/
def tilePlaceOf (vd : Nat) (h : Handle) (tag pa va : Nat) (far : Option Nat) (e : Nat × Nat × Nat) : TilePlace :=
  ⟨vd, h.addr, e.1, pa / 4096 * 4096, va / 4096 * 4096, lWidth h.copy, tag, e.2.1, e.2.2, far⟩

/-- The bytes of elements of tiles at this module, moved to where the caisson keeps them (R279). -/
def moveTiles (vd : Nat) (h : Handle) (tag : Nat) (es : List (Nat × ElemAt)) (s : State) (ps : List Placed) : List Placed :=
  let w := lWidth h.copy
  (es.zip (List.range es.length)).flatMap (fun x =>
    let qs := (ps.drop (x.2 * w)).take w
    match x.1.2.tile, qs with
    | some t, ⟨.here pa, _, _, _, _⟩ :: _ =>
      let a := tilePlaceAddr s (tilePlaceOf vd h tag pa x.1.2.va none t)
      (qs.zip (List.range w)).map (fun q => { q.1 with loc := .here (a + q.2) })
    | _, _ => qs)

/-- The marks of elements of tiles at other modules: their homes place them by i and j (R279). -/
def markTiles (vd : Nat) (h : Handle) (tag : Nat) (es : List (Nat × ElemAt)) (ps : List Placed) : List Word :=
  let w := lWidth h.copy
  (es.zip (List.range es.length)).flatMap (fun x =>
    match x.1.2.tile, ps[x.2 * w]? with
    | some t, some ⟨.there m pa false, _, _, _, _⟩ =>
      elemMark (tilePlaceOf vd h tag pa x.1.2.va (some m) t) :: List.replicate (w - 1) 1
    | _, _ => List.replicate w 0)

/-- A handle access to elements: the homes of their tiles place them (R279). -/
def handleAdj (vd : Nat) (h : Handle) (tag : Nat) (es : List (Nat × ElemAt)) : Adj :=
  ⟨moveTiles vd h tag es, markTiles vd h tag es⟩

/-- The place i bytes behind another. -/
def Loc.plus (l : Loc) (i : Nat) : Loc :=
  match l with
  | .spad c o => .spad c (o + i)
  | .here pa => .here (pa + i)
  | .there t pa ca => .there t (pa + i) ca

/-- The module of a place where it is not this one. -/
def Loc.far : Loc → Option Nat
  | .there t _ _ => some t
  | _ => none

/-- The address of a place within its module. -/
def Loc.pa : Loc → Nat
  | .spad _ o => o
  | .here pa => pa
  | .there _ pa _ => pa

/-- The bytes of elements in store-buffer entries, kept with their tile places: the placing happens at the home (R278, R279). -/
def keepTiles (vd : Nat) (h : Handle) (tag : Nat) (es : List (Nat × ElemAt)) (ps : List Placed) (sb : List SbEntry) :
    List SbEntry :=
  let w := lWidth h.copy
  let firsts := (es.zip (List.range es.length)).filterMap (fun x =>
    match x.1.2.tile, ps[x.2 * w]? with
    | some t, some p => some (p.loc, tilePlaceOf vd h tag p.loc.pa x.1.2.va p.loc.far t)
    | _, _ => none)
  sb.map (fun e =>
    let mine := firsts.filter (fun f => e.cells.any (fun c => c.1 == f.1))
    let stay := (e.cells.zip e.addrs).filter (fun c =>
      !mine.any (fun f => (List.range w).any (fun i => c.1.1 == f.1.plus i)))
    { e with
        cells := stay.map Prod.fst
        addrs := stay.map Prod.snd
        place := mine.map (fun f => (f.2, (List.range w).map (fun i =>
          match e.cells.find? (fun c => c.1 == f.1.plus i) with | some c => c.2 | none => 0))) })

/-- The checks that TLD and TST share before their sources: a guard without a lane, an unbound handle, coordinate registers
beyond s63. -/
def withHandle (s : State) (o : TMem) (body : Handle → Verdict) : Verdict :=
  let x := s.me
  let g := modGuard x.pfx
  if groupBad x.pfx accG then trapFree s .illegal
  else if !x.fullK g.slot then block s
  else if guardWord x g == 0 then .ok s
  else
    match x.handle? o.h with
    | none => unbound s
    | some h => if o.a.toNat + lRank h.copy > 64 then trapFree s .illegal else body h

/-- Sources that hold the coordinates. -/
def coordSrcs (o : TMem) (h : Handle) : List Src :=
  (List.range (lRank h.copy)).map (fun k => waits (BitVec.ofNat 6 (o.a.toNat + k)))

def execTld (o : TMem) (s : State) : Out :=
  conclude s (withHandle s o fun h =>
    let f := lFmt h.copy
    vgate s ⟨accG, modGuard s.me.pfx, some f, fun _ => coordSrcs o h, fun _ => f == .e2m1x, fun _ => f, o.v, false⟩
      fun x g f =>
        got (ctlRead s h) (fun s ctl =>
          let tag := ctlTag ctl
          let w := lWidth h.copy
          let ls := laneElems h tag (coords x o.a (lRank h.copy)) g
          let es := insideOf ls
          let base : Bytes := (List.replicate (fmtLanes f) (leBytes w (lFill h.copy))).flatten
          match indexFault s .read w o.q.toNat (es.map (fun e => e.2.va)) with
          | some e => accessTrap s e
          | none =>
            issueLoadBy s (handleAdj x.vd h tag es) o.q.toNat
              (es.flatMap (fun e => (List.range w).map (fun j => (e.2.va + j, e.1 * w + j)))) base (.vector o.v f g false)) s)

def execTst (o : TMem) (s : State) : Out :=
  conclude s (withHandle s o fun h =>
    let f := lFmt h.copy
    storeGate s accG f (coordSrcs o h ++ [.v o.v false]) (fun x => f == .e2m1x || tagBad x (fun t => t == f) o.v)
      fun x g =>
        if h.ro then trapFree s .writeProtect
        else
          got (ctlRead s h) (fun s ctl =>
            let tag := ctlTag ctl
            let w := lWidth h.copy
            let es := insideOf (laneElems h tag (coords x o.a (lRank h.copy)) g)
            if es.isEmpty then .ok s
            else
              match indexFault s .write w o.q.toNat (es.map (fun e => e.2.va)) with
              | some e => accessTrap s e
              | none =>
                let bs := leBytes 128 (x.getV o.v).bits.toNat
                issueStoreBy s (keepTiles x.vd h tag es) o.q.toNat .whole
                  (es.flatMap (fun e => (List.range w).map (fun j => (e.2.va + j, bs.getD (e.1 * w + j) 0))))) s)

/-! ### RELAYOUT, RLWAIT (R294, R295) -/

/-- The first byte of the extent that no range of the launch lets a unit write. -/
def extentOpen (s : State) (w : Who) (r : Bytes) : Option Nat :=
  let lo := lBase r
  let hi := lBase r + lExtent r
  ((List.range (hi / 65536 + 1 - lo / 65536)).map (fun k => max lo ((lo / 65536 + k) * 65536))).find?
    (fun a => a < hi && !leaseOk s w .write a)

/-- The agent of the caissons' and the pager's own accesses. -/
def sysAgent : Nat := 524288

/-- Who acts for the hardware of a virtual device at system level. -/
def sysWho (vd core : Nat) : Who :=
  { vd := vd, level := 3, launch := 0, strict := false, pure := false, stk := 0, core := core }

/-- The control word that RELAYOUT stores: Target, Converting, Result 0 (R294). -/
def relayoutNew (c target : Nat) : Nat := setBits (setBits (setBits c 11 10 target) 12 12 1) 14 13 0

/-- What RELAYOUT finds and does at the home (R294): d, and the new control word where there is one. -/
def relayoutStep (s : State) (c target : Nat) : Nat × Option Nat :=
  if ctlConverting c then (1, none)
  else if ctlTag c == target then (2, none)
  else if s.convs.length ≥ 16 then (3, none)
  else (0, some (relayoutNew c target))

/-- The conversion of a handle's record, whose control word was `ctl`, at a step of R280; step 0 keeps an entry for a RELAYOUT whose
CAS is at the record's module. -/
def newConv (vd target step : Nat) (h : Handle) (ctl : Nat) : Conv :=
  ⟨vd, h.addr, lBase h.copy, lShadow h.copy, lTiles h.copy, lWidth h.copy, ctlTag ctl, target, step, [], [], [], []⟩

/-- The CAS of a RELAYOUT is answered: the entry that was kept for it begins its conversion, or is given up. -/
def keptConv (s : State) (vd record : Nat) (begins : Bool) : State :=
  let mine (c : Conv) : Bool := c.vd == vd && c.record == record && c.step == 0
  match s.convs.findIdx? mine with
  | none => s
  | some i =>
    { s with convs := if begins then s.convs.modify i (fun c => { c with step := 1 }) else s.convs.eraseIdx i }

/-- The update of the control word `old` by `new` at the record's home (R294): here at once, at another module by a CAS there, for
which an entry is kept; it comes back to the read when the word is no longer `old`. -/
def relayoutUpdate (s : State) (w : Who) (h : Handle) (target old new d : Nat) (ps : List Placed) (rd : SReg) : Verdict :=
  let c := s.cur
  match ps with
  | ⟨.there t pa _, _, _, _, va⟩ :: _ =>
    (match remoteCas s c t pa va 4 old new with
    | .fault s f => accessTrap (keptConv s w.vd h.addr false) f
    | .wait s =>
      if committed s.me then .wait s
      else .wait ({ s with convs := s.convs ++ [newConv w.vd target 0 h old] }.setMe
        { s.me with reply := some [9, BitVec.ofNat 64 old] })
    | .ok s true => .ok (setD (keptConv s w.vd h.addr true) rd (BitVec.ofNat 64 d))
    | .ok s false => .wait ((keptConv s w.vd h.addr false).setMe { s.me with reply := none }))
  | _ =>
    match tallyBytes s c w.vd .whole (ps.zip (leBytes 4 new)) with
    | .error f => accessTrap s f
    | .ok xs =>
      let s := performWrite s w.vd s.me.jobid.toNat (pierOfCore w.core) (span (h.addr + 0x2C) 4) (.store c)
        (xs.map (fun y => (y.loc, y.b))) (xs.filterMap (fun y => y.hdr))
      .ok (setD { s with convs := s.convs ++ [newConv w.vd target 1 h old] } rd (BitVec.ofNat 64 d))

/-- RELAYOUT. -/
def execRelayout (o : EHget) (s : State) : Out :=
  conclude s (gateE s [waits o.b] [.s o.d] fun x =>
    let target := (x.getS o.b).toNat
    if target > 3 || target == 0 then trapFree s .illegal
    else
      impure s <|
      match x.handle? o.h with
      | none => unbound s
      | some h =>
        if ctlTag (lCtl h.copy) == 0 then trapFree s .illegal
        else
          let w := meWho s
          let c := s.cur
          let a := h.addr + 0x2C
          match (if x.strict then extentOpen s w h.copy else none), checkAccess w.core a 4 4 0, placeAll s w .write true (span a 4) with
          | some e, _, _ => .trap s .leaseViolation (BitVec.ofNat 64 e) false
          | none, some f, _ => accessTrap s f
          | none, none, .error f => accessTrap s f
          | none, none, .ok ps =>
            let update (s : State) (old : Nat) : Verdict :=
              let r := relayoutStep s old target
              match r.2 with
              | none => .ok (setD s o.d (BitVec.ofNat 64 r.1))
              | some new => relayoutUpdate s w h target old new r.1 ps o.d
            match x.reply with
            | some [9, old] => relayoutUpdate s w h target old.toNat (relayoutNew old.toNat target) 0 ps o.d
            | _ =>
              match releaseWait s c with
              | (s, true) => .wait s
              | (s, false) =>
                match trackFetch (drainTouching s w.core (ps.map (fun p => p.loc))) c (pierOfCore w.core) w.vd ps with
                | (s, true) => .wait s
                | (s, false) => got (operand s a 4) (fun s bs => update (dropArrived s c) (leNat bs)) s)

def execRlwait (o : EHget) (s : State) : Out :=
  conclude s (gateE s [waits o.b] [.s o.d] fun x =>
    let b := (x.getS o.b).toNat
    if b > 1 then trapFree s .illegal
    else
      match x.handle? o.h with
      | none => unbound s
      | some h =>
        got (recordRead s true (h.addr + 0x2C) 4) (fun s bs =>
          let c := leNat bs
          if b == 0 && ctlConverting c then block (dropArrived s s.cur)
          else .ok (setD s o.d (BitVec.ofNat 64 (bits c 14 12)))) s)

/-! ### The conversion (R278, R280) -/

/-- Change conversion i. -/
def setConv (s : State) (i : Nat) (c : Conv) : State := { s with convs := s.convs.set i c }

/-- The control word of a conversion's record, stored whole after `f` (R280: one store); false while the record does not
answer. -/
def convControl (s : State) (c : Conv) (f : Nat → Nat) : State × Bool :=
  let core := (match s.vdev? c.vd with | some v => v.piers.headD 0 | none => 0) * 8
  let w := sysWho c.vd core
  match engReadAt s sysAgent w (c.record + 0x2C) 4 with
  | .wait s => (s, false)
  | .fault s _ => (s, false)
  | .ok s1 bs =>
    match engWriteAt (dropArrived s1 sysAgent) sysAgent 0 w (c.record + 0x2C) (leBytes 4 (f (leNat bs))) with
    | .ok s _ => (s, true)
    | _ => (s, false)

/-- A page of the extent: its leaf. -/
def convLeaves (s : State) (c : Conv) : List (Option Nat) :=
  let n := ceilDiv (c.base % 65536 + 4096 * c.tiles) 65536
  (List.range n).map (fun k => walk s.mem (rootOf s c.vd) (c.base / 65536 * 65536 + 65536 * k))

/-- Is a page of the extent on its way to another module? It is pinned once that is over (R256, R280). -/
def convMoving (s : State) (c : Conv) : Bool :=
  !s.transfers.isEmpty && (List.range (ceilDiv (c.base % 65536 + 4096 * c.tiles) 65536)).any (fun k =>
    match sysPa s c.vd (c.base / 65536 * 65536 + 65536 * k) with | some pa => (inTransfer s pa).isSome | none => false)

/-- A leaf that lets its page be converted: tracked, no duplicate, of this module. -/
def leafConverts (x : Nat) : Bool := bit x 10 && !bit x 8 && leafPeer x == 0

/-- RELAYOUT_START: steps 1 and 2 of R280. The pager maps pages of the extent on demand by its stores, waits for a frame, or answers that
one that is not resident cannot be. -/
def execRelayoutStart (i : Nat) (ans : PagerAns) (s : State) : Out :=
  match s.convs[i]? with
  | none => .next s
  | some c =>
    if c.step != 1 then .next s
    else
      let s := match ans with | .resolved ws => pagerMaps s c.vd none ws | _ => s
      let never := match ans with | .passOn | .exhausted => true | _ => false
      let ls := convLeaves s c
      let missing := ls.any (fun l => match l with | some x => bit x 11 | none => true)
      if (never && missing) || ls.any (fun l => match l with | some x => !leafConverts x | none => false) then
        match convControl s c (fun w => setBits (setBits w 12 10 0) 14 13 1) with
        | (s, true) => ({ s with convs := s.convs.eraseIdx i } : State).done
        | (s, false) => s.done
      else if missing || convMoving s c then s.done
      else (setConv s i { c with step := 3 }).done

/-- Step 4 of R280, once every tile is converted: Tag := Target. -/
def convTagged (s : State) (i : Nat) (c : Conv) : State :=
  if c.done.length < c.tiles then s
  else
    match convControl s c (fun w => setBits w 9 8 c.target) with
    | (s, true) => setConv s i { c with step := 5 }
    | (s, false) => s

/-- RELAYOUT_TILE_CONVERT: the caisson locks a tile, and the next such event of the tile permutes and unlocks it (R278). A tile
that another conversion has locked waits for it. -/
def execRelayoutTileConvert (i t : Nat) (s : State) : Out :=
  match s.convs[i]? with
  | none => .next s
  | some c =>
    if c.step != 3 then .next s
    else if c.done.contains t || c.tiles ≤ t then (convTagged s i c).done
    else
      match sysPa s c.vd (c.base + 4096 * t) with
      | none => .next s
      | some pa =>
        if c.locked.contains t then
          let s := convertTile s i t
          (convTagged s i (s.convs.getD i c)).done
        else if (lockedAt s pa).isSome then .next s
        else
          (setTileBits (setConv s i { c with locked := c.locked ++ [t] }) c.vd (c.shadow + 16 * t) 34 34 1).done

/-- Is an agent at a pier: a context of it, or an engine job? -/
def agentAt (p a : Nat) : Bool := if a < 2 ^ 20 then pierOfCtx a == p else (a - 2 ^ 20) / 65536 == p

/-- A handle access of a pier that may have read the old Tag and is not over: a store that has not reached its home, or an access
whose read of the record at another module is on its way or has just been answered. -/
def oldPlace (s : State) (p : Nat) (c : Conv) : Bool :=
  let ctl := c.record + 0x2C
  s.remote.any (fun r => r.kind == RemoteKind.read && r.who.agent.any (agentAt p) && r.va ≤ ctl && ctl < r.va + r.reach)
    || s.arrived.any (fun a => agentAt p a.agent && a.va ≤ ctl && ctl < a.va + a.bytes.length)
    || (List.range 8).any (fun k => (s.core (p * 8 + k)).sb.any (fun e => e.place.any (fun x =>
    x.1.vd == c.vd && c.shadow ≤ x.1.hdr && x.1.hdr < c.shadow + 16 * c.tiles && x.1.tag != c.target)))

/-- RELAYOUT_DRAIN_ACK: step 5 of R280 at one pier. -/
def execRelayoutDrainAck (i p : Nat) (s : State) : Out :=
  match s.convs[i]? with
  | none => .next s
  | some c =>
    let ps := match s.vdev? c.vd with | some v => v.piers | none => []
    if c.step != 5 || !ps.contains p || c.acks.contains p || oldPlace s p c then .next s
    else
      let c := { c with acks := c.acks ++ [p] }
      (setConv s i { c with step := if ps.all c.acks.contains then 6 else 5 }).done

/-- RELAYOUT_FINISH: steps 6 and 7 of R280. -/
def execRelayoutFinish (i : Nat) (s : State) : Out :=
  match s.convs[i]? with
  | none => .next s
  | some c =>
    if c.step != 6 then .next s
    else
      match convControl s c (fun w => setBits w 14 10 0) with
      | (s, false) => s.done
      | (s, true) =>
        let s := (List.range c.tiles).foldl (fun s t => setTileBits s c.vd (c.shadow + 16 * t) 33 33 0) s
        let shares (o : Conv) : Bool :=
          o.vd == c.vd && o.base < c.base + 4096 * c.tiles && c.base < o.base + 4096 * o.tiles
        ({ s with convs := (s.convs.eraseIdx i).map (fun o =>
            if shares o then { o with others := o.others ++ [c.record] } else o) } : State).done

/-! ### CHASH, ENTSET (R298, R299) -/

/-- CHASH: the bytes are read as loads, the digest is stored at the address in d, and the instruction ends once its stores
are performed. -/
def execChash (o : E3) (s : State) : Out :=
  conclude s (gateE s [waits o.a, waits o.b, waits o.d] [] fun x =>
    let a := (x.getS o.a).toNat
    let b := (x.getS o.b).toNat
    let d := (x.getS o.d).toNat
    let c := s.cur
    if x.asked then (if remoteOf s c then .wait s else .ok s)
    else if a % 4 != 0 || b % 4 != 0 || !(4 ≤ b && b ≤ 2 ^ 20) then trapFree s .illegal
    else
      got (operand s a b) (fun s bs =>
        if d % 8 != 0 then accessTrap s (addressFault d)
        else
          got (selfStore s d (sha256of512 bs)) (fun s _ =>
            let s := drainCtx s c
            if remoteOf s c then .wait (s.setMe { s.me with asked := true }) else .ok s) s) s)

/-- Entry n of a job's table in its system area. -/
def entryVa (j : JobRec) (n : Nat) : Nat := j.entryTab + 8 * n

/-- ENTSET: the table and every message unit's copy. -/
def execEntset (o : E3) (s : State) : Out :=
  conclude s (gateE s [waits o.a, waits o.b] [.s o.d] fun x =>
    let a := (x.getS o.a).toNat
    let b := (x.getS o.b).toNat
    let n := a % 256
    let job := a / 2 ^ 32
    match s.job? job with
    | none => trapFree s .illegal
    | some j =>
      if bits a 31 8 != 0 || bits b 62 48 != 0 || b % 4 != 0 then trapFree s .illegal
      else
        atLevel s 3 <|
        match releaseWait s s.cur with
        | (s, true) => .wait s
        | (s, false) =>
          let old := leNat (sysRead s j.vd (entryVa j n) 8)
          let s := sysWrite s j.vd (entryVa j n) (leBytes 8 b)
          let ps := match s.vdev? j.vd with | some v => v.piers | none => []
          let s : State := ps.foldl (fun s p =>
            let y := s.pier p
            s.setPier p { y with entries := kput (job * 256 + n) b y.entries }) s
          .ok (setD s o.d (BitVec.ofNat 64 old)))

end Sys2Proof.Machine
end

