-- ==== Sys2Proof/Machine/Encoder.lean ====
section
/-!
DEFINITION. The encoder to the bit (R209 to R211), the spans of a code message (R213 to R215) and their reconstruction (R228).
FP32 values are bit patterns; an atom is its 64 E4M3 bytes.
-/
namespace Sys2Proof.Machine

/-! ### Atoms (R209) -/

/-- Elements of an atom. -/
def atomVals (bs : Bytes) : List FVal := (List.range 64).map (fun i => valueOf .e4m3 (leAt bs i 1))

/-- An atom that DINST and DATOM refuse. -/
def atomBad (bs : Bytes) : Bool :=
  let vs := atomVals bs
  vs.all FVal.isZero || vs.any FVal.isNaN

/-- Elements in units of 2^−9, the least E4M3 magnitude. -/
def atomInts (bs : Bytes) : List Int :=
  (atomVals bs).map (fun v => match v with | .fin s m e => FVal.intAt s m e (-9) | _ => 0)

/-- g := Rne32(1 / S), S the exact sum of squares. -/
def normOf (bs : Bytes) : BitVec 32 :=
  let s := ((atomInts bs).map (fun z => z.natAbs * z.natAbs)).foldl (fun a b => a + b) 0
  BitVec.ofNat 32 (rne32 (divX (.fin false 1 0) (.fin false s (-18))).1).1

/-! ### Pursuit (R210) -/

/-- What the encoder makes of a span (R211): payload words, or terms (atom, BF16 coefficient). -/
inductive Coded where
  | escape
  | zero
  | coded (terms : List (Nat × Nat))
  deriving DecidableEq, Repr

/-- ⌊log2⌋ of the largest magnitude of FP32 values, `none` when all are zero. -/
def topExp (xs : List Nat) : Option Int :=
  xs.foldl (fun (t : Option Int) x =>
    match decodeFloat .fp32 x with
    | .fin _ m e =>
      if m == 0 then t
      else
        let k : Int := (m.log2 : Int) + e
        (match t with | some u => some (max u k) | none => some k)
    | _ => t) none

/-- The quantised lane: RoundEven(r × 2^(10 − e)), within ±2047. -/
def quantLane (e : Int) (x : Nat) : Int :=
  match decodeFloat .fp32 x with
  | .fin s m f => max (-2047) (min 2047 (roundToInt .nearest s m (f + 10 - e)).1)
  | _ => 0

/-- ĉ, m of one atom. -/
def correlate (e : Int) (qs : List Int) (atom : List Int) (g : Nat) : Nat × Nat :=
  let c := ((qs.zip atom).map (fun x => x.1 * x.2)).foldl (fun a b => a + b) 0
  let ch := (rne32 (.fin (decide (c < 0)) c.natAbs (e - 19))).1
  (ch, (mul32 (mul32 ch ch).1 g).1)

/-- The lowest index of the largest m, with its ĉ. -/
def pickAtom (cs : List (Nat × Nat)) : Nat × Nat :=
  ((cs.zip (List.range cs.length)).foldl (fun (b : Option (Nat × Nat × Nat)) x =>
    match b with
    | none => some (x.2, x.1.1, x.1.2)
    | some (j, ch, m) =>
      if FVal.cmp (decodeFloat .fp32 m) (decodeFloat .fp32 x.1.2) == .lt then some (x.2, x.1.1, x.1.2)
      else some (j, ch, m)) none).elim (0, 0) (fun b => (b.1, b.2.1))

def isInf32 (x : Nat) : Bool := (decodeFloat .fp32 x).isInf
def le32 (a b : Nat) : Bool := condFloat 4 (decodeFloat .fp32 a) (decodeFloat .fp32 b)

/-- r_i − α̂ × a, one rounding. -/
def residual (alpha : FVal) (r : Nat) (a : FVal) : Nat :=
  (rne32 (addX .nearest (decodeFloat .fp32 r) (mulX alpha a).1.neg).1).1

/-- The iterations that are left: residual, its energy, terms. `full` of R210 is the end of the fuel. -/
def pursue (atoms : List Bytes) (ints : List (List Int)) (gs : List Nat) (tauE epsE : Nat) :
    Nat → List Nat → Nat → List (Nat × Nat) → Coded
  | 0, _, en, terms => if condFloat 5 (decodeFloat .fp32 en) (decodeFloat .fp32 epsE) then .escape else .coded terms
  | t + 1, r, _, terms =>
    match topExp r with
    | none => .coded terms
    | some e =>
      let qs := r.map (quantLane e)
      let b := pickAtom ((ints.zip gs).map (fun x => correlate e qs x.1 x.2))
      let alpha := (mul32 b.2 (gs.getD b.1 0)).1
      let ah := (rne16 (decodeFloat .fp32 alpha)).1
      let av := decodeFloat .bf16 ah
      if av.isInf then .escape
      else if av.isZero then .coded terms
      else
        let r := (r.zip (atomVals (atoms.getD b.1 []))).map (fun x => residual av x.1 x.2)
        if r.any isInf32 then .escape
        else
          let terms := terms ++ [(b.1, ah)]
          let en := (energy r).1
          if le32 en tauE then .coded terms else pursue atoms ints gs tauE epsE t r en terms

/-- How many iterations of R210 a span of a code begins (R212): those of its terms, and one more that left at α̂ = 0 or escaped after
it had correlated. It follows `pursue`. -/
def iterations (atoms : List Bytes) (ints : List (List Int)) (gs : List Nat) (tauE : Nat) : Nat → List Nat → Nat
  | 0, _ => 0
  | t + 1, r =>
    match topExp r with
    | none => 0
    | some e =>
      let qs := r.map (quantLane e)
      let b := pickAtom ((ints.zip gs).map (fun x => correlate e qs x.1 x.2))
      let av := decodeFloat .bf16 (rne16 (decodeFloat .fp32 (mul32 b.2 (gs.getD b.1 0)).1)).1
      if av.isInf || av.isZero then 1
      else
        let r := (r.zip (atomVals (atoms.getD b.1 []))).map (fun x => residual av x.1 x.2)
        if r.any isInf32 || le32 (energy r).1 tauE then 1 else 1 + iterations atoms ints gs tauE t r

/-- ENC of one span (R210): kmax, τ, ε and the slot's atoms and norm factors. -/
def encodeSpan (kmax tau eps : Nat) (atoms : List Bytes) (gs : List Nat) (x : List Nat) : Coded :=
  if x.any (fun v => !(decodeFloat .fp32 v).isFinite) then .escape
  else
    let e0 := (energy x).1
    if isInf32 e0 then .escape
    else if (decodeFloat .fp32 e0).isZero then .zero
    else if kmax == 0 then .coded []
    else pursue atoms (atoms.map atomInts) gs (mul32 tau e0).1 (mul32 eps e0).1 kmax x e0 []

/-- The words of a span and the flags of its conversions (R211, R214). -/
def spanWords (s : Nat) (x : List Nat) : Coded → List Nat × Flags
  | .zero => ([2 * 2 ^ 28 + s], 0)
  | .coded ts => ((ts.length * 2 ^ 24 + s) :: ts.map (fun t => t.1 * 2 ^ 20 + t.2), 0)
  | .escape =>
    let ys := x.map (fun v => rne16 (decodeFloat .fp32 v))
    ((2 ^ 28 + s) :: (List.range 32).map (fun k => (ys.getD (2 * k) (0, 0)).1 + (ys.getD (2 * k + 1) (0, 0)).1 * 65536),
      orFlags (ys.map Prod.snd))

/-! ### Code messages (R213 to R215) -/

def msgKind (w : Nat) : Nat := bits w 31 30
def msgSpans (w : Nat) : Nat := bits w 11 0

/-- Words 0 and 1 of a code message that does not break R215. -/
def headOk (w0 w1 id : Nat) : Bool := msgKind w0 == 2 && msgSpans w0 != 0 && bits w1 31 16 == id

/-- How many words follow a span header; `none` when its kind or count is refused. -/
def spanBody (h : Nat) : Option Nat :=
  match bits h 31 28, bits h 27 24 with
  | 0, n => some n
  | 1, 0 => some 32
  | 2, 0 => some 0
  | _, _ => none

/-- Do the words of a span keep R215 for a dictionary of n atoms? -/
def bodyOk (n h : Nat) (ws : List Nat) : Bool :=
  bits h 31 28 != 0 || ws.all (fun w => bits w 19 16 == 0 && bits w 31 20 < n)

/-- The words of the k-th span from the words that follow word 1. -/
def spanAt : Nat → List Nat → List Nat
  | _, [] => []
  | k, h :: ws =>
    let n := (spanBody h).getD 0
    match k with
    | 0 => h :: ws.take n
    | k + 1 => spanAt k (ws.drop n)

/-- Terms of a coded span. -/
def spanTerms (sp : List Nat) : List (Nat × Nat) := (sp.drop 1).map (fun w => (bits w 31 20, w % 65536))

/-- Payload lanes of an escape span, converted exactly to FP32; a NaN becomes the canonical one (R62, R63, R228). -/
def spanPayload (sp : List Nat) : List Nat :=
  (sp.drop 1).flatMap (fun w => [toFp32 .bf16 (w % 65536), toFp32 .bf16 (w / 65536 % 65536)])

/-- y := Rne32(c × v + y) in every lane, with the flags. -/
def axpy (c : Nat) (vs ys : List Nat) : List Nat × Flags :=
  let rs := (vs.zip ys).map (fun x => fma32 c x.1 x.2)
  (rs.map Prod.fst, orFlags (rs.map Prod.snd))

/-- DEC of one span (R228): 64 FP32 lanes and flags. -/
def decodeSpan (atom : Nat → Bytes) (sp : List Nat) : List Nat × Flags :=
  match bits (sp.headD 0) 31 28 with
  | 1 => (spanPayload sp, 0)
  | 0 =>
    (spanTerms sp).foldl (fun (acc : List Nat × Flags) t =>
      let vs := (List.range 64).map (fun i => toFp32 .e4m3 (leAt (atom t.1) i 1))
      let r := axpy (t.2 * 65536) vs acc.1
      (r.1, acc.2 ||| r.2)) (List.replicate 64 0, 0)
  | _ => (List.replicate 64 0, 0)

end Sys2Proof.Machine
end

