-- ==== Sys2Proof/Machine/Engine.lean ====
section
/-!
DEFINITION. Engine commands: issue into a core's queue (R47, R74, R84, R189, R313, R371), the head of a queue and its guard,
the rotations over cores (R190, R313), and a job that meets a fault (R172).
-/
namespace Sys2Proof.Machine

/-! ### Issue -/

/-- The ids that a pier's counter skips besides 0 (R189): jobs and receives that are outstanding. -/
def usedIds (x : Pier) : List Nat := x.jobs.map (fun j => j.id) ++ x.recvStates.map (fun r => r.job)

/-- The first id from n on that is free. -/
def freeId (used : List Nat) : Nat → Nat → Nat
  | 0, n => n
  | fuel + 1, n => if n == 0 || used.contains n then freeId used fuel ((n + 1) % 65536) else n

/-- Commands of a core in an engine's queue. -/
def queued (s : State) (p : Nat) (e : Engine) (core : Nat) : List Job :=
  (s.pier p).jobs.filter (fun j => j.eng == e && j.core == core && j.inq)

/-- Is the command one that writes its register itself (R84)? -/
def cmdWrites : Cmd → Bool
  | .dqry => true | .wmark => true | _ => false

/-- What an engine command reads as it issues (R429); most read nothing. -/
abbrev PreRead := State → Word → Word → Got Bytes

/-- Issue an engine command with a register d (R84): its release, a place in the queue, at most eight results pending (R47).
`pre` is what the pier reads at issue and `mark` what it does then to granules, both for a command that is not discarded
there (R180, R232, R328). -/
def issueCmdPre (s : State) (e : Engine) (cmd : Cmd) (d : SReg) (srcs : List Src) (isPure : Bool) (pre : PreRead)
    (mark : State → Bytes → Word → Word → State) (a b : Ctx → Word) : Out :=
  conclude s <|
    let g := modGuard s.me.pfx
    let x := s.me
    let empty := guardEmpty x g
    let off := !empty && !(guardWord x g).getLsbD 0
    if groupBad x.pfx accG then trapFree s .illegal
    else if srcs.any (fun r => !srcFull x r) then block s
    else if !isPure && x.pure && !off then trapFree s .purity
    else if dstPending s (.s d) then .wait s
    else
      let c := s.cur
      let p := pierOfCtx c
      let core := coreOfCtx c
      if (queued s p e core).length ≥ 16 then .wait s
      else if cmdWrites cmd && ((unitJobs s c).filter (fun j => j.2.dreg.isSome && !j.2.status.final)).length ≥ 8 then .wait s
      else
        let s := drainCtx s c
        if remoteOf s c then .wait s
        else
         let av := a x
         let bv := b x
         match (if off then Got.ok s [] else pre s av bv) with
         | .fault s f => accessTrap s f
         | .wait s => .wait s
         | .ok s seen =>
          let pr := s.pier p
          let used := usedIds pr
          let id := freeId used (used.length + 2) pr.nextJob
          let w := x.who core
          let j : Job :=
            { id := id, eng := e, cmd := cmd, core := core, ctx := c, unit := x.record, who := w, jobid := x.jobid.toNat
              a := av, b := bv, dreg := if cmdWrites cmd && !off then some d else none
              held := if empty then some g else none, enck := x.enck.toNat, enctau := x.enctau.toNat
              enceps := x.enceps.toNat, encdict := x.encdict.toNat, inq := !off, started := false
              status := if off then .discarded else .running, flags := 0, cause := .none, faddr := 0, tmpl := [], tmpl2 := seen
              list := [], prog := 0, prog2 := 0, bytesDone := 0, ring := none, work := [], msg := none, ver := if e == .matrix && pr.splitWait.contains core then 1 else 0
              dictId := 0, use := none, sent := false, released := false, reported := false }
          let s := s.setPier p { pr with jobs := pr.jobs ++ [j], nextJob := (id + 1) % 65536 }
          let s := if off then s else mark s seen av bv
          let x := { s.me with lastjob := BitVec.ofNat 16 id }
          let x := if cmdWrites cmd then (if off then x.setS d 0 else x.emptyS d) else x.setS d (BitVec.ofNat 64 id)
          .ok (s.setMe x)

/-- An engine command that reads nothing as it issues. -/
def issueCmd (s : State) (e : Engine) (cmd : Cmd) (d : SReg) (srcs : List Src) (isPure : Bool) (mark : State → Word → Word → State)
    (a b : Ctx → Word) : Out :=
  issueCmdPre s e cmd d srcs isPure (fun s _ _ => .ok s []) (fun s _ => mark s) a b

/-- No granule is marked at issue. -/
def noMark (s : State) (_ _ : Word) : State := s

/-- An engine command with d, a and b. -/
def cmd3 (s : State) (e : Engine) (cmd : Cmd) (o : E3) (isPure : Bool) : Out :=
  issueCmd s e cmd o.d [waits o.a, waits o.b] isPure noMark (fun x => x.getS o.a) (fun x => x.getS o.b)

/-- An engine command with d and a. -/
def cmd2 (s : State) (e : Engine) (cmd : Cmd) (o : EDA) (isPure : Bool) : Out :=
  issueCmd s e cmd o.d [waits o.a] isPure noMark (fun x => x.getS o.a) (fun _ => 0)

/-! ### The head of a queue -/

/-- The head of a core's queue, with its guard settled: a command whose guard has filled false is discarded (R74). The
result is the head that may start. -/
def headOf (s : State) (p : Nat) (e : Engine) (core : Nat) : State × Option Job :=
  match (if s.quietPier p then [] else queued s p e core) with
  | [] => (s, none)
  | j :: _ =>
    match j.held with
    | none => (s, some j)
    | some g =>
      let x := s.ctx j.ctx
      if guardEmpty x g then (s, none)
      else if (guardWord x g).getLsbD 0 then
        let j := { j with held := none }
        (setJobOn s p j, some j)
      else (endJob s p j .discarded, none)

/-- The next core of a rotation that can take a step: `weight` steps in a row at one core (R190, R313). -/
def pickRot (rot : Nat × Nat) (weight : Nat → Nat) (can : Nat → Bool) : Option (Nat × (Nat × Nat)) :=
  if can rot.1 && rot.2 < weight rot.1 then some (rot.1, (rot.1, rot.2 + 1))
  else ((List.range 8).map (fun i => (rot.1 + 1 + i) % 8)).findSome? (fun k => if can k then some (k, (k, 1)) else none)

/-- MWEIGHT of core k of a pier. -/
def weightOf (s : State) (p k : Nat) : Nat := (s.core (p * 8 + k)).mweight.toNat

/-- The end of an event that may have finished jobs of dying units (R25). -/
def eventDone (s : State) : Out := (settleDying s).done

/-! ### A job that meets a fault (R172) -/

/-- A job meets a fault: PAGE parks it as FAULTED; any other ends it with ERROR. -/
def jobFault (s : State) (p : Nat) (j : Job) (f : AFault) : State :=
  let j := { j with cause := f.cause, faddr := BitVec.ofNat 64 f.faddr }
  if f.cause == .page then setJobOn (askReclaim s j.who.vd f.faddr) p { j with status := .faulted, released := false } else endJob s p j .error

/-- A job ends with ERROR of a cause at an address. -/
def jobError (s : State) (p : Nat) (j : Job) (cause : Cause) (faddr : Nat) : State :=
  endJob s p { j with cause := cause, faddr := BitVec.ofNat 64 faddr } .error

/-- The job leaves the head of its queue. -/
def startJob (s : State) (p : Nat) (j : Job) : State × Job :=
  let j := { j with started := true, inq := false }
  (setJobOn s p j, j)

/-- A fault of one element of an engine access: its window, then its page (R152, R242). -/
def elementFault (s : State) (w : Who) (k : AKind) (a n : Nat) : Option AFault :=
  if !oneWindow w.core a n then some (addressFault a)
  else
    match placeAll s w k true (span a n) with
    | .error f => some f
    | .ok _ => none

/-- The first fault of a list of elements in their order. -/
def firstFault (s : State) (w : Who) (k : AKind) (n : Nat) (as : List Nat) : Option AFault :=
  as.findSome? (fun a => elementFault s w k a n)

end Sys2Proof.Machine
end

