-- ==== Sys2Proof/Machine/Images.lean ====
section
/-!
DEFINITION. Image arrays and the pier image table: descriptors and tags (R217, R218), request words (R232), installs and
lookups (R222, R223).
-/
namespace Sys2Proof.Machine

/-! ### Descriptors and tags -/

/-- What a well-formed image descriptor and its row record say. -/
structure ImgDesc where
  id : Nat
  n : Nat
  v : Nat
  tags : Nat
  base : Nat
  o : Nat
  fmt : Fmt
  /-- S, the span count. -/
  spans : Nat
  deriving DecidableEq, Repr

def imgRecordAddr (d : Bytes) : Nat := leAt d 0 8

/-- Bytes of an image row. -/
def ImgDesc.rowBytes (d : ImgDesc) : Nat := d.o * fmtBytes d.fmt

/-- R217: the descriptor and the row record, if neither breaks a rule. -/
def imgDesc? (d r : Bytes) : Option ImgDesc :=
  let n := leAt d 0x12 2
  let v := leAt d 0x14 1
  let f := lFmt r
  let o := lDim r 1
  if d.length == 64 && (d.drop 0x15).all (fun b => b == 0) && imgRecordAddr d % 64 == 0 && leAt d 8 8 % 8 == 0 && 1 ≤ n && n ≤ 2048
      && 1 ≤ v && v ≤ 4 && recordOk r && lRank r == 2 && ctlTag (lCtl r) == 0 && (f == .fp32 || f == .bf16 || f == .e4m3)
      && 32 ≤ o && o ≤ 1024 && o % (if f == .e4m3 then 64 else 32) == 0 && lDim r 0 % (n * v) == 0 then
    some ⟨leAt d 0x10 2, n, v, leAt d 8 8, lBase r, o, f, lDim r 0 / (n * v)⟩
  else none

/-- Row k of (s, j, e). -/
def ImgDesc.row (d : ImgDesc) (s j e : Nat) : Nat := (s * d.n + j) * d.v + e
def ImgDesc.rowAddr (d : ImgDesc) (k : Nat) : Nat := (d.base + k * d.rowBytes) % 2 ^ 64
def ImgDesc.tagAddr (d : ImgDesc) (k : Nat) : Nat := (d.tags + 8 * k) % 2 ^ 64

def tagValid (t : Nat) : Bool := bit t 63
def tagId (t : Nat) : Nat := bits t 47 32
def tagHi (t : Nat) : Nat := bits t 31 16
def tagLo (t : Nat) : Nat := bits t 15 0

/-- Does an interval serve version w (R218)? -/
def inInterval (lo hi w : Nat) : Bool := lo ≤ w && (hi == 0xFFFF || w ≤ hi)

/-- Does a tag serve version w of a dictionary? -/
def tagServes (t id w : Nat) : Bool := tagValid t && tagId t == id && inInterval (tagLo t) (tagHi t) w

/-- The bytes of the descriptor at an address, and of its row record: read by a function. -/
def readImgDesc (read : State → Nat → Nat → Got Bytes) (s : State) (a : Nat) : Got (Bytes × Bytes) :=
  match read s a 64 with
  | .fault s f => .fault s f
  | .wait s => .wait s
  | .ok s d =>
    if imgRecordAddr d % 64 != 0 then .ok s (d, [])
    else
      match read s (imgRecordAddr d) 64 with
      | .fault s f => .fault s f
      | .wait s => .wait s
      | .ok s r => .ok s (d, r)

/-! ### Requests (R232) -/

structure ImgReq where
  s : Nat
  j : Nat
  e : Nat
  ins : Bool
  buf : Nat
  deriving DecidableEq, Repr

def imgReq (w : Nat) : ImgReq := ⟨bits w 63 40, bits w 39 28, bits w 27 26, bit w 25, bits w 23 0⟩

/-- A refused request: ILLEGAL for a field, ADDRESS for its buffer. IMGBLD uses a buffer only when it installs. -/
def reqBad (d : ImgDesc) (core : Nat) (build : Bool) (w : Nat) : Option Cause :=
  let r := imgReq w
  if d.spans ≤ r.s || d.n ≤ r.j || d.v ≤ r.e || bit w 24 || (!build && r.ins) then some .illegal
  else if (r.ins || !build) && (r.buf % 64 != 0 || !inSpad core r.buf d.rowBytes) then some .address
  else none

/-- The words of a request list. -/
def reqWords (bs : Bytes) (n : Nat) : List Nat := (List.range n).map (fun i => leAt bs (8 * i) 8)

/-! ### The pier image table (R222, R223) -/

/-- The lowest-numbered valid entry that serves (id, s, j, w). -/
def imgLookup (x : Pier) (id s j w : Nat) : Option (Nat × ImgEntry) :=
  x.images.find? (fun e => e.2.id == id && e.2.s == s && e.2.j == j && inInterval e.2.vlo e.2.vhi w)

/-- An entry was used by an ACCI. -/
def imgUsed (x : Pier) (n : Nat) (e : ImgEntry) : Pier :=
  { x with images := kput n { e with lru := x.imgClock + 1 } x.images, imgClock := x.imgClock + 1 }

/-- Install (R223); the entry is written whole. Buffer addresses are compared as they stand, and an own-window one names the
scratchpad of the core whose ACCI reads it (log 92). -/
def imgInstall (s : State) (p : Nat) (id sn j vlo vhi buf : Nat) : State :=
  let x := s.pier p
  let es : KMap ImgEntry := x.images.filter (fun e => e.2.buf != buf)
  let es : KMap ImgEntry := es.map (fun e =>
    if e.2.id == id && e.2.s == sn && e.2.j == j && e.2.vhi == 0xFFFF && e.2.vlo < vlo then (e.1, { e.2 with vhi := vlo - 1 })
    else e)
  let n := match (List.range 256).find? (fun i => (kget? es i).isNone) with
    | some i => i
    | none =>
      (match es with
      | [] => 0
      | e :: rest => (rest.foldl (fun b q => if q.2.lru < b.2.lru then q else b) e).1)
  let s := { s with poison := s.poison.filter (fun u => match u with | .image q k => !(q == p && k / 2 == n) | _ => true) }
  s.setPier p { x with images := kput n ⟨id, sn, j, vlo, vhi, buf, 0⟩ es }

/-- Close the entries of an id at v − 1 whose atom has changed (R220). -/
def imgClose (x : Pier) (id v : Nat) (atoms : List Nat) : Pier :=
  { x with images := x.images.map (fun e =>
      if e.2.id == id && atoms.contains e.2.j && e.2.vhi == 0xFFFF && e.2.vlo < v then (e.1, { e.2 with vhi := v - 1 }) else e) }

/-- Clear the entries that satisfy a test. -/
def imgClear (x : Pier) (f : ImgEntry → Bool) : Pier := { x with images := x.images.filter (fun e => !f e.2) }

/-! ### IMGLD at issue and at start (R232) -/

def imgldCount (b : Nat) : Nat := bits b 43 32

/-- The operands that make an IMGLD read nothing: it ends with ERROR at its start. -/
def imgldOpBad (a b : Nat) : Option Cause :=
  if bits b 31 24 != 0 || bits b 63 44 != 0 || imgldCount b == 0 || imgldCount b > 256 then some .illegal
  else if a % 64 != 0 || bits b 23 0 % 8 != 0 then some .address
  else none

/-- What IMGLD reads at issue: descriptor, row record, list. -/
def imgldRead (s : State) (a b : Word) : Got Bytes :=
  if (imgldOpBad a.toNat b.toNat).isSome then .ok s []
  else
    match readImgDesc operand s a.toNat with
    | .fault s f => .fault s f
    | .wait s => .wait s
    | .ok s (d, r) =>
      if (imgDesc? d r).isNone then .ok s (d ++ r)
      else
        match operand s (bits b.toNat 23 0) (8 * imgldCount b.toNat) with
        | .fault s f => .fault s f
        | .wait s => .wait s
        | .ok s l => .ok s (d ++ r ++ l)

/-- What was read, checked: the descriptor and the requests, or the cause of the ERROR. -/
def imgldParse (core a b : Nat) (seen : Bytes) : Except Cause (ImgDesc × List Nat) :=
  match imgldOpBad a b with
  | some c => .error c
  | none =>
    match imgDesc? (seen.take 64) ((seen.drop 64).take 64) with
    | none => .error .illegal
    | some d =>
      let ws := reqWords (seen.drop 128) (imgldCount b)
      match ws.findSome? (reqBad d core false) with
      | some c => .error c
      | none => .ok (d, ws)

/-- Granules of n bytes from a scratchpad address. -/
def granuleKeys (core a n : Nat) : List Nat :=
  let p := spadPlace core a
  (List.range ((n + 15) / 16)).map (fun i => p.1 * 8192 + p.2 / 16 + i)

/-- IMGLD at issue empties the granules of its buffers. -/
def imgldMark (s : State) (seen : Bytes) (a b : Word) : State :=
  let core := coreOfCtx s.cur
  match imgldParse core a.toNat b.toNat seen with
  | .error _ => s
  | .ok (d, ws) => setGranules s false (ws.flatMap (fun w => granuleKeys core (imgReq w).buf d.rowBytes))

def execImgld (o : E3) (s : State) : Out :=
  issueCmdPre s .copy .imgld o.d [waits o.a, waits o.b] true imgldRead imgldMark (fun x => x.getS o.a) (fun x => x.getS o.b)

end Sys2Proof.Machine
end

