-- ==== Sys2Proof/Machine/Copy.lean ====
section
/-!
DEFINITION. The copy unit and the caissons' commands: COPY and COPYG with their completion rings (R173 to R176, R323), ZSCAN
(R179), CGATH and CSCAT (R180, R181), the service of IMGLD (R232), their events and the resumption of parked jobs.
-/
namespace Sys2Proof.Machine

/-! ### Operand words of CGATH and CSCAT (R180) -/

/-- Count, row size and scratchpad address of register b. -/
def rowsOf (b : Nat) : Nat × Nat × Nat := (bits b 47 32, (bits b 29 24 + 1) * 64, bits b 23 0)

/-- The fields are in range, and `extra` bytes more than the rows lie with them in one scratchpad window. -/
def rowsOk (core b n : Nat) : Bool :=
  let r := rowsOf b
  bits b 63 48 == 0 && bits b 31 30 == 0 && 1 ≤ r.1 && r.1 ≤ 4096 && r.2.2 % 16 == 0 && inSpad core r.2.2 n

/-- CGATH at issue: every destination granule is set empty; a malformed command has no destination (log 35). -/
def markGather (s : State) (_ b : Word) : State :=
  let core := coreOfCtx s.cur
  let r := rowsOf b.toNat
  if rowsOk core b.toNat (r.1 * r.2.1) then setGranules s false (granuleKeys core r.2.2 (r.1 * r.2.1)) else s

/-! ### The commands -/

def execCopy (o : E3) (s : State) : Out := cmd3 s .copy .copy o true
def execCopyg (o : E3) (s : State) : Out := cmd3 s .copy .copyg o true
def execZscan (o : E3) (s : State) : Out := cmd3 s .copy .zscan o true
def execZscanIb (o : E3) (s : State) : Out := cmd3 s .copy .zscanIb o true

def execCgath (o : EGath) (s : State) : Out :=
  issueCmd s .copy (.cgath o.o16) o.d [waits o.a, waits o.b] true markGather (fun x => x.getS o.a) (fun x => x.getS o.b)

def execCscat (o : EScat) (s : State) : Out :=
  issueCmd s .copy (.cscat o.scl o.kind o.o16) o.d [waits o.a, waits o.b] true noMark (fun x => x.getS o.a)
    (fun x => x.getS o.b)

/-! ### The template (R173) -/

/-- Fields of a template. -/
def tSrc (t : Bytes) : Nat := leAt t 0 8
def tDst (t : Bytes) : Nat := leAt t 8 8
def tRing (t : Bytes) : Nat := leAt t 16 8
def tCtl (t : Bytes) : Nat := leAt t 0x18 4
def tRank (t : Bytes) : Nat := bits (tCtl t) 2 0
def tElem (t : Bytes) : Nat := 2 ^ bits (tCtl t) 5 4
def tCount (t : Bytes) (k : Nat) : Nat := leAt t (0x20 + 4 * k) 4
def tStride (t : Bytes) (off k : Nat) : Int := intOfBits true 32 (leAt t (off + 4 * k) 4)

/-- Elements of a template. -/
def tTotal (t : Bytes) : Nat := ((List.range (tRank t)).map (tCount t)).foldl (fun a b => a * b) 1

/-- Coordinates of element number i, dimension 0 fastest. -/
def tCoords (t : Bytes) (i : Nat) : List Nat :=
  ((List.range (tRank t)).foldl (fun (acc : Nat × List Nat) k =>
    (acc.1 / max (tCount t k) 1, acc.2 ++ [acc.1 % max (tCount t k) 1])) (i, [])).2

/-- A base and strides times coordinates, modulo 2^64. -/
def tAddr (base : Nat) (cs : List Nat) (stride : Nat → Int) : Nat :=
  (((base : Int) + ((List.range cs.length).map (fun k => (cs.getD k 0 : Int) * stride k)).foldl (fun a b => a + b) 0)
    % (2 ^ 64 : Int)).toNat

/-- Is the remote destination flag set? -/
def tRemote (t : Bytes) : Bool := bit (tCtl t) 20
def tRemotePier (t : Bytes) : Nat := pierAt (bits (tCtl t) 13 6) (bits (tCtl t) 19 14)

/-- A malformed template (R173, R176). Bit [3] of the control word stands in no row of the rule's table: the model takes it
for reserved, so that a set bit is malformed (log 92). -/
def templateBad (s : State) (vd : Nat) (g : Bool) (t : Bytes) : Bool :=
  let r := tRank t
  let e := tElem t
  let some_ := tTotal t != 0
  let skew (off : Nat) : Bool := (List.range r).any (fun k => tCount t k > 1 && tStride t off k % (e : Int) != 0)
  r == 0 || bit (tCtl t) 3 || tCtl t / 2 ^ 21 != 0 || leAt t 0x5C 4 != 0 || leAt t 0x7C 4 != 0
    || (List.range 7).any (fun k => r ≤ k && tCount t k != 0)
    || (!g && (leAt t 0x1C 4 != 0 || leAt t 0x3C 4 != 0))
    || (g && (r != 2 || e == 8))
    || (some_ && (tSrc t % e != 0 || tDst t % e != 0 || skew 0x40 || skew 0x60
          || (g && tStride t 0x40 1 % (e : Int) != 0)))
    || (tRemote t && !(bits (tCtl t) 13 6 < 200 && (match s.vdev? vd with
          | some v => v.piers.contains (tRemotePier t) | none => false)))
    || (tRing t != 0 && tRing t % 32 != 0)

/-! ### Completion records (R175) -/

/-- The 32 bytes of a job's record. -/
def recordBytes (p : Nat) (j : Job) (st : JStat) (cause faddr : Nat) (valid : Bool) : Bytes :=
  leBytes 8 ((if valid then 2 ^ 63 else 0) + st.code * 2 ^ 48 + pierY p * 2 ^ 40 + pierX p * 2 ^ 32 + cause * 2 ^ 16 + j.id)
    ++ leBytes 8 j.bytesDone ++ leBytes 8 faddr ++ leBytes 8 j.b.toNat

/-- Write a job's record into its slot, if it has one. -/
def putRecord (s : State) (p : Nat) (j : Job) (st : JStat) (cause faddr : Nat) (valid : Bool) : Got Unit :=
  match j.ring with
  | none => .ok s ()
  | some a => engWriteAt s (jobAgent p j.id) j.jobid j.who a (recordBytes p j st cause faddr valid)

/-- The record of a park or of a resumption: a slot that cannot be written keeps what it holds (log 36). -/
def tryRecord (s : State) (p : Nat) (j : Job) (st : JStat) (cause faddr : Nat) : State :=
  match putRecord s p j st cause faddr false with
  | .ok s _ => s
  | _ => s

/-- A COPY or COPYG parks (R174, R175). -/
def copyPark (s : State) (p : Nat) (j : Job) (f : AFault) : State :=
  let s := askReclaim (tryRecord s p j .faulted f.cause.code f.faddr) j.who.vd f.faddr
  setJobOn s p { j with status := .faulted, released := false, cause := f.cause, faddr := BitVec.ofNat 64 f.faddr }

/-- The end of a COPY or COPYG whose outcome stands in `work` and `list`: once its remote writes are answered, the final
record, then the status. -/
def copyFinish (s : State) (p : Nat) (j : Job) : State :=
  let err := j.work.headD 1 == 4
  let cause := Cause.ofCode (j.list.headD 0)
  let faddr := j.list.getD 1 0
  let close (s : State) : State :=
    endJob s p { j with cause := cause.getD .none, faddr := BitVec.ofNat 64 faddr } (if err then .error else .done)
  if agentBusy s (jobAgent p j.id) then setJobOn s p j
  else if j.prog2 == 1 then close s
  else
    match putRecord s p j (if err then .error else .done) (j.list.headD 0) faddr true with
    | .wait s => setJobOn s p j
    | .ok s _ => if agentBusy s (jobAgent p j.id) then setJobOn s p { j with prog2 := 1 } else close s
    | .fault s f =>
      if f.cause == .page then
        setJobOn (askReclaim s j.who.vd f.faddr) p
          { j with status := .faulted, released := false, cause := .page, faddr := BitVec.ofNat 64 f.faddr }
      else if err then close s
      else endJob s p { j with cause := f.cause, faddr := BitVec.ofNat 64 f.faddr } .error

/-- A COPY or COPYG ends. -/
def copyEnd (s : State) (p : Nat) (j : Job) (err : Bool) (cause faddr : Nat) : State :=
  copyFinish s p { j with work := [if err then 4 else 1], list := [cause, faddr] }

/-- A COPY or COPYG meets a fault. -/
def copyFault (s : State) (p : Nat) (j : Job) (f : AFault) : State :=
  if f.cause == .page then copyPark s p j f else copyEnd s p j true f.cause.code f.faddr

/-! ### Start (R175, R323) -/

/-- The start goes on with this slot. -/
def copyBegin (s : State) (p : Nat) (j : Job) (t : Bytes) (slot : Option Nat) : State :=
  let j := { j with started := true, inq := false, tmpl := t, ring := slot }
  if templateBad s j.who.vd (j.cmd == .copyg) t then copyEnd s p j true Cause.illegal.code 0
  else if tTotal t == 0 then copyEnd s p j false 0 0
  else setJobOn s p j

/-- Claim the slot of claim index n: one operation at the home of the ring's descriptor (R323). At another module it is a CAS
of the claim index there; `false` when another claim came first. -/
def ringClaim (s : State) (ag jobid : Nat) (w : Who) (ring n : Nat) : Got Bool :=
  match placeAll s w .write true (span (ring + 16) 8) with
  | .ok (⟨.there t pa _, _, _, _, va⟩ :: _) =>
    (match s.arrived.find? (fun a => a.agent == ag && a.target == t && a.pa == pa && a.bytes.length == 8) with
    | some a =>
      (match a.fault with
      | some c => .fault s ⟨c, if c == .memerr then ring + 16 else va, false⟩
      | none => .ok (dropArrived s ag) (leNat a.bytes == n))
    | none =>
      .wait (if s.remote.any (fun r => r.who == .operand ag && r.kind == RemoteKind.cas) then s
        else sendRemote s t .cas pa 8 [] (BitVec.ofNat 64 n) (BitVec.ofNat 64 (n + 1)) (.operand ag) va none))
  | _ =>
    match engWriteAt s ag jobid w (ring + 16) (leBytes 8 (n + 1)) with
    | .fault s f => .fault s f
    | .wait s => .wait s
    | .ok s _ => .ok s true

/-- Start a COPY or COPYG: the template, then a slot of its ring; a full ring leaves the command where it is. -/
def copyStart (s : State) (p : Nat) (j : Job) : State :=
  let ag := jobAgent p j.id
  let failed (s : State) (f : AFault) : State :=
    let q := startJob s p j
    jobFault q.1 p q.2 f
  match engReadAt s ag j.who j.a.toNat 128 with
  | .fault s f => failed s f
  | .wait s => s
  | .ok s t =>
    let ring := tRing t
    if ring == 0 || ring % 32 != 0 then copyBegin s p j t none
    else
      match engReadAt s ag j.who ring 32 with
      | .fault s f => failed s f
      | .wait s => s
      | .ok s d =>
        let base := leAt d 0 8
        let cnt := leAt d 8 4
        let n := leAt d 16 8
        if base % 32 != 0 || leAt d 12 4 != 0 || !(1 ≤ cnt && cnt ≤ 65536) || 2 ^ cnt.log2 != cnt then
          let q := startJob s p j
          jobError q.1 p q.2 .illegal 0
        else if (n + 2 ^ 64 - leAt d 24 8) % 2 ^ 64 ≥ cnt then s
        else
          match ringClaim s ag j.jobid j.who ring n with
          | .fault s f => failed s f
          | .wait s => s
          | .ok s false => s
          | .ok s true => copyBegin s p j t (some ((base + 32 * (n % cnt)) % 2 ^ 64))

/-! ### Sectors (R174, R176) -/

/-- An element of a sector: source address, `none` for a fill, and destination. -/
structure Elem where
  src : Option Nat
  dst : Nat
  deriving DecidableEq, Repr

/-- Element number i; `rows` gives the index entry of a COPYG row. -/
def elemAt (t : Bytes) (g : Bool) (rows : Nat → Nat) (i : Nat) : Elem :=
  let cs := tCoords t i
  let dst := tAddr (tDst t) cs (tStride t 0x60)
  if !g then ⟨some (tAddr (tSrc t) cs (tStride t 0x40)), dst⟩
  else
    let x := rows (cs.getD 1 0)
    if x == 0xFFFFFFFF || leAt t 0x1C 4 ≤ x then ⟨none, dst⟩
    else ⟨some (tAddr (tSrc t) [cs.getD 0 0, x] (tStride t 0x40)), dst⟩

/-- May an element join a run that its first elements began (R174)? -/
def joins (run : List Elem) (e : Elem) : Bool :=
  run.all (fun f => f.dst / 256 == e.dst / 256
    && (match f.src, e.src with | some a, some b => a / 256 == b / 256 | _, _ => true))

/-- The sector that begins at an element: at most 64 elements and 256 bytes. -/
def sectorFrom (t : Bytes) (elem : Nat → Elem) (total : Nat) : Nat → Nat → List Elem → List Elem
  | 0, _, run => run
  | fuel + 1, i, run =>
    if i < total && (run.length + 1) * tElem t ≤ 256 && joins run (elem i) then
      sectorFrom t elem total fuel (i + 1) (run ++ [elem i])
    else run

/-- Places of a destination on a remote pier: its pier-core windows only (R173). -/
def remotePlace (q a n : Nat) : Option (List Placed) :=
  match window (q * 8) 0 a with
  | some (k, .spad c o) =>
    if 1 ≤ k && k ≤ 8 && oneWindow (q * 8) a n then
      some ((List.range n).map (fun i => ⟨.spad c (o + i), false, false, 0, a + i⟩))
    else none
  | _ => none

/-- The entries of n rows of the index list from the first on, and the row behind the last one read: an entry that faults
ends the stretch before its row, so that the sectors before it are done (R174, R176). -/
def copygRows (s : State) (ag : Nat) (j : Job) (first n : Nat) : Got (List (Nat × Nat) × Nat) :=
  let addr (r : Nat) : Nat := (j.b.toNat + 4 * r) % 2 ^ 64
  let rec go : Nat → Nat → State → List (Nat × Nat) → Got (List (Nat × Nat) × Nat)
    | 0, r, s, acc => .ok s (acc, r)
    | fuel + 1, r, s, acc =>
      match engReadAt s ag j.who (addr r) 4 with
      | .fault s f => if acc.isEmpty then .fault s f else .ok s (acc, r)
      | .wait s => .wait s
      | .ok s bs => go fuel (r + 1) s (acc ++ [(r, leNat bs)])
  go n first s []

/-- Read a sector, check its destinations, then write it (R174). -/
def runSector (s : State) (p : Nat) (j : Job) (es : List Elem) : State :=
  let t := j.tmpl
  let n := tElem t
  let ag := jobAgent p j.id
  let w := j.who
  let srcs := es.filterMap (fun e => e.src)
  match firstFault s w .read n srcs with
  | some f => copyFault s p j f
  | none =>
    match engRead s ag w (srcs.flatMap (fun a => span a n)) with
    | .fault s f => copyFault s p j f
    | .wait s => s
    | .ok s bs =>
      let fill := leBytes n (leAt t 0x3C 4)
      let data : Bytes := (es.foldl (fun (acc : Bytes × Bytes) e =>
        match e.src with
        | some _ => (acc.1 ++ acc.2.take n, acc.2.drop n)
        | none => (acc.1 ++ fill, acc.2)) ([], bs)).1
      let done := { j with prog := j.prog + es.length, bytesDone := j.bytesDone + es.length * n }
      let next (s : State) : State :=
        if done.prog == tTotal t then copyEnd s p done false 0 0 else setJobOn s p done
      if tRemote t then
        let q := tRemotePier t
        match es.find? (fun e => (remotePlace q e.dst n).isNone) with
        | some e => copyFault s p j (addressFault e.dst)
        | none =>
          match engPut s ag j.jobid w (es.flatMap (fun e => (remotePlace q e.dst n).getD [])) data with
          | .fault s f => copyFault s p j f
          | .wait s => s
          | .ok s _ => next s
      else
        match firstFault s w .write n (es.map (fun e => e.dst)) with
        | some f => copyFault s p j f
        | none =>
          match engWrite s ag j.jobid w ((es.flatMap (fun e => span e.dst n)).zip data) with
          | .fault s f => copyFault s p j f
          | .wait s => s
          | .ok s _ => next s

/-- The next sector of a started job, once the writes of the one before have their outcome (R370). -/
def copyStep (s : State) (p : Nat) (j : Job) : State :=
  if !j.work.isEmpty then copyFinish s p j
  else if agentBusy s (jobAgent p j.id) then s
  else
    let t := j.tmpl
    let g := j.cmd == .copyg
    let total := tTotal t
    let plain : List Elem := sectorFrom t (elemAt t g (fun _ => 0)) total 64 j.prog []
    if !g then runSector s p j plain
    else
      let n0 := max (tCount t 0) 1
      let r0 := j.prog / n0
      let r1 := min ((j.prog + 63) / n0) (tCount t 1 - 1)
      match copygRows s (jobAgent p j.id) j r0 (r1 + 1 - r0) with
      | .fault s f => copyFault s p j f
      | .wait s => s
      | .ok s rows =>
        runSector s p j (sectorFrom t (elemAt t g (kget 0 rows.1)) (min total (rows.2 * n0)) 64 j.prog [])

/-! ### ZSCAN (R179) -/

/-- The tile of an address whose page must have TRK: its place, or the fault. -/
def trackedAt (s : State) (w : Who) (a : Nat) : Except AFault Placed :=
  match placeAll s w .read true [a] with
  | .error f => .error f
  | .ok (q :: _) => if q.trk then .ok q else .error (addressFault a)
  | .ok [] => .error (addressFault a)

/-- Local address of the header of a tracked place; a tracking entry or a header that is not resident is a PAGE (R255), one at an
address that no stack has is MEMERR (R243). -/
def headerOf (s : State) (agent vd va : Nat) : Except AFault Nat :=
  match headerPa s agent vd va with
  | some h => .ok h
  | none =>
    let a := headerLost s agent vd va
    if sysAbsent s vd a then .error ⟨.memerr, a, false⟩ else .error ⟨.page, a, true⟩

/-- What the caisson of a tile's home does for ZSCAN: Z is set when every byte of the tile reads zero; ZSCAN.ib sets the index
base and advances the generation (R159, R179). -/
def zscanHome (s : State) (h : Nat) (bs : Bytes) : Option Word → State
  | some b => bumpHeader { s with mem := memWrite s.mem (h + 8) (leBytes 8 b.toNat) } h
  | none =>
    if bs.all (fun b => b == 0) then
      { s with mem := memWrite s.mem h (leBytes 8 (setBits (leNat (memRead s.mem h 8)) 32 32 1)) }
    else s

/-- The next tile of a ZSCAN. The caisson of a tile's home at another module is asked, and answers (log 37): the request's
tag stands in `list`, and 1 behind it once the answer is here, or 2 where the tile's data are poisoned (R389). -/
def zscanStep (s : State) (p : Nat) (j : Job) : State :=
  let ib := j.cmd == .zscanIb
  let n := if ib then 1 else j.b.toNat
  let a := (j.a.toNat + 4096 * j.prog) % 2 ^ 64
  let next (s : State) : State :=
    let j := { j with prog := j.prog + 1, list := [] }
    if j.prog == n then endJob s p j .done else setJobOn s p j
  match trackedAt s j.who a with
  | .error f => jobFault s p j f
  | .ok q =>
    match q.loc with
    | .there t pa _ =>
      (match j.list with
      | [] =>
        let s := setJobOn { s with nextUid := s.nextUid + 1 } p { j with list := [s.nextUid] }
        s.emit (.system t (.zscan (s.nextUid - 1) pa (if ib then some j.b else none)))
      | [_] => s
      | [_, 2] => jobFault s p j ⟨.memerr, a, false⟩
      | _ => next s)
    | _ =>
      match trackFetch s (jobAgent p j.id) p j.who.vd [q] with
      | (s, true) => s
      | (s, false) =>
        match headerOf s (jobAgent p j.id) j.who.vd q.va with
        | .error f => jobFault s p j f
        | .ok h =>
          if ib then next (zscanHome s h [] (some j.b))
          else
            match engRead s (jobAgent p j.id) j.who (span a 4096) with
            | .fault s f => jobFault s p j f
            | .wait s => s
            | .ok s bs => next (zscanHome s h bs none)

/-- Start a ZSCAN: alignment and count. No address faults for a count out of range, and the rule names none: the model gives
the address a (log 92). -/
def zscanStart (s : State) (p : Nat) (j : Job) : State :=
  let q := startJob s p j
  if j.a.toNat % 4096 != 0 || (j.cmd == .zscan && !(1 ≤ j.b.toNat && j.b.toNat ≤ 65536)) then
    jobError q.1 p q.2 .address j.a.toNat
  else q.1

/-! ### CGATH and CSCAT (R180, R181) -/

/-- A job ends with ERROR at an address that the spec does not state: a free value (log 3). -/
def jobErrorFree (s : State) (p : Nat) (j : Job) (cause : Cause) : State :=
  endJob s.takeFree p { j with cause := cause, faddr := s.freeWord } .error

/-- Width of the offsets in bytes. -/
def offBytes (o16 : Bool) : Nat := if o16 then 2 else 1

/-- Index base of the tile that holds an address: the tracking entry, then the header, read by the hardware (R255). -/
def indexBase (s : State) (ag : Nat) (w : Who) (va : Nat) : Got Nat :=
  let sys : Who := { w with level := 3, strict := false, pure := false }
  let tr := match s.vdev? w.vd with | some v => v.tracking | none => 0
  match engReadAt s ag sys (tr + va / 65536 * 8) 8 with
  | .fault s f => .fault s f
  | .wait s => .wait s
  | .ok s h =>
    match engReadAt s ag sys (leNat h + va % 65536 / 4096 * 16 + 8) 8 with
    | .fault s f => .fault s f
    | .wait s => .wait s
    | .ok s b => .ok s (leNat b)

/-- Bytes that a CSCAT reads from scratchpad. -/
def scatBytes (scl : Bool) (count rsz : Nat) : Nat := if scl then rsz + 2 * count else count * rsz

/-- Start of CGATH and CSCAT: the checks, the list, the index base. The addresses of the rows stand in `list`. -/
def rowsStart (s : State) (p : Nat) (j : Job) (o16 : Bool) (n : Nat) : State :=
  let q := if j.started then (s, j) else startJob s p j
  let s := q.1
  let j := q.2
  let b := j.b.toNat
  let r := rowsOf b
  let a := j.a.toNat
  let len := r.1 * offBytes o16
  if !rowsOk j.core b n || a % 4096 + len > 4096 then jobErrorFree s p j .address
  else
    match trackedAt s j.who a with
    | .error f => jobFault s p j f
    | .ok q =>
      match engReadAt s (jobAgent p j.id) j.who a len with
      | .fault s f => jobFault s p j f
      | .wait s => s
      | .ok s bs =>
        match indexBase s (jobAgent p j.id) j.who q.va with
        | .fault s f => jobFault s p j f
        | .wait s => s
        | .ok s base =>
          setJobOn s p { j with tmpl := bs, list := (List.range r.1).map (fun i =>
            (base + leAt bs (i * offBytes o16) (offBytes o16) * r.2.1) % 2 ^ 64) }

/-- Start of an IMGLD, with what it read at issue (R232). -/
def imgldStart (s : State) (p : Nat) (j : Job) : State :=
  let q := startJob s p j
  match imgldParse j.core j.a.toNat j.b.toNat j.tmpl2 with
  | .error c => jobErrorFree q.1 p q.2 c
  | .ok (_, ws) => setJobOn q.1 p { q.2 with list := ws }

/-- Start of any command of the copy unit. -/
def copyUnitStart (s : State) (p : Nat) (j : Job) : State :=
  let r := rowsOf j.b.toNat
  match j.cmd with
  | .copy => copyStart s p j
  | .copyg => copyStart s p j
  | .zscan => zscanStart s p j
  | .zscanIb => zscanStart s p j
  | .cgath o16 => rowsStart s p j o16 (r.1 * r.2.1)
  | .cscat scl _ o16 => rowsStart s p j o16 (scatBytes scl r.1 r.2.1)
  | .imgld => imgldStart s p j
  | _ => s

/-- The started job of a core on the copy unit that has not ended. -/
def copyJobOf (s : State) (p core : Nat) : Option Job :=
  (s.pier p).jobs.find? (fun j => j.eng == .copy && j.core == core && j.started && !j.status.final)

/-- Must a started job read its template or list again, after a park in its start? -/
def unread (j : Job) : Bool :=
  j.status == .running && j.tmpl.isEmpty &&
    (match j.cmd with | .copy => true | .copyg => true | .cgath _ => true | .cscat _ _ _ => true | _ => false)

/-- COPY_JOB_START: the head command of a core starts, at most one started job a core (R313). -/
def execCopyJobStart (p core : Nat) (s : State) : Out :=
  match copyJobOf s p core with
  | some j => if unread j then eventDone (copyUnitStart s p j) else .next s
  | none =>
    match headOf s p .copy core with
    | (s, some j) => eventDone (copyUnitStart s p j)
    | (s, none) => eventDone s

/-- RING_CLAIM_RETRY: the head command tries its full ring again (R323). -/
def execRingClaimRetry (p core : Nat) (s : State) : Out :=
  match copyJobOf s p core, headOf s p .copy core with
  | none, (s, some j) => if j.cmd == .copy || j.cmd == .copyg then eventDone (copyStart s p j) else .next s
  | _, _ => .next s

/-- Can a core's started job take a sector of a COPY or COPYG, or a row of a CGATH, CSCAT or IMGLD? -/
def canGrant (s : State) (p k : Nat) : Bool :=
  match copyJobOf s p (p * 8 + k) with
  | some j => j.status == .running && !agentBusy s (jobAgent p j.id) && (match j.cmd with
      | .copy => !j.tmpl.isEmpty && (!s.quietPier p || !j.work.isEmpty)
      | .copyg => !j.tmpl.isEmpty && (!s.quietPier p || !j.work.isEmpty)
      | .imgld => true
      | .cgath _ => decide (j.work.length < j.list.length)
      | .cscat _ _ _ => decide (j.work.length < j.list.length)
      | _ => false)
  | none => false

/-- The rotation grants a row to this core: the state that counts the grant (R313). -/
def grantRow (s : State) (p core : Nat) : Option State :=
  match pickRot (s.pier p).rotC (weightOf s p) (canGrant s p) with
  | some (k, rot) => if p * 8 + k == core then some (s.setPier p { s.pier p with rotC := rot }) else none
  | none => none

/-- COPY_SECTOR: the rotation grants one sector (R174, R313). -/
def execCopySector (p : Nat) (s : State) : Out :=
  match pickRot (s.pier p).rotC (weightOf s p) (canGrant s p) with
  | none => .next s
  | some (k, rot) =>
    match copyJobOf s p (p * 8 + k) with
    | none => .next s
    | some j =>
      if j.cmd == .copy || j.cmd == .copyg then eventDone (copyStep (s.setPier p { s.pier p with rotC := rot }) p j)
      else .next s

/-- The next request of an IMGLD: its tag, then its row (R232). -/
def imgldStep (s : State) (p : Nat) (j : Job) : State :=
  let ag := jobAgent p j.id
  match imgldParse j.core j.a.toNat j.b.toNat j.tmpl2, j.list[j.prog]? with
  | .ok (d, _), some w =>
    let r := imgReq w
    let k := d.row r.s r.j r.e
    let next (s : State) : State :=
      let j := { j with prog := j.prog + 1 }
      if j.prog == j.list.length then endJob s p j .done else setJobOn s p j
    (match engReadAt s ag j.who (d.tagAddr k) 8 with
    | .fault s f => jobFault s p j f
    | .wait s => s
    | .ok s t =>
      let t := leNat t
      if !(tagValid t && tagId t == d.id) then next (setGranules s true (granuleKeys j.core r.buf d.rowBytes))
      else
        match engReadAt s ag j.who (d.rowAddr k) d.rowBytes with
        | .fault s f => jobFault s p j f
        | .wait s => s
        | .ok s row =>
          match engWriteAt s ag j.jobid j.who r.buf row with
          | .fault s f => jobFault s p j f
          | .wait s => s
          | .ok s _ => next (imgInstall s p d.id r.s r.j (tagLo t) (tagHi t) r.buf))
  | _, _ => s

/-- IMGLD_REQUEST: the rotation grants one row of an IMGLD (R203, R232). -/
def execImgldRequest (p : Nat) (s : State) : Out :=
  match pickRot (s.pier p).rotC (weightOf s p) (canGrant s p) with
  | none => .next s
  | some (k, rot) =>
    match copyJobOf s p (p * 8 + k) with
    | none => .next s
    | some j =>
      if j.cmd == .imgld then eventDone (imgldStep (s.setPier p { s.pier p with rotC := rot }) p j) else .next s

/-- COPY_RESUME: a parked job of the copy unit goes on once its fault is resolved (R174, R175). -/
def execCopyResume (p id : Nat) (s : State) : Out :=
  match jobOn? s p id with
  | none => .next s
  | some j =>
    if j.eng == .copy && j.status == .faulted && j.released && !s.quietPier p then
      let j := { j with status := .running, released := false, cause := .none, faddr := 0 }
      eventDone (setJobOn (if j.work.isEmpty then tryRecord s p j .running 0 0 else s) p j)
    else .next s

/-- ZSCAN_TILE: the next tile of a core's ZSCAN (R179). -/
def execZscanTile (p core : Nat) (s : State) : Out :=
  match copyJobOf s p core with
  | none => .next s
  | some j =>
    if (j.cmd == .zscan || j.cmd == .zscanIb) && j.status == .running then eventDone (zscanStep s p j) else .next s

/-- All rows are done and every remote write is answered. -/
def rowsDone (s : State) (p : Nat) (j : Job) : State :=
  if j.work.length == j.list.length && !agentBusy s (jobAgent p j.id) then endJob s p j .done else setJobOn s p j

/-- CGATH_ROW_ARRIVE: a row lands, in any order, when the rotation comes to its core (R180, R313). -/
def execCgathRowArrive (p core row : Nat) (s : State) : Out :=
  match copyJobOf s p core with
  | none => .next s
  | some j =>
    match j.cmd with
    | .cgath _ =>
      if j.status != .running || j.list.isEmpty || j.list.length ≤ row || j.work.contains row then .next s
      else
        match grantRow s p core with
        | none => .next s
        | some s =>
        let r := rowsOf j.b.toNat
        let ag := jobAgent p j.id
        match engReadAt s ag j.who (j.list.getD row 0) r.2.1 with
        | .fault s f => eventDone (jobFault s p j f)
        | .wait s => s.done
        | .ok s bs =>
          match engWriteAt s ag j.jobid j.who (r.2.2 + row * r.2.1) bs with
          | .fault s f => eventDone (jobFault s p j f)
          | .wait s => s.done
          | .ok s _ => eventDone (rowsDone s p { j with work := j.work ++ [row] })
    | _ => .next s

/-- The homes of a target row: of its first and last byte. -/
def rowHomes (s : State) (w : Who) (a n : Nat) : List (Nat × Nat) :=
  [a, a + n - 1].filterMap (fun b => match placeAll s w .write true [b] with
    | .ok (⟨.here pa, _, _, _, _⟩ :: _) => some (0, homeDeck pa)
    | .ok (⟨.there t _ _, _, _, _, _⟩ :: _) => some (1, t)
    | .ok (⟨.spad c _, _, _, _, _⟩ :: _) => some (2, c)
    | _ => none)

/-- May row i be applied now: every earlier row of a home of its own is done (R181)? -/
def rowDue (s : State) (j : Job) (rsz i : Nat) : Bool :=
  let mine := rowHomes s j.who (j.list.getD i 0) rsz
  (List.range i).all (fun k => j.work.contains k ||
    (let h := rowHomes s j.who (j.list.getD k 0) rsz
     !h.isEmpty && !mine.isEmpty && h.all (fun x => !mine.contains x)))

/-- Elements of a row after an add (R181): one rounding to nearest even, no flags. -/
def addRow (f : FloatFmt) (n : Nat) (alpha : Nat) (delta y : Bytes) : Bytes :=
  (List.range (y.length / n)).flatMap (fun i =>
    leBytes n (arithFma f Mods.none .nearest alpha (leAt delta (i * n) n) (leAt y (i * n) n)).1)

/-- n free bytes: what a scaled store leaves is not stated (R181, log 3). -/
def freeBytes (s : State) (n : Nat) : State × Bytes :=
  ({ s with free := s.free + (n + 7) / 8 },
    (List.range n).map (fun i => BitVec.ofNat 8 ((Config.openWord (s.free + i / 8)).toNat / 256 ^ (i % 8))))

/-- Is a byte of a target row at another module? -/
def rowAway (s : State) (j : Job) (a n : Nat) : Bool :=
  match placeAll s j.who .write true (span a n) with
  | .ok ps => ps.any (fun q => q.loc.isThere)
  | .error _ => false

/-- Row `row` is added element by element, since a part of it is at another module; `y` is the row as it was read. -/
def scatterSlow (s : State) (p : Nat) (j : Job) (row : Nat) (y : Bytes) : State :=
  setJobOn s p { j with use := some row, tmpl2 := y, prog2 := 1 }

/-- The parts of four bytes, from part i on, of a row of n bytes at a that lie whole at this module. -/
def partsHere (s : State) (j : Job) (a n i : Nat) : List Nat :=
  (List.range ((n + 3) / 4)).filter (fun k => i ≤ k && !j.ver.testBit k && !rowAway s j (a + 4 * k) (min 4 (n - 4 * k)))

/-- The next four bytes of that row, which is at a and has n bytes; `add` i is the sum for the four bytes from i on. Each element is
updated indivisibly at its home (R181): at another module by a CAS of what was read, which reads the row again when another agent has
been faster; at this module at once, and all that lie here in one operation, since the row is one write to its tile (R159). The
parts that are done so stand in `ver`. Four bytes that have more than one home are read and then written (log 93). -/
def scatterElem (s : State) (p : Nat) (j : Job) (row a n : Nat) (add : Nat → Bytes → Bytes) : Out :=
  let ag := jobAgent p j.id
  let i := 4 * j.prog
  let next (s : State) (j : Job) : Out :=
    eventDone (if i + 4 ≥ n then
        rowsDone s p { j with use := none, tmpl2 := [], prog := 0, prog2 := 0, ver := 0, work := j.work ++ [row] }
      else setJobOn s p { j with prog := j.prog + 1 })
  let old := (j.tmpl2.drop i).take 4
  let lost : Bool := s.arrived.any (fun x => x.agent == ag && x.fault == some .fabricUnknown)
  if j.ver.testBit j.prog then next s j
  else
  match placeAll s j.who .write true (span (a + i) 4) with
  | .error f => eventDone (jobFault s p j f)
  | .ok ps =>
    match remoteRuns (ps.map (fun q => (q.loc, ()))), ps with
    | [(t, pa, _, [_, _, _, _])], q :: _ =>
      if lost then eventDone (jobFault s p j ⟨.fabricUnknown, q.va, false⟩)
      else
        let d := deckOfPier p
        let s := dropLines s d (fun l => l.target == t && l.pier == p && l.pa < pa + 4 && pa < l.pa + 64)
        match remoteCas s ag t pa q.va 4 (leNat old) (leNat (add i old)) with
        | .fault s f => eventDone (jobFault s p j f)
        | .wait s => s.done
        | .ok s true => next s j
        | .ok s false => eventDone (setJobOn s p { j with prog2 := 0 })
    | _, _ =>
      let here := partsHere s j a n j.prog
      let ks := if here.contains j.prog then here else [j.prog]
      let as := ks.flatMap (fun k => span (a + 4 * k) (min 4 (n - 4 * k)))
      match engRead s ag j.who as with
      | .fault s f => eventDone (jobFault s p j f)
      | .wait s => s.done
      | .ok s now =>
        let new := (ks.zip (List.range ks.length)).flatMap (fun k => add (4 * k.1) ((now.drop (4 * k.2)).take 4))
        match engWrite s ag j.jobid j.who (as.zip new) with
        | .fault s f => eventDone (jobFault s p j f)
        | .wait s => s.done
        | .ok s _ => next s { j with ver := ks.foldl (fun m k => m ||| 2 ^ k) j.ver }

/-- CSCAT_ROW_APPLY: a row is applied at its home when the rotation comes to its core (R181, R313). The sums of a row of which a
part is at another module are formed element by element. -/
def execCscatRowApply (p core row : Nat) (s : State) : Out :=
  match copyJobOf s p core with
  | none => .next s
  | some j =>
    match j.cmd with
    | .cscat scl kind _ =>
      let r := rowsOf j.b.toNat
      let slow : Bool := j.use.isSome && j.prog2 == 1
      let sum (alpha : Nat) (delta y : Bytes) : Bytes :=
        if kind == .add32 then addRow .fp32 4 (alpha * 65536) delta y else addRow .bf16 2 alpha delta y
      if j.status != .running || j.list.isEmpty then .next s
      else if j.work.length == j.list.length then eventDone (rowsDone s p j)
      else if j.list.length ≤ row || j.work.contains row || !rowDue s j r.2.1 row then .next s
      else if j.use.any (fun k => k != row) then .next s
      else
        match (if slow then some s else grantRow s p core) with
        | none => .next s
        | some s =>
        let ag := jobAgent p j.id
        let a := j.list.getD row 0
        match engReadAt s ag j.who (r.2.2 + (if scl then 0 else row * r.2.1)) r.2.1 with
        | .fault s f => eventDone (jobFault s p j f)
        | .wait s => s.done
        | .ok s delta =>
          match (if scl then engReadAt s ag j.who (r.2.2 + r.2.1 + 2 * row) 2 else .ok s (leBytes 2 0x3F80)) with
          | .fault s f => eventDone (jobFault s p j f)
          | .wait s => s.done
          | .ok s al =>
          let alpha := leNat al
          let put (s : State) (bs : Bytes) : Out :=
            match engWriteAt s ag j.jobid j.who a bs with
            | .fault s f => eventDone (jobFault s p j f)
            | .wait s => s.done
            | .ok s _ => eventDone (rowsDone s p { j with work := j.work ++ [row] })
          (match kind with
          | .store =>
            if scl then
              let q := freeBytes s r.2.1
              put q.1 q.2
            else put s delta
          | _ =>
            if slow then scatterElem s p j row a r.2.1 (fun i y => sum alpha ((delta.drop i).take 4) y)
            else
              match engReadAt s ag j.who a r.2.1 with
              | .fault s f => eventDone (jobFault s p j f)
              | .wait s => s.done
              | .ok s y =>
                if rowAway s j a r.2.1 then eventDone (scatterSlow s p j row y) else put s (sum alpha delta y))
    | _ => .next s

end Sys2Proof.Machine
end

