-- ==== Sys2Proof/Machine/Matrix.lean ====
section
/-!
DEFINITION. The matrix engine: the truss bank and its split (R182 to R184), the accumulator store and its watermarks (R186,
R187), acceptance and conflicts (R184, R188, R189, R373), TRLD, TRFREE, MMA, ACRD, ACWR, ACZ, WMARK and ACCVT (R194 to R202).

Of a matrix job, `released` says that it is accepted, `dictId` is its place in the order of acceptance, `started` that it
has started, `ver` = 1 that it waits for the split of a SETC (R184), `list` the tiles and `use` the slots it uses once
started, `bytesDone` the watermark it found, `work` its partial results.
-/
namespace Sys2Proof.Machine

/-! ### The store and the bank -/

def trussRead (s : State) (p off n : Nat) : Bytes := memRead s.truss (p * 2 ^ 18 + off) n
def trussWrite (s : State) (p off : Nat) (bs : Bytes) : State :=
  { s with truss := memWrite s.truss (p * 2 ^ 18 + off) bs
           poison := if s.poison.isEmpty then s.poison else
             s.poison.filter (fun u => match u with
               | .truss q k => !(q == p && off ≤ k * 8 && k * 8 + 8 ≤ off + bs.length) | _ => true) }

def accRow (s : State) (p t r : Nat) : Bytes := memRead s.acc (p * 2 ^ 17 + t * 4096 + r * 128) 128
def setAccRow (s : State) (p t r : Nat) (bs : Bytes) : State :=
  { s with acc := memWrite s.acc (p * 2 ^ 17 + t * 4096 + r * 128) bs
           poison := s.poison.filter (fun u => match u with | .acc q k => !(q == p && k / 16 == t * 32 + r) | _ => true) }

/-- Watermark of a tile (R187). -/
def markOf (s : State) (p t : Nat) : Nat := kget 32 (s.pier p).marks t
def setMark (s : State) (p t w : Nat) : State :=
  s.setPier p { s.pier p with marks := if w == 32 then kdel t (s.pier p).marks else kput t w (s.pier p).marks }

def slotFree : Slot := ⟨false, 0, []⟩
def slotAt (s : State) (p n : Nat) : Slot := kget slotFree (s.pier p).slots n
def setSlot (s : State) (p n : Nat) (x : Slot) : State :=
  s.setPier p { s.pier p with slots := if x == slotFree then kdel n (s.pier p).slots else kput n x (s.pier p).slots }

/-- A slot becomes FREE; format and side field stay as TRLD left them (R193). -/
def unloadSlot (s : State) (p n : Nat) : State := setSlot s p n { slotAt s p n with loaded := false }

/-- Slots of the B region (R182). -/
def bSlots (s : State) (p : Nat) : Nat := 128 - 16 * (s.pier p).split

/-- The location word of MEMERR (R390). -/
def locWord (mem idx p : Nat) : Nat := 0xFF * 2 ^ 56 + mem * 2 ^ 52 + idx * 2 ^ 32 + pierY p * 2 ^ 16 + pierX p * 2 ^ 8

/-- The first poisoned row among bank bytes, and among rows of tiles. -/
def trussPoison (s : State) (p off n : Nat) : Option Nat :=
  s.poison.findSome? (fun u => match u with
    | .truss q k => if q == p && off < k * 8 + 8 && k * 8 < off + n then some (locWord 1 (k / 8) p) else none
    | _ => none)
def accPoison (s : State) (p t r : Nat) : Option Nat :=
  if s.poison.any (fun u => match u with | .acc q k => q == p && k / 16 == t * 32 + r | _ => false) then
    some (locWord 2 (t * 32 + r) p)
  else none

/-- A job reads an uncorrectable error in a memory of its pier: ERROR with MEMERR, counted at the pier's deck (R192, R389, R412). -/
def bankError (s : State) (p : Nat) (j : Job) (w : Nat) : State := jobError (countUncorr s (deckOfPier p)) p j .memerr w

/-! ### Formats of B (R183) -/

/-- The formats of A and B. -/
def matFmt (code : Nat) : Option Fmt :=
  match Fmt.ofCode code with
  | some .i8 => some .i8 | some .n8 => some .n8 | some .e4m3 => some .e4m3 | some .e5m2 => some .e5m2
  | some .bf16 => some .bf16 | some .e2m1x => some .e2m1x
  | _ => none

def bCols (f : Fmt) : Nat := if f == .e2m1x then 64 else 32
def bSlotsOf (f : Fmt) : Nat := if f == .bf16 then 2 else 1
def bRecord (f : Fmt) : Nat := match f with | .bf16 => 128 | .e2m1x => 34 | _ => 64
def matInt (f : Fmt) : Bool := f == .i8 || f == .n8

/-- Nibble k of a byte list: the code of element k (R58). -/
def nibble (bs : Bytes) (k : Nat) : Nat := (bs.getD (k / 2) 0).toNat / (if k % 2 == 0 then 1 else 16) % 16

/-- Column j of the B tile at a slot: its 64 elements. The bank keeps a column's bytes together. -/
def bColumn (s : State) (p slot : Nat) (f : Fmt) (j : Nat) : List FVal :=
  let base := slot * 2048
  if f == .e2m1x then
    let bs := trussRead s p (base + j * 32) 32
    let side := (slotAt s p slot).side
    (List.range 64).map (fun k => decodeE2 (leAt side (2 * j) 1) (leAt side (2 * j + 1) 1) (nibble bs k))
  else
    let n := fmtBits f / 8
    let bs := trussRead s p (base + j * 64 * n) (64 * n)
    (List.range 64).map (fun k => valueOf f (leAt bs (k * n) n))

/-- Elements of block blk of an A row of n blocks, trimmed (R68, R197). -/
def aBlock (f : Fmt) (trim n blk : Nat) (row : Bytes) : List FVal :=
  if f == .e2m1x then
    let bs := (row.drop (32 * blk)).take 32
    let sp := 32 * n + 2 * blk
    (List.range 64).map (fun k => trimE2 trim (leAt row sp 1) (leAt row (sp + 1) 1) (nibble bs k))
  else
    let w := fmtBits f / 8
    (List.range 64).map (fun k => trimValue f trim (leAt row ((64 * blk + k) * w) w))

def aRowLen (f : Fmt) (n : Nat) : Nat := match f with | .bf16 => 128 * n | .e2m1x => 34 * n | _ => 64 * n

/-! ### Operand words (R194, R195, R197) -/

structure RowOp where
  stride : Nat
  count : Nat
  first : Nat
  tile : Nat

def rowOp (b : Nat) : RowOp := ⟨bits b 47 32, bits b 21 16, bits b 12 8, bits b 4 0⟩

/-- A row operand word that is refused for rows of `len` bytes. -/
def rowOpBad (b len : Nat) : Bool :=
  let r := rowOp b
  bits b 63 48 != 0 || bits b 31 22 != 0 || bits b 15 13 != 0 || bits b 7 5 != 0 || r.count == 0 || r.first + r.count > 32
    || r.stride % 16 != 0 || r.stride < len

structure MmaOp where
  stride : Nat
  afmt : Option Fmt
  n : Nat
  slot : Nat
  tile : Nat

def mmaOp (a : Nat) : MmaOp := ⟨bits a 47 32, matFmt (bits a 27 24), bits a 21 16 + 1, bits a 14 8, bits a 4 0⟩

/-- Slots of an IMGBLD: f onward; how many is known at its start (R233). -/
def imgbldSlot (b : Nat) : Nat := bits b 30 24

/-! ### Conflicts (R188) -/

/-- Earlier-accepted jobs of the matrix engine that have not finished. -/
def earlier (s : State) (p : Nat) (j : Job) : List Job :=
  (s.pier p).jobs.filter (fun k => k.eng == .matrix && k.released && k.dictId < j.dictId && !k.status.final)

/-- n numbers from lo on. -/
def numsFrom (lo n : Nat) : List Nat := (List.range n).map (fun i => lo + i)

/-- The slots of a TRLD, and of a TRFREE. -/
def trldSlots (j : Job) : List Nat :=
  numsFrom (bits j.b.toNat 6 0) (if matFmt (bits j.b.toNat 11 8) == some .bf16 then 2 else 1)
def trfreeSlots (j : Job) : List Nat := numsFrom (bits j.a.toNat 6 0) (bits j.a.toNat 14 8 + 1)

/-- The format that a job which has not started will find at a slot: that of the last earlier TRLD of the slot, else the one it
has. -/
def bComing (s : State) (p : Nat) (j : Job) (slot : Nat) : Fmt :=
  let ks := (earlier s p j).filter (fun k => k.cmd == .trld && (trldSlots k).contains slot)
  let last := ks.foldl (fun (b : Option Job) k => match b with
    | none => some k
    | some i => if i.dictId < k.dictId then some k else some i) none
  (match last with
  | some k => matFmt (bits k.b.toNat 11 8)
  | none => matFmt (slotAt s p slot).fmt.toNat).getD .i8

/-- The tiles of an ACZ. -/
def aczTiles (j : Job) : List Nat := (List.range 32).filter (fun t => j.a.toNat.testBit t)

/-- Tiles that a job writes. -/
def tilesWritten (s : State) (p : Nat) (j : Job) : List Nat :=
  match j.cmd with
  | .mma _ _ =>
    let o := mmaOp j.a.toNat
    if j.started then j.list else numsFrom o.tile (bCols (bComing s p j o.slot) / 32)
  | .acwr => [(rowOp j.b.toNat).tile]
  | .acz => aczTiles j
  | _ => []

def tilesRead (j : Job) : List Nat :=
  match j.cmd with
  | .acrd => [(rowOp j.b.toNat).tile]
  | .accvt _ _ => [(rowOp j.b.toNat).tile]
  | _ => []

/-- Bytes that a job which has not started will read, as they stand now; not those of another module. -/
def peekFor (w : Who) (s : State) (a n : Nat) : Got Bytes :=
  match placeAll s w .read true (span a n) with
  | .error e => .fault s e
  | .ok ps => if ps.any (fun q => q.loc.isThere) then .wait s else .ok s (ps.map (fun q => readHere s q.loc))

/-- Slots of an IMGBLD that has not started: those of the O values of its descriptor (R233); all that one can have while the
descriptor does not lie in this module. -/
def imgbldSlots (s : State) (p : Nat) (j : Job) : Nat :=
  let f := bComing s p j (imgbldSlot j.b.toNat)
  match readImgDesc (peekFor j.who) s j.a.toNat with
  | .ok _ (d, r) => (match imgDesc? d r with | some x => x.o / bCols f * bSlotsOf f | none => 0)
  | _ => 64

/-- Slots that a job uses. -/
def slotsUsed (s : State) (p : Nat) (j : Job) : List Nat :=
  match j.cmd with
  | .mma _ _ =>
    let o := mmaOp j.a.toNat
    numsFrom o.slot (j.use.getD (o.n * bSlotsOf (bComing s p j o.slot)))
  | .imgbld => numsFrom (imgbldSlot j.b.toNat) (j.use.getD (imgbldSlots s p j))
  | .trld => trldSlots j
  | .trfree => trfreeSlots j
  | _ => []

def changesSlots (j : Job) : Bool := j.cmd == .trld || j.cmd == .trfree

/-! ### Order of one core's commands (R189, R373) -/

/-- A command that the accumulator port serves. -/
def onPort (c : Cmd) : Bool :=
  match c with | .acrd => true | .acwr => true | .acz => true | .accvt _ _ => true | _ => false

/-- The format of ACCVT (R202). -/
def accvtFmt (c : BitVec 4) : Option Fmt :=
  match Fmt.ofCode c.toNat with
  | some .bf16 => some .bf16 | some .fp16 => some .fp16 | some .e5m2 => some .e5m2 | some .e4m3 => some .e4m3
  | _ => none

/-- Bytes of a memory row of a port command. -/
def portRow (c : Cmd) : Nat :=
  match c with
  | .accvt _ f => 32 * (fmtBits ((accvtFmt f).getD .bf16) / 8)
  | _ => 128

/-- Address and length of each row of memory that a job reads or writes. -/
def rowsAt (j : Job) : List (Nat × Nat) :=
  let rows (a n stride len : Nat) : List (Nat × Nat) := (List.range n).map (fun i => ((a + i * stride) % 2 ^ 64, len))
  let b := j.b.toNat
  match j.cmd with
  | .mma _ _ => let o := mmaOp j.a.toNat; rows b 32 o.stride (aRowLen (o.afmt.getD .i8) o.n)
  | .trld => let f := (matFmt (bits b 11 8)).getD .i8; rows j.a.toNat (bCols f) (bits b 47 32) (bRecord f)
  | _ => if onPort j.cmd then rows j.a.toNat (rowOp b).count (rowOp b).stride (portRow j.cmd) else []

/-- The bytes that an IMGBLD has still to read or write (R233); `none` while its descriptor and list are not at hand. -/
def imgbldTouches (s : State) (j : Job) : Option (List (Nat × Nat)) :=
  let of (d : ImgDesc) (ws : List Nat) : List (Nat × Nat) := ws.flatMap (fun w =>
    let r := imgReq w
    [(d.rowAddr (d.row r.s r.j r.e), d.rowBytes), (d.tagAddr (d.row r.s r.j 0), 8 * d.v)]
      ++ (if r.ins then [(r.buf, d.rowBytes)] else []))
  if j.started then (imgDesc? j.tmpl (j.tmpl2.drop 64)).map (fun d => of d (j.list.drop j.prog2))
  else
    let n := bits j.b.toNat 47 40 + 1
    let l := bits j.b.toNat 23 0
    match readImgDesc (peekFor j.who) s j.a.toNat, peekFor j.who s l (8 * n) with
    | .ok _ (d, r), .ok _ ws =>
      (imgDesc? d r).map (fun x => (j.a.toNat, 64) :: (imgRecordAddr d, 64) :: (l, 8 * n) :: of x (reqWords ws n))
    | _, _ => none

/-- The bytes that a job has still to read or write: a TRLD reads all at its first step, an MMA at each block. -/
def touches (s : State) (j : Job) : Option (List (Nat × Nat)) :=
  match j.cmd with
  | .imgbld => imgbldTouches s j
  | .trld => some (if j.tmpl.isEmpty then rowsAt j else [])
  | .mma _ _ => some (if j.prog < (mmaOp j.a.toNat).n then rowsAt j else [])
  | _ => some (rowsAt j)

/-- Some bytes cut where a multiple of `unit` lies among them. -/
def cutAt (unit : Nat) (x : Nat × Nat) : List (Nat × Nat) :=
  (List.range ((x.1 % unit + x.2 + unit - 1) / unit)).map (fun i =>
    let lo := max x.1 ((x.1 / unit + i) * unit)
    (lo, min (x.1 + x.2) ((x.1 / unit + i + 1) * unit) - lo))

/-- Where some bytes lie, cut at the 64 KiB pages. -/
def placesOf (s : State) (w : Who) (x : Nat × Nat) : List (Loc × Nat) :=
  (cutAt 65536 x).filterMap (fun y =>
    match placeByte s w .read false y.1 with | .ok q => some (q.loc, y.2) | .error _ => none)

/-- Do two stretches share a byte? -/
def stretchesMeet : Loc × Nat → Loc × Nat → Bool
  | (.spad c a, n), (.spad d b, m) => c == d && a < b + m && b < a + n
  | (.here a, n), (.here b, m) => a < b + m && b < a + n
  | (.there t a _, n), (.there u b _, m) => t == u && a < b + m && b < a + n
  | _, _ => false

/-- May the bytes of two jobs share one? Bytes that are not at hand may be any; an array of more than 16 MiB is looked up by its
addresses alone. -/
def bytesMeet (s : State) (w v : Who) : Option (List (Nat × Nat)) → Option (List (Nat × Nat)) → Bool
  | some xs, some ys =>
    let places (w : Who) (zs : List (Nat × Nat)) : List (Loc × Nat) := (zs.filter (fun z => z.2 ≤ 2 ^ 24)).flatMap (placesOf s w)
    let ps := places w xs
    xs.any (fun x => ys.any (fun y => x.1 < y.1 + y.2 && y.1 < x.1 + x.2)) || (places v ys).any (fun y => ps.any (stretchesMeet y))
  | some [], none => false
  | none, some [] => false
  | _, _ => true

/-- Must a command that has not started wait for an earlier one of its core: to start, as it was issued first (R189), or to
finish, as both touch the same bytes (R373)? The port performs its commands of one core one after the other. -/
def waitsForOwn (s : State) (j : Job) (ks : List Job) : Bool :=
  !j.started && (ks.filter (fun k => k.core == j.core)).any (fun k =>
    !k.started || (!(onPort j.cmd && onPort k.cmd) && bytesMeet s j.who k.who (touches s j) (touches s k)))

/-- A writer has started on tile t; ACZ starts each of its tiles in turn (R200). -/
def writerStarted (k : Job) (t : Nat) : Bool :=
  k.started && (k.cmd != .acz || ((aczTiles k).take k.prog).contains t)

/-- Must a core's command wait for the split of a SETC that the core issued before it (R184)? -/
def splitHeld (s : State) (p : Nat) (j : Job) : Bool := j.ver == 1 && (s.pier p).split != (s.pier p).trsplit

/-- May a job start, or ACZ go on to tile `on`, by R184, R188 and R189? -/
def mayStart (s : State) (p : Nat) (j : Job) (on : Option Nat) : Bool :=
  let ks := earlier s p j
  let ws := match on with | some t => [t] | none => tilesWritten s p j
  let clashW := ks.any (fun k => ws.any (fun t =>
    (tilesWritten s p k).contains t || (tilesRead k).contains t))
  let clashR := ks.any (fun k => (tilesRead j).any (fun t => (tilesWritten s p k).contains t && !writerStarted k t))
  let mine := slotsUsed s p j
  let clashS := ks.any (fun k => (changesSlots j || changesSlots k) && (slotsUsed s p k).any (fun x => mine.contains x))
  !clashW && !clashR && !clashS && !waitsForOwn s j ks
    && (j.started || (!s.quietPier p && !splitHeld s p j))

/-! ### Acceptance (R188) -/

/-- Settle the guards of every core's head (R74). -/
def settleHeads (s : State) (p : Nat) (e : Engine) : State :=
  (List.range 8).foldl (fun s k => (headOf s p e (p * 8 + k)).1) s

/-- The head of core k that may be accepted. -/
def acceptable (s : State) (p k : Nat) : Option Job :=
  match queued s p .matrix (p * 8 + k) with
  | j :: _ =>
    if j.held.isNone && !j.released && !s.quietPier p then some j else none
  | [] => none

/-- WMARK starts, and completes once its tile's watermark is there (R201): the watermark goes to its register. -/
def tryWmark (s : State) (p : Nat) (j : Job) : State :=
  let a := j.a.toNat
  let b := j.b.toNat
  if a / 32 != 0 || bits b 63 6 != 0 || b > 32 then jobErrorFree s p j .illegal
  else if markOf s p a < b then (if j.started then s else setJobOn s p { j with started := true })
  else endJob (deliverReg s p j (BitVec.ofNat 64 (markOf s p a))) p { j with dreg := none } .done

/-- TRFREE frees its slots once nothing earlier uses them (R196). -/
def tryTrfree (s : State) (p : Nat) (j : Job) : State :=
  let a := j.a.toNat
  let r := trfreeSlots j
  if bits a 63 15 != 0 || bit a 7 || bits a 6 0 + r.length > bSlots s p then jobErrorFree s p j .illegal
  else endJob (r.foldl (fun s n => unloadSlot s p n) s) p j .done

/-- Complete every accepted WMARK and TRFREE that can complete now. -/
def settleMatrix (s : State) (p : Nat) : State :=
  ((s.pier p).jobs.filter (fun j => j.eng == .matrix && j.released && !j.status.final)).foldl (fun s j =>
    match j.cmd with
    | .wmark => if j.started || mayStart s p j none then tryWmark s p j else s
    | .trfree => if mayStart s p j none then tryTrfree s p j else s
    | _ => s) s

/-- Does a command stay at the head of its queue after acceptance (R189)? -/
def staysQueued (c : Cmd) : Bool :=
  match c with | .mma _ _ => true | .trld => true | .imgbld => true | _ => false

/-- MATRIX_ACCEPT: the lowest core whose head qualifies (R188). -/
def execMatrixAccept (p : Nat) (s : State) : Out :=
  let s := settleHeads s p .matrix
  match (List.range 8).findSome? (acceptable s p) with
  | none => eventDone (settleMatrix s p)
  | some j =>
    let n := ((s.pier p).jobs.filter (fun k => k.eng == .matrix && k.released)).foldl (fun m k => max m k.dictId) 0
    let j := { j with released := true, dictId := n + 1, inq := staysQueued j.cmd, started := false }
    eventDone (settleMatrix (setJobOn s p j) p)

/-- The end of an event of the matrix engine. -/
def matrixDone (s : State) (p : Nat) : Out := eventDone (settleMatrix s p)

/-! ### The commands -/

def execTrld (o : E3) (s : State) : Out := cmd3 s .matrix .trld o true
def execTrfree (o : EDA) (s : State) : Out := cmd2 s .matrix .trfree o true
def execMma (o : EMma) (s : State) : Out :=
  issueCmd s .matrix (.mma (2 * o.trim.toNat) o.ow) o.d [waits o.a, waits o.b] true noMark (fun x => x.getS o.a)
    (fun x => x.getS o.b)
def execAcrd (o : E3) (s : State) : Out := cmd3 s .matrix .acrd o true
def execAcwr (o : E3) (s : State) : Out := cmd3 s .matrix .acwr o true
def execAcz (o : EDA) (s : State) : Out := cmd2 s .matrix .acz o true
def execWmark (o : E3) (s : State) : Out := cmd3 s .matrix .wmark o true
def execAccvt (o : EAccvt) (s : State) : Out :=
  issueCmd s .matrix (.accvt o.sat o.f) o.d [waits o.a, waits o.b] true noMark (fun x => x.getS o.a) (fun x => x.getS o.b)

/-! ### MMA (R197) -/

/-- B slots from `slot` on, `n` tiles: in the B region, loaded, of one format, even for BF16. The format. -/
def bOperand (s : State) (p slot n : Nat) : Option Fmt :=
  let x := slotAt s p slot
  match matFmt x.fmt.toNat with
  | none => none
  | some f =>
    let cnt := n * bSlotsOf f
    if slot + cnt ≤ bSlots s p && (f != .bf16 || slot % 2 == 0)
        && (List.range cnt).all (fun i => let y := slotAt s p (slot + i); y.loaded && y.fmt == x.fmt) then some f
    else none

/-- What an MMA finds at its start: an error, or the formats of A and B. -/
def mmaCheck (s : State) (p : Nat) (j : Job) : Except Cause (Fmt × Fmt) :=
  let a := j.a.toNat
  let b := j.b.toNat
  let o := mmaOp a
  match o.afmt, bOperand s p o.slot o.n with
  | some af, some bf =>
    let len := aRowLen af o.n
    if bits a 63 48 != 0 || bits a 31 28 != 0 || bits a 23 22 != 0 || bit a 15 || bits a 7 5 != 0
        || matInt af != matInt bf || (bCols bf == 64 && o.tile == 31) || o.stride % 16 != 0 || o.stride < len then
      .error .illegal
    else if b % 16 != 0 || !inSpad j.core b (31 * o.stride + len) then .error .address
    else .ok (af, bf)
  | _, _ => .error .illegal

/-- FP32 elements of a list of words as bytes. -/
def words32 (ws : List Nat) : Bytes := ws.flatMap (leBytes 4)

/-- Is the array in the last block of an MMA whose rows have not all completed (R191)? -/
def arrayBusy (s : State) (p : Nat) : Option Job :=
  (s.pier p).jobs.find? (fun j => match j.cmd with
    | .mma _ _ => j.started && !j.status.final && j.prog == (mmaOp j.a.toNat).n
    | _ => false)

/-- One block of an MMA (R67): every row and column. The first block starts the job; the last leaves the head. -/
def mmaBlock (s : State) (p : Nat) (j : Job) (trim : Nat) (ow : Bool) : State :=
  let o := mmaOp j.a.toNat
  match (if j.started then
      (match o.afmt, matFmt (slotAt s p o.slot).fmt.toNat with | some f, some g => Except.ok (f, g) | _, _ => .error .illegal)
    else mmaCheck s p j) with
  | .error c => jobErrorFree s p { j with inq := false } c
  | .ok (af, bf) =>
    let cols := bCols bf
    let tiles := if cols == 64 then [o.tile, o.tile + 1] else [o.tile]
    let wide := bSlotsOf bf
    let poisoned := (tiles.flatMap (fun t => if ow then [] else (List.range 32).filterMap (accPoison s p t))).head?
    let bad := match trussPoison s p ((o.slot + wide * j.prog) * 2048) (wide * 2048) with
      | some w => some w
      | none => if j.started then none else poisoned
    match bad with
    | some w => bankError (if j.started then tiles.foldl (fun s t => setMark s p t 32) s else s) p { j with inq := false } w
    | none =>
      let start := !j.started
      let s := if start then tiles.foldl (fun s t => setMark s p t 0) s else s
      let init : List Nat :=
        if !start then j.work
        else if ow then List.replicate (32 * cols) 0
        else (List.range 32).flatMap (fun i => tiles.flatMap (fun t =>
          let r := accRow s p t i
          (List.range 32).map (fun k => leAt r (4 * k) 4)))
      let len := aRowLen af o.n
      let wh := j.who
      match engRead s (jobAgent p j.id) wh ((List.range 32).flatMap (fun i => span (j.b.toNat + i * o.stride) len)) with
      | .wait s => s
      | .fault s f => jobError (tiles.foldl (fun s t => setMark s p t 32) s) p { j with inq := false } f.cause f.faddr
      | .ok s bytes =>
        let bs := (List.range cols).map (bColumn s p (o.slot + wide * j.prog) bf)
        let out : List (Nat × Flags) := (List.range 32).flatMap (fun i =>
          let av := aBlock af trim o.n j.prog ((bytes.drop (i * len)).take len)
          (bs.zip ((init.drop (i * cols)).take cols)).map (fun bc => blockAdd bc.2 (blockSum av bc.1)))
        let n := j.prog + 1
        let s := s.countEvent p 14 1
        setJobOn s p { j with started := true, inq := n < o.n, prog := n, prog2 := 0, list := tiles
                              use := some (o.n * wide), work := out.map Prod.fst
                              flags := j.flags ||| orFlags (out.map Prod.snd) }

/-- MMA_ROW_COMPLETE: the next output row of the MMA in its last block (R187, R191). -/
def execMmaRowComplete (p : Nat) (s : State) : Out :=
  match arrayBusy s p with
  | none => matrixDone s p
  | some j =>
    let r := j.prog2
    let tiles := j.list
    let cols := 32 * tiles.length
    let s := (tiles.zip (List.range tiles.length)).foldl (fun s t =>
      let s := setAccRow s p t.1 r (words32 ((j.work.drop (r * cols + 32 * t.2)).take 32))
      if markOf s p t.1 == r then setMark s p t.1 (r + 1) else s) s
    if r + 1 == 32 then
      matrixDone (endJob (tiles.foldl (fun s t => setMark s p t 32) s) p { j with work := [], prog2 := 32 } .done) p
    else matrixDone (setJobOn s p { j with prog2 := r + 1 }) p

/-! ### TRLD (R195) -/

/-- A TRLD whose operands are refused at its start. -/
def trldBad (s : State) (p b : Nat) : Bool :=
  match matFmt (bits b 11 8) with
  | none => true
  | some f =>
    bits b 63 48 != 0 || bits b 31 12 != 0 || bit b 7 || bits b 6 0 + bSlotsOf f > bSlots s p
      || (f == .bf16 && bits b 6 0 % 2 != 0) || bits b 47 32 % 16 != 0 || bits b 47 32 < bRecord f

/-- What the ERROR of a started job leaves: the slots of a TRLD are FREE (R195), the watermark of an ACWR is that of its end
(R187). -/
def matClose (s : State) (p : Nat) (j : Job) : State :=
  if !j.started then s
  else
    match j.cmd with
    | .trld => (trldSlots j).foldl (fun s n => unloadSlot s p n) s
    | .acwr =>
      let r := rowOp j.b.toNat
      setMark s p r.tile (max (r.first + r.count) j.bytesDone)
    | _ => s

/-- A job of the matrix engine meets a fault (R192): PAGE parks it, accepted as it is; a page that a host owns is asked for
(R401). -/
def matFault (s : State) (p : Nat) (j : Job) (f : AFault) : State :=
  if f.cause == .page then
    setJobOn (askReclaim s j.who.vd f.faddr) p { j with cause := f.cause, faddr := BitVec.ofNat 64 f.faddr, status := .faulted }
  else jobFault (matClose s p j) p j f

/-- A job of the matrix engine ends with ERROR from outside its own steps, as when the pager passes its PAGE on. -/
def matPassOn (s : State) (p : Nat) (j : Job) (cause : Cause) (va : Nat) : State :=
  settleMatrix (jobError (matClose s p j) p { j with inq := false } cause va) p

/-- A started TRLD meets a fault. -/
def trldFault (s : State) (p : Nat) (j : Job) (f : AFault) : State := matFault s p { j with inq := f.cause == .page } f

/-- One slot write of a TRLD: the first reads every column record. A TRLD that its checks refuse performs nothing: its slots
stay as they were (log 92: R195 also says that a slot of a TRLD that ends with ERROR is FREE). -/
def trldStep (s : State) (p : Nat) (j : Job) : State :=
  let b := j.b.toNat
  if !j.started && trldBad s p b then jobErrorFree s p { j with inq := false } .illegal
  else
    let f := (matFmt (bits b 11 8)).getD .i8
    let len := bRecord f
    let cols := bCols f
    let w := j.who
    let j := { j with started := true }
    let at_ (c : Nat) : Nat := (j.a.toNat + c * bits b 47 32) % 2 ^ 64
    let go (s : State) (data : Bytes) : State :=
      let slot := bits b 6 0
      let codes (c : Nat) : Bytes := (data.drop (c * len)).take (if f == .e2m1x then 32 else len)
      let body := (List.range cols).flatMap codes
      let side := if f == .e2m1x then (List.range cols).flatMap (fun c => (data.drop (c * len + 32)).take 2) else []
      let s := trussWrite s p ((slot + j.prog) * 2048) ((body.drop (j.prog * 2048)).take 2048)
      let n := j.prog + 1
      if n == bSlotsOf f then
        let x : Slot := ⟨true, BitVec.ofNat 4 f.code, side⟩
        endJob ((List.range n).foldl (fun s i => setSlot s p (slot + i) x) s) p { j with prog := n, tmpl := [] } .done
      else setJobOn s p { j with prog := n, tmpl := data }
    if !j.tmpl.isEmpty then go s j.tmpl
    else
      match firstFault s w .read len ((List.range cols).map at_) with
      | some e => trldFault s p j e
      | none =>
        match engRead s (jobAgent p j.id) w ((List.range cols).flatMap (fun c => span (at_ c) len)) with
        | .wait s => setJobOn s p j
        | .fault s e => trldFault s p j e
        | .ok s data => go s data

/-! ### The accumulator port (R190, R198, R199, R202) -/

/-- The oldest accepted command of core k on the port. -/
def portJob (s : State) (p k : Nat) : Option Job :=
  ((s.pier p).jobs.filter (fun j => j.eng == .matrix && j.core == p * 8 + k && j.released && !j.status.final && onPort j.cmd)).foldl
    (fun b j => match b with | none => some j | some i => if j.dictId < i.dictId then some j else some i) none

/-- Can core k's port command take a step now (R187, R188, R190)? -/
def portReady (s : State) (p k : Nat) : Bool :=
  match portJob s p k with
  | none => false
  | some j =>
    let r := rowOp j.b.toNat
    if j.status != .running then false
    else
      match j.cmd with
      | .acz =>
        let ts := aczTiles j
        (j.prog ≥ ts.length) || mayStart s p j (some (ts.getD j.prog 0))
      | _ =>
        if !j.started then mayStart s p j none
        else if agentBusy s (jobAgent p j.id) then false
        else if j.prog == r.count then true
        else j.cmd == .acwr || markOf s p r.tile > r.first + j.prog

/-- Start of a row command: the error of its checks. -/
def portCheck (j : Job) : Option Cause :=
  let len := portRow j.cmd
  let r := rowOp j.b.toNat
  match j.cmd with
  | .accvt _ f =>
    if (accvtFmt f).isNone || rowOpBad j.b.toNat len then some .illegal
    else if !inSpad j.core j.a.toNat ((r.count - 1) * r.stride + len) then some .address
    else none
  | _ => if rowOpBad j.b.toNat len then some .illegal else none

/-- One element of ACCVT: nearest even, with the saturate bit, by the rows of R62 (R202). -/
def accvtElem (f : Fmt) (sat : Bool) (x : Nat) : Nat × Flags :=
  match floatOf f with
  | some ff => finishCvt ff { Mods.none with sat := sat } .nearest (decodeFloat .fp32 x)
  | none => (0, 0)

/-- One row of a port command. -/
def portStep (s : State) (p : Nat) (j : Job) : State :=
  let r := rowOp j.b.toNat
  match (if j.started then none else portCheck j) with
  | some c => jobErrorFree s p j c
  | none =>
    if j.prog == r.count then endJob s p j .done
    else
      let start := !j.started
      let old := markOf s p r.tile
      let s := if start && j.cmd == .acwr then setMark s p r.tile (min old r.first) else s
      let j := if start then { j with started := true, bytesDone := old } else j
      let row := r.first + j.prog
      let at_ := (j.a.toNat + j.prog * r.stride) % 2 ^ 64
      let ag := jobAgent p j.id
      let last (s : State) (j : Job) : State :=
        if j.prog == r.count && !agentBusy s ag then endJob s p j .done else setJobOn s p j
      match j.cmd with
      | .acwr =>
        (match engReadAt s ag j.who at_ 128 with
        | .fault s f => matFault s p j f
        | .wait s => setJobOn s p j
        | .ok s bs =>
          let s := setAccRow s p r.tile row bs
          let s := if markOf s p r.tile == row then setMark s p r.tile (row + 1) else s
          let j := { j with prog := j.prog + 1 }
          let s := if j.prog == r.count then setMark s p r.tile (max (r.first + r.count) j.bytesDone) else s
          last s j)
      | _ =>
        if !(markOf s p r.tile > row) then setJobOn s p j
        else
          match accPoison s p r.tile row with
          | some w => bankError s p j w
          | none =>
            let bs := accRow s p r.tile row
            let conv : Bytes × Flags := match j.cmd with
              | .accvt sat f =>
                let g := (accvtFmt f).getD .bf16
                let es := (List.range 32).map (fun k => accvtElem g sat (leAt bs (4 * k) 4))
                (es.flatMap (fun e => leBytes (fmtBits g / 8) e.1), orFlags (es.map Prod.snd))
              | _ => (bs, 0)
            match engWriteAt s ag j.jobid j.who at_ conv.1 with
            | .fault s f => matFault s p j f
            | .wait s => setJobOn s p j
            | .ok s _ => last s { j with prog := j.prog + 1, flags := j.flags ||| conv.2 }

/-- The core whose port command steps next. -/
def portPick (s : State) (p : Nat) : Option (Nat × (Nat × Nat)) := pickRot (s.pier p).rotA (fun _ => 1) (portReady s p)

/-- ACC_PORT_ROW: the port serves one row of ACRD, ACWR or ACCVT (R190). -/
def execAccPortRow (p : Nat) (s : State) : Out :=
  match portPick s p with
  | none => .next s
  | some (k, rot) =>
    match portJob s p k with
    | none => .next s
    | some j =>
      if j.cmd == .acz then .next s
      else matrixDone (portStep (s.setPier p { s.pier p with rotA := rot }) p j) p

/-- ACZ_TILE: the next tile of an ACZ becomes +0 (R200). -/
def execAczTile (p : Nat) (s : State) : Out :=
  match portPick s p with
  | none => .next s
  | some (k, rot) =>
    match portJob s p k with
    | none => .next s
    | some j =>
      if j.cmd != .acz then .next s
      else
        let s := s.setPier p { s.pier p with rotA := rot }
        if j.a.toNat / 2 ^ 32 != 0 then matrixDone (jobErrorFree s p j .illegal) p
        else
          let ts := aczTiles j
          match ts[j.prog]? with
          | none => matrixDone (endJob s p j .done) p
          | some t =>
            let base := p * 2 ^ 17 + t * 4096
            let s := { s with acc := memClear s.acc base (base + 4096)
                              poison := s.poison.filter (fun u => match u with
                                | .acc q k => !(q == p && k / 512 == t) | _ => true) }
            let s := setMark s p t 32
            let j := { j with started := true, prog := j.prog + 1 }
            matrixDone (if j.prog == ts.length then endJob s p j .done else setJobOn s p j) p

end Sys2Proof.Machine
end

