-- ==== Sys2Proof/Machine/Span.lean ====
section
/-!
DEFINITION. The span engine: dictionary slots (R207 to R209, R225, R226), ENC and DEC (R216, R227, R228), versions and
announcements (R219 to R221, R229), the table controller (R230, R231, R234), ACCI (R235, R236), and their events (R203 to
R206, R373); the encoder's grants are in Bus.

Of a span-engine job: `ver` and `dictId` are version and id; `prog` counts groups, spans, or the phases of a DATOM. ENC: `work`
holds stream words that have no room yet, `bytesDone` the bytes emitted, `tmpl` the first granule of a message in memory.
DEC and ACCI: `list` holds the words of the message. ACCI: `tmpl` the template, `tmpl2` image descriptor and row record,
`work` the sums y, `prog2` the terms done of the span, `ring` the term at which it stalls, `bytesDone` its final status plus
one once only the status word is missing, `use` that this word is on its way (1) or waits for its page (0); while parked, `prog` is the order of parking,
`prog2` of release, and `sent` says that its message lies in the park area.
-/
namespace Sys2Proof.Machine

/-! ### Dictionary slots (R208) -/

def dslotEmpty : DSlot := ⟨.empty, 0, 0, 0, 0, 0, 0⟩
def dslotAt (s : State) (p n : Nat) : DSlot := kget dslotEmpty (s.pier p).dslots n
def setDslot (s : State) (p n : Nat) (x : DSlot) : State :=
  let y := s.pier p
  s.setPier p { y with dslots := if x.state == .empty then kdel n y.dslots else kput n x y.dslots }

/-- Atom j of a slot: a row of the bank. -/
def atomAt (s : State) (p : Nat) (d : DSlot) (j : Nat) : Bytes := trussRead s p ((d.row + j) * 64) 64

def normKey (p slot j : Nat) : Nat := p * 8192 + slot * 2048 + j
def normAt (s : State) (p slot j : Nat) : Nat := (kget 0 s.norms (normKey p slot j)).toNat

/-- Write an atom and its factor. -/
def putAtom (s : State) (p slot row j : Nat) (bs : Bytes) : State :=
  let s := trussWrite s p ((row + j) * 64) bs
  { s with norms := kput (normKey p slot j) (normOf bs) s.norms }

/-- Write atoms and their factors to a slot of n atoms. A protection unit of two factors is whole again once both that the slot
uses are written (R388, R389). -/
def putAtoms (s : State) (p slot row n : Nat) (xs : List (Nat × Bytes)) : State :=
  let s := xs.foldl (fun s x => putAtom s p slot row x.1 x.2) s
  let has (i : Nat) : Bool := n ≤ i || xs.any (fun x => x.1 == i)
  { s with poison := if s.poison.isEmpty then s.poison else s.poison.filter (fun u => match u with
      | .norm q k => !(q == p && k / 1024 == slot && xs.any (fun x => x.1 / 2 == k % 1024)
          && has (2 * (k % 1024)) && has (2 * (k % 1024) + 1))
      | _ => true) }

/-- Is the protection unit of a factor poisoned? -/
def normPoisoned (s : State) (p slot j : Nat) : Bool := s.poison.contains (.norm p ((slot * 2048 + j) / 2))

/-- The first poisoned row or factor among atoms of a slot, as a location word (R389, R390). -/
def slotPoison (s : State) (p slot : Nat) (d : DSlot) (js : List Nat) : Option Nat :=
  if s.poison.isEmpty then none
  else
    match js.findSome? (fun j => trussPoison s p ((d.row + j) * 64) 64) with
    | some w => some w
    | none => js.findSome? (fun j =>
        if normPoisoned s p slot j then some (locWord 3 (slot * 2048 + j) p) else none)

/-- Is one of the two protection units of an image entry poisoned? -/
def entryPoisoned (s : State) (p n : Nat) : Bool := s.poison.any (fun u => match u with
  | .image q k => q == p && k / 2 == n | _ => false)

/-! ### Sections and the order of starts (R203 to R205) -/

def onEncoder (c : Cmd) : Bool := match c with | .dinst => true | .datom => true | .enc => true | .dec => true | _ => false
def onTable (c : Cmd) : Bool := match c with | .dver => true | .dret => true | .dqry => true | .imginv => true | _ => false

/-- The dictionary slot that a job uses. -/
def slotOf (j : Job) : Option Nat :=
  let b := j.b.toNat
  match j.cmd with
  | .dinst => some (b % 4)
  | .datom => some (bits b 17 16)
  | .enc => some j.encdict
  | .dec => some (bits b 33 32)
  | .imgbld => some (bits b 33 32)
  | _ => none

def changesDict (c : Cmd) : Bool := c == .dinst || c == .datom

/-- Started jobs of a pier that use a slot. -/
def slotJobs (s : State) (p slot : Nat) : List Job :=
  (s.pier p).jobs.filter (fun j => j.started && !j.status.final && slotOf j == some slot)

/-- Does R205 let a job start? -/
def slotFreeFor (s : State) (p : Nat) (j : Job) : Bool :=
  match slotOf j with
  | none => true
  | some n =>
    let ks := (slotJobs s p n).filter (fun k => k.id != j.id)
    if changesDict j.cmd then ks.isEmpty else !ks.any (fun k => changesDict k.cmd)

/-- The started job of a section at a core. -/
def encJob (s : State) (p core : Nat) : Option Job :=
  (s.pier p).jobs.find? (fun j => j.eng == .span && onEncoder j.cmd && j.core == core && j.started && !j.status.final)
def accJob (s : State) (p core : Nat) : Option Job :=
  (s.pier p).jobs.find? (fun j => j.cmd == .acci && j.core == core && j.started && !j.status.final)

/-- Parked jobs of a core that an announcement has released, and that waits to restart (R221). -/
def releasedJobs (s : State) (p core : Nat) : List Job :=
  (s.pier p).jobs.filter (fun j => j.cmd == .acci && j.core == core && j.status == .parkedVersion && j.released)

/-- The least job by a number. -/
def leastBy (f : Job → Nat) (js : List Job) : Option Job :=
  match js with
  | [] => none
  | j :: rest => some (rest.foldl (fun b k => if f k < f b then k else b) j)

/-! ### Jobs that end with ERROR -/

/-- What a check of operands comes to: an ERROR of a cause at a free address. -/
def refuse (s : State) (p : Nat) (j : Job) (c : Cause) : State := jobErrorFree s p j c

/-- A started job of the span engine meets a fault (R172, R206). -/
def spanFault (s : State) (p : Nat) (j : Job) (f : AFault) : State := jobFault s p j f

/-! ### DINST (R225) -/

/-- An address as a slot records it, so that it names the same bytes for every core of the pier: an own-scratchpad address by the window
of that core, a stack address by its virtual address (R151, R225). -/
def recordedAt (w : Who) (a : Nat) : Nat :=
  match window w.core w.stk a with
  | some (_, .spad c o) => 1048576 + c % 8 * 131072 + o
  | some (_, .stack va) => va
  | _ => a

/-- What a DINST records once its atoms are in the bank: the descriptor's id, version, N and p, and the addresses of the descriptor and
of its atom array. -/
def dinstSlot (j : Job) : DSlot :=
  ⟨.ready, leAt j.tmpl 8 2, leAt j.tmpl 10 2, leAt j.tmpl 12 2, leAt j.tmpl 14 2, recordedAt j.who j.a.toNat,
    recordedAt j.who (leAt j.tmpl 0 8)⟩

/-- Does another slot keep a row of lo to hi − 1, or write it for a DINST that is in its groups (log 92)? -/
def rowsKept (s : State) (p slot lo hi : Nat) : Bool :=
  let meets (x : DSlot) : Bool := x.row < hi && lo < x.row + x.n
  let writes (j : Job) : Bool := j.cmd == .dinst && j.started && !j.status.final && !j.tmpl.isEmpty && j.b.toNat % 4 != slot
  (s.pier p).dslots.any (fun d => d.1 != slot && meets d.2) || (s.pier p).jobs.any (fun j => writes j && meets (dinstSlot j))

def dinstGo (s : State) (p : Nat) (j : Job) : State :=
  let b := j.b.toNat
  let slot := b % 4
  let ag := jobAgent p j.id
  if b / 4 != 0 then refuse s p j .illegal
  else if j.a.toNat % 32 != 0 then refuse s p j .address
  else
    match engReadAt s ag j.who j.a.toNat 32 with
    | .fault s f => spanFault s p j f
    | .wait s => s
    | .ok s d =>
      let arr := leAt d 0 8
      let n := leAt d 12 2
      let row := leAt d 14 2
      if leAt d 16 16 != 0 || leAt d 10 2 == 0xFFFF then refuse s p j .illegal
      else if n == 0 then endJob (setDslot s p slot dslotEmpty) p j .done
      else if n > 2048 || row % 32 != 0 || row + n > 4096 || row < 32 * bSlots s p || rowsKept s p slot row (row + n) then
        refuse s p j .illegal
      else if arr % 64 != 0 then refuse s p j .address
      else
        match engReadAt s ag j.who arr (64 * n) with
        | .fault s f => spanFault s p j f
        | .wait s => s
        | .ok s bs =>
          match (List.range n).find? (fun i => atomBad ((bs.drop (64 * i)).take 64)) with
          | some i => jobError s p j .badAtom (arr + 64 * i)
          | none =>
            setJobOn (setDslot s p slot { dslotAt s p slot with state := .installing }) p { j with tmpl := d, tmpl2 := bs }

/-- One group of up to 32 rows with their factors; after the last the slot takes its new items and is READY. -/
def dinstGroup (s : State) (p : Nat) (j : Job) : State :=
  let slot := j.b.toNat % 4
  let x := dinstSlot j
  let is := (List.range 32).filterMap (fun i => if 32 * j.prog + i < x.n then some (32 * j.prog + i) else none)
  let s := putAtoms s p slot x.row x.n (is.map (fun i => (i, (j.tmpl2.drop (64 * i)).take 64)))
  if 32 * (j.prog + 1) ≥ x.n then
    endJob (setDslot s p slot x) p { j with prog := j.prog + 1, tmpl2 := [] } .done
  else setJobOn s p { j with prog := j.prog + 1 }

/-! ### DATOM (R226) -/

/-- The bank first, then the atom array and the descriptor's version. The atom array is the one whose address DINST read from the
descriptor: it is not read again there (log 92). -/
def datomGo (s : State) (p : Nat) (j : Job) : State :=
  let b := j.b.toNat
  let slot := bits b 17 16
  let n := bits b 11 0
  let x := dslotAt s p slot
  let ag := jobAgent p j.id
  let rec go : Nat → State → Job → State
    | 0, s, _ => s
    | fuel + 1, s, j =>
      match j.prog with
      | 0 =>
        if bits b 15 12 != 0 || bits b 63 18 != 0 then refuse s p j .illegal
        else if x.state != .ready || x.n ≤ n || x.ver == 0xFFFE then refuse s p j .illegal
        else if j.a.toNat % 64 != 0 then refuse s p j .address
        else
          match engReadAt s ag j.who j.a.toNat 64 with
          | .fault s f => spanFault s p j f
          | .wait s => s
          | .ok s bs =>
            if atomBad bs then jobError s p j .badAtom j.a.toNat
            else
              let s := putAtoms s p slot x.row x.n [(n, bs)]
              let s := setDslot s p slot { x with ver := x.ver + 1 }
              let j := { j with prog := 1, tmpl := bs, ver := x.ver + 1 }
              go fuel (setJobOn s p j) j
      | 1 =>
        (match engWriteAt s ag j.jobid j.who ((x.atomArr + 64 * n) % 2 ^ 64) j.tmpl with
        | .fault s f => spanFault s p j f
        | .wait s => s
        | .ok s _ =>
          let j := { j with prog := 2 }
          go fuel (setJobOn s p j) j)
      | 2 =>
        (match engWriteAt s ag j.jobid j.who ((x.descr + 10) % 2 ^ 64) (leBytes 2 j.ver) with
        | .fault s f => spanFault s p j f
        | .wait s => s
        | .ok s _ =>
          let j := { j with prog := 3 }
          go fuel (setJobOn s p j) j)
      | _ => if agentBusy s ag then s else endJob s p j .done
  go 4 s j

/-! ### ENC (R216, R227) -/

def encCount (b : Nat) : Nat := bits b 43 32
def encMem (b : Nat) : Bool := bit b 31

/-- Words in a core's code stream. -/
def streamUsed (k : Core) : Nat := (k.stream.map (fun e => e.2.1.length)).foldl (fun a b => a + b) 0

/-- Change the stream entry of an ENC. -/
def mapStream (s : State) (core id : Nat) (f : List (BitVec 32) × Bool × Bool → List (BitVec 32) × Bool × Bool) : State :=
  let k := s.core core
  s.setCore core { k with stream := k.stream.map (fun e => if e.1 == id && !e.2.2.1 then (e.1, f e.2) else e) }

/-- An ENC in stream mode ends: its message ends too. -/
def streamEnd (s : State) (p : Nat) (j : Job) (err : Bool) : State :=
  let s := mapStream s j.core j.id (fun e => (e.1, true, err))
  if err then s else endJob s p { j with work := [] } .done

/-- Words that have no room yet enter the stream as far as they fit; the ENC ends when all its words are in. -/
def streamPush (s : State) (p : Nat) (j : Job) : State :=
  let room := 512 - streamUsed (s.core j.core)
  let s := mapStream s j.core j.id (fun e => (e.1 ++ (j.work.take room).map (BitVec.ofNat 32), e.2))
  let j := { j with work := j.work.drop room }
  if j.work.isEmpty && j.prog == encCount j.b.toNat then streamEnd s p j false else setJobOn s p j

/-- Room has come up in a core's stream: the ENC whose words wait goes on. -/
def streamRoom (s : State) (core : Nat) : State :=
  let p := pierOfCore core
  match (s.pier p).jobs.find? (fun j => j.cmd == .enc && j.core == core && j.started && !j.status.final && !j.work.isEmpty) with
  | some j => streamPush s p j
  | none => s

/-- An ENC ends with ERROR (R216). -/
def encFail (s : State) (p : Nat) (j : Job) (end_ : State → State) : State :=
  end_ (if encMem j.b.toNat then s else streamEnd s p j true)

/-- Emit words of a message in memory: those of word 0's granule are held back (R227). -/
def encEmitMem (s : State) (p : Nat) (j : Job) (ws : List Nat) : Except AFault (State × Job) :=
  let dst := bits j.a.toNat 55 32
  let bs := words32 ws
  let head := bs.take (16 - j.bytesDone)
  let rest := bs.drop (16 - j.bytesDone)
  let at_ := dst + j.bytesDone + head.length
  let j := { j with tmpl := j.tmpl ++ head, bytesDone := j.bytesDone + bs.length }
  if rest.isEmpty then .ok (s, j)
  else if !inSpad j.core at_ rest.length then .error (addressFault at_)
  else
    match engWriteAt s (jobAgent p j.id) j.jobid j.who at_ rest with
    | .fault s f => .error f
    | .wait s => .ok (s, j)
    | .ok s _ => .ok (s, j)

/-- The end of a message in memory: word 0's granule. -/
def encEndMem (s : State) (p : Nat) (j : Job) : State :=
  let dst := bits j.a.toNat 55 32
  if !inSpad j.core dst j.tmpl.length then jobError s p j .address dst
  else
    match engWriteAt s (jobAgent p j.id) j.jobid j.who dst j.tmpl with
    | .fault s f => jobError s p j f.cause f.faddr
    | .wait s => s
    | .ok s _ => endJob s p j .done

/-- Words of an ENC, into the stream or memory; `prog` counts its spans. -/
def encEmit (s : State) (p : Nat) (j : Job) (ws : List Nat) : State :=
  if !encMem j.b.toNat then streamPush s p { j with work := j.work ++ ws }
  else
    match encEmitMem s p j ws with
    | .error f => jobError s p j f.cause f.faddr
    | .ok (s, j) => if j.prog == encCount j.b.toNat then encEndMem s p j else setJobOn s p j

def encStart (s : State) (p : Nat) (j : Job) : State :=
  let a := j.a.toNat
  let b := j.b.toNat
  let n := encCount b
  let x := dslotAt s p j.encdict
  let k := s.core j.core
  let s := if encMem b then s else s.setCore j.core { k with stream := k.stream ++ [(j.id, [], false, false)] }
  if bits a 31 24 != 0 || bits a 63 56 != 0 || bits b 30 28 != 0 || bits b 63 44 != 0 || (!encMem b && bits a 55 32 != 0)
      || (bits b 27 24 != 7 && bits b 27 24 != 8) || n == 0 || n > (if encMem b then 2048 else 124)
      || bits b 23 0 + n > 2 ^ 24 || x.state != .ready then
    encFail s p j (fun s => refuse s p j .illegal)
  else if bits a 23 0 % 16 != 0 || !inSpad j.core (bits a 23 0) 1
      || (encMem b && (bits a 55 32 % 16 != 0 || !inSpad j.core (bits a 55 32) 1)) then
    encFail s p j (fun s => refuse s p j .address)
  else encEmit s p { j with ver := x.ver, dictId := x.id } [2 * 2 ^ 30 + n, x.id * 65536 + x.ver]

/-- One span of an ENC (R210, R212). -/
def encStep (s : State) (p : Nat) (j : Job) : State :=
  let a := j.a.toNat
  let b := j.b.toNat
  let slot := j.encdict
  let x := dslotAt s p slot
  let wide := bits b 27 24 == 7
  let len := if wide then 256 else 128
  let at_ := bits a 23 0 + j.prog * len
  let fail (s : State) (f : AFault) : State := encFail s p j (fun s => jobError s p j f.cause f.faddr)
  if !inSpad j.core at_ len then fail s (addressFault at_)
  else
    match engReadAt s (jobAgent p j.id) j.who at_ len with
    | .fault s f => fail s f
    | .wait s => s
    | .ok s bs =>
      match slotPoison s p slot x (List.range x.n) with
      | some w => fail (countUncorr s (deckOfPier p)) ⟨.memerr, w, false⟩
      | none =>
        let lanes := (List.range 64).map (fun i =>
          if wide then leAt bs (4 * i) 4 else leAt bs (2 * i) 2 * 65536)
        let atoms := (List.range x.n).map (atomAt s p x)
        let gs := (List.range x.n).map (normAt s p slot)
        let c := encodeSpan j.enck j.enctau j.enceps atoms gs lanes
        let ws := spanWords (bits b 23 0 + j.prog) lanes c
        let s := (s.countEvent p 12 1).countEvent p 13 (if c == .escape then 1 else 0)
        encEmit s p { j with prog := j.prog + 1, flags := j.flags ||| ws.2 } ws.1

/-! ### Code messages in memory (R213, R215) -/

/-- The words of n spans at an address, or none when one breaks R215 for a dictionary of `atoms` atoms. -/
def readSpans (ag : Nat) (w : Who) (atoms : Nat) : Nat → Nat → State → List (List Nat) → Got (Option (List Nat))
  | 0, _, s, acc => .ok s (some acc.reverse.flatten)
  | k + 1, a, s, acc =>
    match engReadAt s ag w a 4 with
    | .fault s f => .fault s f
    | .wait s => .wait s
    | .ok s h =>
      let h := leNat h
      match spanBody h with
      | none => .ok s none
      | some 0 => readSpans ag w atoms k (a + 4) s ([h] :: acc)
      | some n =>
        match engReadAt s ag w (a + 4) (4 * n) with
        | .fault s f => .fault s f
        | .wait s => .wait s
        | .ok s bs =>
          let ws := (List.range n).map (fun i => leAt bs (4 * i) 4)
          if bodyOk atoms h ws then readSpans ag w atoms k (a + 4 + 4 * n) s ((h :: ws) :: acc) else .ok s none

/-- Do the words after word 1 keep R215 for k spans? -/
def spansOk (atoms : Nat) : Nat → List Nat → Bool
  | 0, _ => true
  | _ + 1, [] => false
  | k + 1, h :: ws =>
    match spanBody h with
    | none => false
    | some n => n ≤ ws.length && bodyOk atoms h (ws.take n) && spansOk atoms k (ws.drop n)

/-- Words 0 and 1 of a message at an address. -/
def readHead (s : State) (ag : Nat) (w : Who) (a : Nat) : Got (List Nat) :=
  match engReadAt s ag w a 8 with
  | .fault s f => .fault s f
  | .wait s => .wait s
  | .ok s bs => .ok s [leAt bs 0 4, leAt bs 4 4]

/-! ### DEC (R228) -/

/-- The start of a DEC. A message address that is no multiple of 4 ends with ADDRESS: the spec gives code messages no alignment
(log 92). -/
def decStart (s : State) (p : Nat) (j : Job) : State :=
  let a := j.a.toNat
  let b := j.b.toNat
  let x := dslotAt s p (bits b 33 32)
  let ag := jobAgent p j.id
  if bits b 31 24 != 0 || bits b 63 34 != 0 || x.state != .ready then refuse s p j .illegal
  else if bits b 23 0 % 16 != 0 || !inSpad j.core (bits b 23 0) 1 || a % 4 != 0 then refuse s p j .address
  else
    match readHead s ag j.who a with
    | .fault s f => spanFault s p j f
    | .wait s => s
    | .ok s ws =>
      let w0 := ws.getD 0 0
      let w1 := ws.getD 1 0
      if !headOk w0 w1 x.id then refuse s p j .illegal
      else
        match readSpans ag j.who x.n (msgSpans w0) (a + 8) s [] with
        | .fault s f => spanFault s p j f
        | .wait s => s
        | .ok s none => refuse s p j .illegal
        | .ok s (some body) =>
          if w1 % 65536 != x.ver then endJob s p j .stale
          else setJobOn s p { j with list := w0 :: w1 :: body, ver := x.ver, dictId := x.id }

/-- One span of a DEC. A destination that leaves its window at this span ends the job here, with the earlier spans written
(log 92). -/
def decStep (s : State) (p : Nat) (j : Job) : State :=
  let b := j.b.toNat
  let x := dslotAt s p (bits b 33 32)
  let sp := spanAt j.prog (j.list.drop 2)
  let at_ := bits b 23 0 + 256 * j.prog
  let js := if bits (sp.headD 0) 31 28 == 0 then (spanTerms sp).map Prod.fst else []
  if !inSpad j.core at_ 256 then jobError s p j .address at_
  else
    match js.findSome? (fun i => trussPoison s p ((x.row + i) * 64) 64) with
    | some w => bankError s p j w
    | none =>
      let r := decodeSpan (atomAt s p x) sp
      match engWriteAt s (jobAgent p j.id) j.jobid j.who at_ (words32 r.1) with
      | .fault s f => spanFault s p j f
      | .wait s => s
      | .ok s _ =>
        let j := { j with prog := j.prog + 1, flags := j.flags ||| r.2 }
        if j.prog == msgSpans (j.list.headD 0) then endJob s p j .done else setJobOn s p j

/-! ### Versions (R219 to R221) -/

def trackedAt? (x : Pier) (id : Nat) : Option Tracked := x.tracked.find? (fun t => t.id == id)

/-- The class of a message's version. -/
inductive VClass where
  | unknown | stale | known
  deriving DecidableEq, Repr

def classify (x : Pier) (id w : Nat) : VClass :=
  match trackedAt? x id with
  | none => .unknown
  | some t => if t.newest < w then .unknown else if w < t.oldest then .stale else .known

/-- Entries of the overflow queue and the park area in use (R221, R320, R430). -/
def overflowUsed (x : Pier) : Nat :=
  let cost (n : Nat) : Nat := ceilDiv (16 + 4 * min n 4092) 64
  ((x.overflow.map (fun m => cost m.2.msg.words.length))
    ++ ((x.deliveries.filter (fun d => d.2.paged)).map (fun d => cost d.2.avail))).foldl (fun a b => a + b) 0
def msgEntries (m : Msg) : Nat := ceilDiv (4 * m.words.length) 64
def parkUsed (x : Pier) : Nat :=
  ((x.jobs.filter (fun j => j.status == .parkedVersion && j.sent)).map (fun j =>
    match j.msg with | some m => msgEntries m | none => 0)).foldl (fun a b => a + b) 0
def areaFree (x : Pier) : Nat := 256 - overflowUsed x - parkUsed x

/-- The greatest value of a number over jobs. -/
def maxOf (f : Job → Nat) (js : List Job) : Nat := js.foldl (fun m j => max m (f j)) 0

/-- Park an ACCI whose message is unknown (R221). Its template stays in `tmpl2` for the status word of a later STALE_VERSION. -/
def acciPark (s : State) (p : Nat) (j : Job) : State :=
  let x := s.pier p
  let parked := x.jobs.filter (fun k => k.status == .parkedVersion)
  let inArea := match j.msg with | some m => msgEntries m ≤ areaFree x | none => false
  setJobOn s p { j with status := .parkedVersion, started := false, inq := false, released := false
                        prog := maxOf (fun k => k.prog) parked + 1, prog2 := 0, list := [], work := [], sent := inArea }

/-- Release the parked messages of an id whose version is announced, in arrival order. -/
def releaseParked (s : State) (p id newest : Nat) : State :=
  let x := s.pier p
  let go (j : Job) : Bool := j.status == .parkedVersion && !j.released && j.dictId == id && j.ver ≤ newest
  let base := maxOf (fun k => if k.status == .parkedVersion then k.prog2 else 0) x.jobs
  s.setPier p { x with jobs := x.jobs.map (fun j => if go j then { j with released := true, sent := false, prog2 := base + j.prog } else j) }

/-- Apply held announcements of newest + 1, repeating (R220). -/
def applyHeld (id : Nat) : Nat → Pier → Pier
  | 0, x => x
  | fuel + 1, x =>
    match trackedAt? x id with
    | none => x
    | some t =>
      match t.held.find? (fun a => a.ver == t.newest + 1) with
      | none => x
      | some a =>
        let x := imgClose x id a.ver a.atoms
        let t := { t with newest := a.ver, held := t.held.filter (fun b => b.ver != a.ver) }
        applyHeld id fuel { x with tracked := x.tracked.map (fun u => if u.id == id then t else u) }

/-- The DVER job of an announcement ends. -/
def annEnd (s : State) (a : Announce) (err : Bool) : State :=
  match a.job with
  | none => s
  | some (q, id) =>
    match jobOn? s q id with
    | none => s
    | some j => if err then jobErrorFree s q j .illegal else endJob s q j .done

/-- An announcement at the table controller (R219, R220): false when it must wait at the ingress. -/
def annApply (s : State) (p : Nat) (a : Announce) : State × Bool :=
  let x := s.pier p
  match trackedAt? x a.id with
  | none =>
    if x.tracked.length ≥ 16 then (annEnd s a true, true)
    else
      let x := imgClose { x with tracked := x.tracked ++ [⟨a.id, a.ver, a.ver, []⟩] } a.id a.ver a.atoms
      (annEnd (releaseParked (s.setPier p x) p a.id a.ver) a false, true)
  | some t =>
    if a.ver ≤ t.newest then (annEnd s a false, true)
    else if a.ver > t.newest + 1 then
      if t.held.length ≥ 16 then (s, false)
      else
        let t := { t with held := t.held ++ [a] }
        (annEnd (s.setPier p { x with tracked := x.tracked.map (fun u => if u.id == a.id then t else u) }) a false, true)
    else
      let x := imgClose x a.id a.ver a.atoms
      let x := { x with tracked := x.tracked.map (fun u => if u.id == a.id then { t with newest := a.ver } else u) }
      let x := applyHeld a.id 16 x
      let newest := match trackedAt? x a.id with | some t => t.newest | none => a.ver
      (annEnd (releaseParked (s.setPier p x) p a.id newest) a false, true)

/-- Announcements that waited at the ingress, in order, as far as they can go on. -/
def annRetry (s : State) (p : Nat) : State :=
  ((s.pier p).annHeld).foldl (fun s a =>
    let x := s.pier p
    match annApply (s.setPier p { x with annHeld := x.annHeld.erase a }) p a with
    | (s, true) => s
    | (s, false) =>
      let x := s.pier p
      s.setPier p { x with annHeld := x.annHeld ++ [a] }) s

/-! ### ACCI (R235, R236) -/

/-- Was the job started by a receive? -/
def byReceive (j : Job) : Bool := j.unit == 0 && j.ctx == noCtx

def acciOut (t : Bytes) : Nat := leAt t 0x18 8
def acciStatusAddr (t : Bytes) : Nat := leAt t 0x28 8

def acciDesc (j : Job) : Option ImgDesc := imgDesc? (j.tmpl2.take 64) (j.tmpl2.drop 64)

/-- The status word (R236). -/
def acciWord (j : Job) (code : Nat) : Nat :=
  2 ^ 63 + code * 2 ^ 48 + j.flags.toNat * 2 ^ 40 + (if code == 4 then j.cause.code else 0) * 2 ^ 16 + j.ver

/-- The status that waits for the status word. -/
def acciStatus (n : Nat) : JStat := match n with | 1 => .done | 4 => .error | _ => .stale

/-- Does an ACCI wait for the page of its status word (R236)? -/
def acciWaits (j : Job) : Bool := j.cmd == .acci && j.status == .running && j.bytesDone != 0 && j.use == some 0

/-- A fault of the status word's store, other than a PAGE that the pager will answer, ends the job without the word (R236). -/
def acciLost (s : State) (p : Nat) (j : Job) (c : Cause) : State :=
  let at_ := acciStatusAddr j.tmpl
  if byReceive j then
    endJob (raiseNotice s j.who.vd j.jobid p c (BitVec.ofNat 64 at_) 0) p j (acciStatus (j.bytesDone - 1))
  else jobError s p j c at_

/-- The status word and the end of the job (R236). -/
def acciClose (s : State) (p : Nat) (j : Job) : State :=
  let code := j.bytesDone - 1
  let ag := jobAgent p j.id
  let at_ := acciStatusAddr j.tmpl
  if at_ == 0 then endJob s p j (acciStatus code)
  else if j.use == some 1 then (if agentBusy s ag then setJobOn s p j else endJob s p j (acciStatus code))
  else
    match engWriteAt s ag j.jobid j.who at_ (leBytes 8 (acciWord j code)) with
    | .wait s => setJobOn s p j
    | .ok s _ => if agentBusy s ag then setJobOn s p { j with use := some 1 } else endJob s p j (acciStatus code)
    | .fault s f =>
      if f.cause == .page then setJobOn (askReclaim s j.who.vd at_) p { j with use := some 0 } else acciLost s p j f.cause

/-- An ACCI ends with ERROR: its output granules are set full. -/
def acciFail (s : State) (p : Nat) (j : Job) (c : Cause) (faddr : Word) : State :=
  let o := match acciDesc j with | some d => 4 * d.o | none => 0
  let out := acciOut j.tmpl
  let s := if o != 0 && out % 16 == 0 && inSpad j.core out o then setGranules s true (granuleKeys j.core out o) else s
  acciClose s p { j with bytesDone := 5, cause := c, faddr := faddr, ring := none }

def acciRefuse (s : State) (p : Nat) (j : Job) (c : Cause) : State := acciFail s.takeFree p j c s.freeWord

/-- A fault of an ACCI: PAGE parks it (R172). -/
def acciFault (s : State) (p : Nat) (j : Job) (f : AFault) : State :=
  if f.cause == .page then jobFault s p j f else acciFail s p j f.cause (BitVec.ofNat 64 f.faddr)

/-- The start of an ACCI, or the rest of it: template, descriptor, words, class, and the old sums. A message address that is no
multiple of 4 ends with ADDRESS: the spec gives code messages no alignment (log 92). -/
def acciGo (s : State) (p : Nat) (j : Job) : State :=
  let ag := jobAgent p j.id
  let w := j.who
  let read (s : State) (a n : Nat) : Got Bytes := engReadAt s ag w a n
  if j.a.toNat % 64 != 0 then acciRefuse s p j .address
  else
    match read s j.a.toNat 64 with
    | .fault s f => acciFault s p j f
    | .wait s => s
    | .ok s t =>
      if acciStatusAddr t % 8 != 0 then acciRefuse s p j .address
      else
        let j := { j with tmpl := t }
        if leAt t 0x30 16 != 0 then acciRefuse s p j .illegal
        else if leAt t 0 8 % 64 != 0 || leAt t 8 8 % 64 != 0 then acciRefuse s p j .address
        else
          match readImgDesc read s (leAt t 0 8) with
          | .fault s f => acciFault s p j f
          | .wait s => s
          | .ok s (d, r) =>
            let j := { j with tmpl2 := d ++ r }
            match imgDesc? d r with
            | none => acciRefuse s p j .illegal
            | some d =>
              let bias := leAt t 0x10 8
              let out := acciOut t
              let miss := leAt t 0x20 8
              if bias % 16 != 0 || out % 16 != 0 || !inSpad j.core out (4 * d.o) || miss % 64 != 0
                  || !inSpad j.core miss d.rowBytes || (j.msg.isNone && j.b.toNat % 4 != 0) then acciRefuse s p j .address
              else
                match (match j.msg with
                  | some m => Got.ok s (m.words.map BitVec.toNat)
                  | none => readHead s ag w j.b.toNat) with
                | .fault s f => acciFault s p j f
                | .wait s => s
                | .ok s ws =>
                  let w0 := ws.getD 0 0
                  let w1 := ws.getD 1 0
                  let j := { j with ver := w1 % 65536, dictId := d.id }
                  if ws.length < 2 || !headOk w0 w1 d.id then acciRefuse s p j .illegal
                  else
                    match classify (s.pier p) d.id (w1 % 65536) with
                    | .unknown => acciPark s p { j with tmpl := [], tmpl2 := t }
                    | .stale => acciClose s p { j with bytesDone := 7 }
                    | .known =>
                      match (match j.msg with
                        | some _ => Got.ok s (if spansOk d.n (msgSpans w0) (ws.drop 2) then some (ws.drop 2) else none)
                        | none => readSpans ag w d.n (msgSpans w0) (j.b.toNat + 8) s []) with
                      | .fault s f => acciFault s p j f
                      | .wait s => s
                      | .ok s none => acciRefuse s p j .illegal
                      | .ok s (some body) =>
                        match read s (if bias == 0 then out else bias) (4 * d.o) with
                        | .fault s f => acciFault s p j f
                        | .wait s => s
                        | .ok s bs =>
                          let s := setGranules s false (granuleKeys j.core out (4 * d.o))
                          setJobOn s p { j with list := w0 :: w1 :: body, prog := 0, prog2 := 0, ring := none
                                                work := (List.range d.o).map (fun i => leAt bs (4 * i) 4) }

/-- The image row of a term, as FP32, once it is found: the state after its lookup, `none` for a stall. -/
def acciRow (s : State) (p : Nat) (j : Job) (d : ImgDesc) (sn a : Nat) : Got (Option (List Nat)) :=
  let ag := jobAgent p j.id
  let n := fmtBytes d.fmt
  let vals (bs : Bytes) : List Nat := (List.range d.o).map (fun i => toFp32 d.fmt (leAt bs (i * n) n))
  match imgLookup (s.pier p) d.id sn a j.ver with
  | some (k, e) =>
    if entryPoisoned s p k then .fault (countUncorr s (deckOfPier p)) ⟨.memerr, locWord 4 k p, false⟩
    else
      match engReadAt (s.setPier p (imgUsed (s.pier p) k e)) ag j.who e.buf d.rowBytes with
      | .fault s f => .fault s f
      | .wait s => .wait s
      | .ok s bs => .ok s (some (vals bs))
  | none =>
    match engReadAt s ag j.who (d.tagAddr (d.row sn a 0)) (8 * d.v) with
    | .fault s f => .fault s f
    | .wait s => .wait s
    | .ok s ts =>
      match (List.range d.v).find? (fun e => tagServes (leAt ts (8 * e) 8) d.id j.ver) with
      | none => .ok s none
      | some e =>
        match engReadAt s ag j.who (d.rowAddr (d.row sn a e)) d.rowBytes with
        | .fault s f => .fault s f
        | .wait s => .wait s
        | .ok s bs =>
          match engWriteAt s ag j.jobid j.who (leAt j.tmpl 0x20 8) bs with
          | .fault s f => .fault s f
          | .wait s => .wait s
          | .ok s _ => .ok s (some (vals bs))

/-- The weights of one escape span: for each lane the column of the weight record (R235, R236), read as TLD reads. -/
def acciWeights (s : State) (p : Nat) (j : Job) (d : ImgDesc) (sn : Nat) : Got (Option (List (List Nat))) :=
  let ag := jobAgent p j.id
  let wr := leAt j.tmpl 8 8
  if wr == 0 then .ok s none
  else
    match engReadAt s ag j.who wr 64 with
    | .fault s f => .fault s f
    | .wait s => .wait s
    | .ok s r =>
      let f := lFmt r
      if !recordOk r || lRank r != 2 || (floatOf f).isNone || lDim r 0 != d.o || lDim r 1 < 64 * d.spans then .ok s none
      else
        let n := fmtBytes f
        let tag := ctlTag (lCtl r)
        let cells := (List.range 64).flatMap (fun (i : Nat) => (List.range d.o).map (fun (o : Nat) =>
          elemAt? r tag [(o : Int), ((64 * sn + i : Nat) : Int)]))
        let es := (cells.filterMap id).map (fun e => (0, e))
        match engReadBy s ag j.who (handleAdj j.who.vd ⟨wr, true, r⟩ tag es) (es.flatMap (fun e => span e.2.va n)) with
        | .fault s f => .fault s f
        | .wait s => .wait s
        | .ok s bs =>
          let vals := (cells.foldl (fun (acc : List Nat × Nat) c =>
            match c with
            | some _ => (toFp32 f (leAt bs (acc.2 * n) n) :: acc.1, acc.2 + 1)
            | none => (toFp32 f (lFill r % 2 ^ (8 * n)) :: acc.1, acc.2)) ([], 0)).1.reverse
          .ok s (some ((List.range 64).map (fun i => (vals.drop (i * d.o)).take d.o)))

/-- The output row, then the status word. -/
def acciFinish (s : State) (p : Nat) (j : Job) : State :=
  match engWriteAt s (jobAgent p j.id) j.jobid j.who (acciOut j.tmpl) (words32 j.work) with
  | .fault s f => acciFault s p j f
  | .wait s => setJobOn s p j
  | .ok s _ => acciClose s p { j with bytesDone := 2, work := [] }

/-- A span is done. -/
def acciNext (s : State) (p : Nat) (j : Job) : State :=
  let j := { j with prog := j.prog + 1, prog2 := 0 }
  if j.prog == msgSpans (j.list.headD 0) then acciFinish s p j else setJobOn s p j

/-- The terms that are left of a coded span. -/
def acciTerms (p : Nat) (d : ImgDesc) (sn : Nat) : List (Nat × Nat) → State → Job → State
  | [], s, j => acciNext s p j
  | t :: ts, s, j =>
    match acciRow s p j d sn t.1 with
    | .fault s f => acciFault s p j f
    | .wait s => setJobOn s p j
    | .ok s none => setJobOn s p { j with ring := some j.prog2 }
    | .ok s (some row) =>
      let r := axpy (t.2 * 65536) row j.work
      acciTerms p d sn ts s { j with work := r.1, flags := j.flags ||| r.2, prog2 := j.prog2 + 1, ring := none }

/-- The rest of the current span. -/
def acciStep (s : State) (p : Nat) (j : Job) : State :=
  match acciDesc j with
  | none => s
  | some d =>
    if j.prog == msgSpans (j.list.headD 0) then acciFinish s p j
    else
      let sp := spanAt j.prog (j.list.drop 2)
      let h := sp.headD 0
      let sn := bits h 23 0
      if d.spans ≤ sn then acciRefuse s p j .illegal
      else
        match bits h 31 28 with
        | 0 => acciTerms p d sn ((spanTerms sp).drop j.prog2) s j
        | 1 =>
          (match acciWeights s p j d sn with
          | .fault s f => acciFault s p j f
          | .wait s => setJobOn s p j
          | .ok s none => acciRefuse s p j .illegal
          | .ok s (some cols) =>
            let r := ((spanPayload sp).zip cols).foldl (fun (acc : List Nat × Flags) x =>
              let q := axpy x.1 x.2 acc.1
              (q.1, acc.2 ||| q.2)) (j.work, j.flags)
            acciNext s p { j with work := r.1, flags := r.2 })
        | _ => acciNext s p j

/-- The ACCI that a sink starts (R216, R236), at the end of the posting core's queue. -/
def sinkJob (s : State) (p : Nat) (r : Recv) (core : Nat) (m : Msg) : State :=
  let x := s.pier p
  let used := usedIds x
  let id := freeId used (used.length + 2) x.nextJob
  let w : Who := { vd := r.vd, level := r.level, launch := r.launch, strict := r.strict, pure := r.pure, stk := r.stk, core := core }
  let j : Job :=
    { id := id, eng := .span, cmd := .acci, core := core, ctx := noCtx, unit := 0, who := w, jobid := r.jobid
      a := BitVec.ofNat 64 r.buffer, b := 0, dreg := none, held := none, enck := 0, enctau := 0, enceps := 0, encdict := 0
      inq := true, started := false, status := .running, flags := 0, cause := .none, faddr := 0, tmpl := [], tmpl2 := []
      list := [], prog := 0, prog2 := 0, bytesDone := 0, ring := none, work := [], msg := some m, ver := 0, dictId := 0
      use := none, sent := false, released := false, reported := false }
  s.setPier p { x with jobs := x.jobs ++ [j], nextJob := (id + 1) % 65536 }

/-! ### The table controller (R229 to R231, R234) -/

/-- DVER: the list, then the announcement on the mesh. With a count of 0 it still reads two bytes at the list's address, and can
fault there (log 92). -/
def dverGo (s : State) (p : Nat) (j : Job) : State :=
  let a := j.a.toNat
  let b := j.b.toNat
  let n := bits a 43 32
  let dest := pierAt (bits b 39 32) (bits b 45 40)
  let ok := match s.vdev? j.who.vd with | some v => bits b 39 32 < 200 && v.piers.contains dest | none => false
  if bits a 31 24 != 0 || bits a 63 44 != 0 || bits b 63 46 != 0 || n > 2048 || b % 65536 == 0xFFFF || !ok then
    refuse s p j .illegal
  else if bits a 23 0 % 2 != 0 || (n != 0 && !inSpad j.core (bits a 23 0) (2 * n)) then refuse s p j .address
  else
    match engReadAt s (jobAgent p j.id) j.who (bits a 23 0) (2 * max n 1) with
    | .fault s f => spanFault s p j f
    | .wait s => s
    | .ok s bs =>
      let ann : Announce := ⟨j.core, dest, bits b 31 16, b % 65536, (List.range n).map (fun i => leAt bs (2 * i) 2), some (p, j.id), s.nextUid⟩
      setJobOn { s with mesh := s.mesh ++ [.ann ann], nextUid := s.nextUid + 1 } p { j with prog := 1 }

/-- DRET (R230). -/
def dretGo (s : State) (p : Nat) (j : Job) : State :=
  let a := j.a.toNat
  let id := bits a 31 16
  let bound := bits a 15 0
  let x := s.pier p
  match trackedAt? x id with
  | none => refuse s p j .illegal
  | some t =>
    if a / 2 ^ 32 != 0 || bound > t.newest then refuse s p j .illegal
    else
      let t := { t with oldest := max t.oldest bound }
      let x := { x with tracked := x.tracked.map (fun u => if u.id == id then t else u) }
      endJob (s.setPier p (imgClear x (fun e => e.id == id && e.vhi != 0xFFFF && e.vhi < t.oldest))) p j .done

/-- The answer of DQRY (R231), `none` for a reserved kind or bit. DESIGN CHOICE (log 92): of a slot that is INSTALLING, kind 0 gives the
id, version and N that the slot held before, which R225 has not yet replaced: 0, 0 and N − 1 = 0 where it was EMPTY. -/
def dqryAns (s : State) (p : Nat) (a b : Nat) : Option Nat :=
  let x := s.pier p
  if bits b 15 4 != 0 || b / 2 ^ 32 != 0 then none
  else
    match b % 16 with
    | 0 =>
      if a / 4 != 0 || b / 65536 != 0 then none
      else
        let d := dslotAt s p a
        some (match d.state with
          | .empty => 0
          | st => d.id * 2 ^ 48 + d.ver * 2 ^ 32 + (if st == .ready then 2 else 1) * 2 ^ 30 + (d.n - 1) * 2 ^ 16)
    | 1 =>
      if a / 65536 != 0 || b / 65536 != 0 then none
      else
        let n := (x.jobs.filter (fun j => j.status == .parkedVersion && !j.released && j.dictId == a)).length
        some (match trackedAt? x a with
          | none => n % 256 * 2 ^ 16
          | some t =>
            2 ^ 63 + t.newest * 2 ^ 32 + t.held.length % 256 * 2 ^ 24 + n % 256 * 2 ^ 16 + t.oldest)
    | 2 =>
      if bits a 27 16 != 0 then none
      else
        some (match imgLookup x (bits b 31 16) (bits a 63 40) (bits a 39 28) (bits a 15 0) with
          | none => 0
          | some (n, e) => 2 ^ 63 + n * 2 ^ 48 + e.buf)
    | 3 =>
      if a != 0 || b / 65536 != 0 then none
      else some (overflowUsed x * 2 ^ 16 + overflowUsed x + parkUsed x)
    | _ => none

/-- DQRY: its register takes the result. A poisoned entry that it finds is MEMERR (R389). -/
def dqryGo (s : State) (p : Nat) (j : Job) : State :=
  match dqryAns s p j.a.toNat j.b.toNat with
  | none => refuse s p j .illegal
  | some v =>
    let n := bits v 55 48
    if j.b.toNat % 16 == 2 && bit v 63 && entryPoisoned s p n then bankError s p j (locWord 4 n p)
    else endJob (deliverReg s p j (BitVec.ofNat 64 v)) p { j with dreg := none } .done

/-- IMGINV (R234). -/
def imginvGo (s : State) (p : Nat) (j : Job) : State :=
  let a := j.a.toNat
  let mode := j.b.toNat
  let id := bits a 15 0
  if mode > 3 || bits a 27 16 != 0 then refuse s p j .illegal
  else
    let hit (e : ImgEntry) : Bool :=
      match mode with
      | 1 => e.id == id && e.s == bits a 63 40 && e.j == bits a 39 28
      | 2 => true
      | _ => e.id == id
    let s := s.setPier p (imgClear (s.pier p) hit)
    let s :=
      if mode != 3 then s
      else
        let x := s.pier p
        let s := s.setPier p { x with tracked := x.tracked.filter (fun t => t.id != id) }
        let parked := x.jobs.filter (fun k => k.status == .parkedVersion && !k.released && k.dictId == id)
        parked.foldl (fun s k => setJobOn s p { k with status := .running, sent := false, bytesDone := 7, tmpl := k.tmpl2, tmpl2 := [] }) s
    annRetry (endJob s p j .done) p

/-! ### The events -/

/-- Does the head of a core's queue wait for a released job (R221)? -/
def headReady (s : State) (p k : Nat) (f : Cmd → Bool) : Option Job :=
  match queued s p .span (p * 8 + k) with
  | j :: _ => if j.held.isNone && !s.quietPier p && f j.cmd && (releasedJobs s p j.core).isEmpty then some j else none
  | [] => none

/-- The bytes that a job of the encoder has still to read or write: those of a code message as far as 2,048 spans reach. `none`
while they are not at hand. -/
def encTouches (s : State) (p : Nat) (j : Job) : Option (List (Nat × Nat)) :=
  let a := j.a.toNat
  let b := j.b.toNat
  let message (n : Nat) : Nat := 8 + 132 * n
  match j.cmd with
  | .enc =>
    let len := if bits b 27 24 == 7 then 256 else 128
    some ((bits a 23 0 + j.prog * len, (encCount b - j.prog) * len)
      :: (if encMem b then [(bits a 55 32, message (encCount b))] else []))
  | .dec =>
    let n := if j.list.isEmpty then 2048 else msgSpans (j.list.headD 0)
    some ((bits b 23 0 + 256 * j.prog, 256 * (n - j.prog)) :: (if j.list.isEmpty then [(a, message n)] else []))
  | .dinst =>
    if !j.tmpl.isEmpty then some []
    else match peekFor j.who s a 32 with | .ok _ d => some [(a, 32), (leAt d 0 8, 64 * leAt d 12 2)] | _ => none
  | _ =>
    let x := dslotAt s p (bits b 17 16)
    some [(a, 64), ((x.atomArr + 64 * bits b 11 0) % 2 ^ 64, 64), ((x.descr + 10) % 2 ^ 64, 2)]

/-- The bytes that an ACCI may still read or write (R235). -/
def acciTouches (s : State) (p : Nat) (j : Job) : Option (List (Nat × Nat)) :=
  match (if j.list.isEmpty then peekFor j.who s j.a.toNat 64 else .ok s j.tmpl) with
  | .ok _ t =>
    (match readImgDesc (peekFor j.who) s (leAt t 0 8), (if leAt t 8 8 == 0 then .ok s [] else peekFor j.who s (leAt t 8 8) 64) with
    | .ok _ (d, r), .ok _ w =>
      (imgDesc? d r).map (fun x =>
        let bias := leAt t 0x10 8
        (if j.list.isEmpty then [(j.a.toNat, 64), (leAt t 0 8, 64), (imgRecordAddr d, 64)]
            ++ (if j.msg.isNone then [(j.b.toNat, 8 + 132 * 2048)] else [])
            ++ (if bias == 0 then [] else [(bias, 4 * x.o)]) else [])
          ++ (if w.isEmpty then [] else [(leAt t 8 8, 64), (lBase w, lExtent w)])
          ++ [(acciOut t, 4 * x.o), (acciStatusAddr t, 8), (leAt t 0x20 8, x.rowBytes),
              (x.tags, 8 * x.n * x.v * x.spans), (x.base, x.n * x.v * x.spans * x.rowBytes)]
          ++ (s.pier p).images.map (fun e => (e.2.buf, x.rowBytes)))
    | _, _ => none)
  | _ => none

/-- Do the started job of a core's other section and a head touch the same bytes, so that the head waits (R373)? -/
def sectionsMeet (s : State) (p : Nat) (j k : Job) : Bool :=
  let of (i : Job) := if i.cmd == .acci then acciTouches s p i else encTouches s p i
  bytesMeet s j.who k.who (of j) (of k)

/-- A head that the encoder or the accumulator can take (R204, R205, R373). -/
def startable (s : State) (p k : Nat) : Option Job :=
  match headReady s p k (fun c => !onTable c) with
  | none => none
  | some j =>
    let apart (other : Option Job) : Bool := match other with | some k => !sectionsMeet s p j k | none => true
    if j.cmd == .acci then (if (accJob s p j.core).isNone && apart (encJob s p j.core) then some j else none)
    else if (encJob s p j.core).isNone && slotFreeFor s p j && apart (accJob s p j.core) then some j else none

/-- Start, or go on with the start of, a job. -/
def spanGo (s : State) (p : Nat) (j : Job) : State :=
  match j.cmd with
  | .dinst => dinstGo s p j
  | .datom => datomGo s p j
  | .enc => encStart s p j
  | .dec => decStart s p j
  | .acci => acciGo s p j
  | _ => s

/-- A started job whose start still waits for data. -/
def startWaits (j : Job) : Bool :=
  j.eng == .span && j.started && j.status == .running && j.bytesDone == 0 &&
    (match j.cmd with
    | .dinst => j.tmpl.isEmpty | .datom => true | .dec => j.list.isEmpty | .acci => j.list.isEmpty | _ => false)

/-- Can the encoder take a step of core k: a span of ENC or DEC, a group of DINST? -/
def encReady (s : State) (p k : Nat) : Bool :=
  match encJob s p (p * 8 + k) with
  | none => false
  | some j =>
    j.status == .running &&
      (match j.cmd with
      | .enc => j.work.isEmpty
      | .dec => !j.list.isEmpty
      | .dinst => !j.tmpl.isEmpty
      | _ => false)

/-- Can the accumulator take a span of core k? -/
def accReady (s : State) (p k : Nat) : Bool :=
  match accJob s p (p * 8 + k) with
  | none => false
  | some j => j.status == .running && j.ring.isNone && j.bytesDone == 0 && !j.list.isEmpty

/-- ACCI_SPAN: status words that wait are stored; then the rotation grants one span (R235). -/
def execAcciSpan (p : Nat) (s : State) : Out :=
  let closing := (s.pier p).jobs.filter (fun j => j.cmd == .acci && j.status == .running && j.bytesDone != 0 && !acciWaits j)
  let s := closing.foldl (fun s j => acciClose s p j) s
  match pickRot (s.pier p).rotP (weightOf s p) (accReady s p) with
  | none => eventDone s
  | some (k, rot) =>
    match accJob s p (p * 8 + k) with
    | none => eventDone s
    | some j => eventDone (acciStep (s.setPier p { s.pier p with rotP := rot }) p j)

/-- ACCI_STALL_RESUME: an entry now serves the term at which the core's ACCI stalls; it takes that entry (R236). -/
def execAcciStallResume (p core : Nat) (s : State) : Out :=
  match accJob s p core with
  | none => .next s
  | some j =>
    match acciDesc j with
    | none => .next s
    | some d =>
      let sp := spanAt j.prog (j.list.drop 2)
      let t := (spanTerms sp).getD j.prog2 (0, 0)
      if j.ring.isSome && !s.quietPier p && j.status == .running && (imgLookup (s.pier p) d.id (bits (sp.headD 0) 23 0) t.1 j.ver).isSome then
        eventDone (acciStep s p { j with ring := none })
      else .next s

/-- ACCI_RESTART: a released job restarts from its first span (R221). -/
def execAcciRestart (p : Nat) (s : State) : Out :=
  match (List.range 8).findSome? (fun k =>
    if s.quietPier p || (accJob s p (p * 8 + k)).isSome then none else leastBy (fun j => j.prog2) (releasedJobs s p (p * 8 + k))) with
  | none => .next s
  | some j =>
    let j := { j with started := true, status := .running, released := false, prog := 0, prog2 := 0, tmpl2 := [] }
    eventDone (acciGo (setJobOn s p j) p j)

/-- SPAN_TABLE_COMMAND: the table controller performs one command (R203). -/
def execSpanTableCommand (p : Nat) (s : State) : Out :=
  let s := settleHeads s p .span
  match (s.pier p).jobs.find? (fun j => j.cmd == .dver && j.started && j.status == .running && j.prog == 0) with
  | some j => eventDone (dverGo s p j)
  | none =>
    match (List.range 8).findSome? (fun k => headReady s p k onTable) with
    | none => eventDone s
    | some j =>
      let q := startJob s p j
      eventDone (match j.cmd with
        | .dver => dverGo q.1 p q.2
        | .dret => dretGo q.1 p q.2
        | .dqry => dqryGo q.1 p q.2
        | _ => imginvGo q.1 p q.2)

/-- The oldest item that a core has sent to a pier: messages and announcements keep their order (R15). -/
def meshHead (s : State) (src p : Nat) : Option MeshItem :=
  s.mesh.find? (fun m => match m with
    | .msg m => m.src == src && pierOfCore m.dst == p
    | .ann a => a.src == src && a.pier == p)

/-- Something that this core sent earlier is held at an ingress, and holds all that it sent later (R221, R320). -/
def srcBlocked (s : State) (src seq : Nat) : Bool :=
  let older (m : Msg) : Bool := m.src == src && m.seq < seq
  s.cores.any (fun k => k.2.ingress.any older)
    || s.piers.any (fun p => p.2.held.any older || p.2.annHeld.any (fun a => a.src == src && a.seq < seq)
      || p.2.jobs.any (fun j => j.status == .parkedVersion && !j.sent && !j.released
        && (match j.msg with | some m => older m | none => false)))

/-- VERSION_ANNOUNCE: an announcement of a core reaches a pier (R220). A seventeenth held one waits at the ingress. -/
def execVersionAnnounce (src p : Nat) (s : State) : Out :=
  match meshHead s src p with
  | some (.ann a) =>
    if srcBlocked s src a.seq then .next s
    else
      let s := { s with mesh := s.mesh.erase (.ann a) }
      (match annApply s p a with
      | (s, true) => eventDone (annRetry s p)
      | (s, false) =>
        let x := s.pier p
        eventDone (s.setPier p { x with annHeld := x.annHeld ++ [a] }))
  | _ => .next s

/-! ### The commands -/

def execDinst (o : E3) (s : State) : Out := cmd3 s .span .dinst o false
def execDatom (o : E3) (s : State) : Out := cmd3 s .span .datom o false
def execEnc (o : E3) (s : State) : Out := cmd3 s .span .enc o true
def execDec (o : E3) (s : State) : Out := cmd3 s .span .dec o true
def execAcci (o : E3) (s : State) : Out := cmd3 s .span .acci o true
def execDver (o : E3) (s : State) : Out := cmd3 s .span .dver o false
def execDret (o : EDA) (s : State) : Out := cmd2 s .span .dret o false
def execDqry (o : E3) (s : State) : Out := cmd3 s .span .dqry o true
def execImginv (o : E3) (s : State) : Out := cmd3 s .span .imginv o false

end Sys2Proof.Machine
end

