-- ==== Sys2Proof/Machine/ImgBuild.lean ====
section
/-!
DEFINITION. IMGBLD (R233): its start, its steps of the MAC array and its requests; the array's grants are in Bus.

Of an IMGBLD: `prog` counts array steps, `prog2` requests completed, `use` the slots it reads, `tmpl` is its image descriptor,
`tmpl2` descriptor and row record, `list` the request words, `bytesDone` the version of its dictionary slot, `work` the step
of the request in progress.
-/
namespace Sys2Proof.Machine

def execImgbld (o : E3) (s : State) : Out := cmd3 s .matrix .imgbld o true

/-- Requests of an IMGBLD. -/
def imgbldCount (b : Nat) : Nat := bits b 47 40 + 1
/-- Its dictionary slot. -/
def imgbldDict (b : Nat) : Nat := bits b 33 32

/-- B tiles of a row of O values. -/
def imgbldTiles (f : Fmt) (o : Nat) : Nat := o / bCols f
def imgbldFmt (f : Fmt) : Bool := f == .e4m3 || f == .e5m2 || f == .bf16 || f == .e2m1x

/-- The format of an IMGBLD's B operand: as an MMA would find it. -/
def imgbldB (s : State) (p b o : Nat) : Option Fmt :=
  match matFmt (slotAt s p (imgbldSlot b)).fmt.toNat with
  | none => none
  | some f =>
    if imgbldFmt f && o % bCols f == 0 then bOperand s p (imgbldSlot b) (imgbldTiles f o) else none

/-- The start of an IMGBLD: descriptor, record and requests are read, and every check made. -/
def imgbldStart (s : State) (p : Nat) (j : Job) : Got (Except Cause Job) :=
  let b := j.b.toNat
  let read (s : State) (a n : Nat) : Got Bytes := engReadAt s (jobAgent p j.id) j.who a n
  let n := imgbldCount b
  if bit b 31 || bits b 39 34 != 0 || bits b 63 48 != 0 then .ok s (.error .illegal)
  else if j.a.toNat % 64 != 0 || bits b 23 0 % 8 != 0 then .ok s (.error .address)
  else
    match readImgDesc read s j.a.toNat with
    | .fault s f => .fault s f
    | .wait s => .wait s
    | .ok s (d, r) =>
      match imgDesc? d r with
      | none => .ok s (.error .illegal)
      | some x =>
        let dict := dslotAt s p (imgbldDict b)
        if dict.state != .ready || dict.id != x.id then .ok s (.error .illegal)
        else
          match imgbldB s p b x.o with
          | none => .ok s (.error .illegal)
          | some f =>
            match read s (bits b 23 0) (8 * n) with
            | .fault s f => .fault s f
            | .wait s => .wait s
            | .ok s l =>
              let ws := reqWords l n
              -- atoms of the descriptor beyond the dictionary's do not exist
              match ws.findSome? (fun w => if dict.n ≤ (imgReq w).j then some .illegal else reqBad x j.core true w) with
              | some c => .ok s (.error c)
              | none =>
                .ok s (.ok { j with started := true, tmpl := d, tmpl2 := d ++ r, list := ws, bytesDone := dict.ver
                                    use := some (imgbldTiles f x.o * bSlotsOf f) })

/-- Steps of the array for all groups of 32 requests. -/
def imgbldSteps (t n : Nat) : Nat := t * ceilDiv n 32

/-- T of a started IMGBLD. -/
def imgbldT (s : State) (p : Nat) (j : Job) : Nat :=
  j.use.getD 1 / bSlotsOf ((matFmt (slotAt s p (imgbldSlot j.b.toNat)).fmt.toNat).getD .e4m3)

/-- One step of an IMGBLD: the first makes the checks, the last leaves the head. The rotation moves to `rot` with a step, and stays
while what the first one reads must still come. -/
def imgbldBlock (s : State) (p : Nat) (rot : Nat × Nat) (j : Job) : State :=
  let granted (s : State) : State := s.setPier p { s.pier p with rotM := rot }
  let go (s : State) (j : Job) : State :=
    let k := j.prog + 1
    setJobOn s p { j with prog := k, inq := k < imgbldSteps (imgbldT s p j) (imgbldCount j.b.toNat) }
  if j.started then go (granted s) j
  else
    match imgbldStart s p j with
    | .fault s f => matFault (granted s) p { j with inq := f.cause == .page } f
    | .wait s => s
    | .ok s (.error c) => jobErrorFree (granted s) p { j with inq := false } c
    | .ok s (.ok j) => go (granted s) j

/-! ### Requests (R233) -/

/-- y_o for every o: sums of one block with c = +0, and their flags. -/
def imgbldSums (s : State) (p : Nat) (j : Job) (d : ImgDesc) (atom : Bytes) : List (Nat × Flags) :=
  let slot := imgbldSlot j.b.toNat
  let f := (matFmt (slotAt s p slot).fmt.toNat).getD .e4m3
  let av := atom.map (fun x => valueOf .e4m3 x.toNat)
  (List.range (imgbldTiles f d.o)).flatMap (fun t =>
    (List.range (bCols f)).map (fun c => blockAdd 0 (blockSum av (bColumn s p (slot + t * bSlotsOf f) f c))))

/-- y_o in the element format of the row. -/
def imgbldElem (f : Fmt) (y : Nat × Flags) : Nat × Flags :=
  match f with
  | .bf16 =>
    let r := rne16 (decodeFloat .fp32 y.1)
    (r.1, y.2 ||| r.2)
  | .e4m3 =>
    let r := accvtElem .e4m3 true y.1
    (r.1, y.2 ||| r.2)
  | _ => y

/-- A tag that a build of version v closes. -/
def tagClosed (t id v : Nat) : Option Nat :=
  if tagValid t && tagId t == id && tagHi t == 0xFFFF then
    some (if tagLo t < v then t - 0xFFFF * 2 ^ 16 + (v - 1) * 2 ^ 16 else t % 2 ^ 63)
  else none

def tagWord (id hi lo : Nat) : Nat := 2 ^ 63 + id * 2 ^ 32 + hi * 2 ^ 16 + lo

/-- The first poisoned unit that a request reads: its atom, or the B slots. -/
def imgbldPoison (s : State) (p : Nat) (j : Job) (row : Nat) : Option Nat :=
  if s.poison.isEmpty then none
  else
    match trussPoison s p (row * 64) 64 with
    | some w => some w
    | none => trussPoison s p (imgbldSlot j.b.toNat * 2048) (j.use.getD 1 * 2048)

/-- The steps of one request from step k on: row, other tags, tag, buffer, install. Each write lands before the next. -/
def imgbldReq (p : Nat) (d : ImgDesc) (r : ImgReq) (row : Bytes) : Nat → State → Job → State
  | 0, s, _ => s
  | fuel + 1, s, j =>
    let ag := jobAgent p j.id
    let v := j.bytesDone
    let k := d.row r.s r.j r.e
    let at_ (k : Nat) : State × Job := let j := { j with work := [k] }; (setJobOn s p j, j)
    let wrote (x : Got Unit) (k : Nat) : State ⊕ (State × Job) :=
      match x with
      | .fault s f => .inl (matFault s p j f)
      | .wait s => .inl s
      | .ok s _ => let j := { j with work := [k] }; .inr (setJobOn s p j, j)
    if agentBusy s ag then s
    else
      let stage := j.work.headD 0
      let out : State ⊕ (State × Job) :=
        match stage with
        | 0 => wrote (engWriteAt s ag j.jobid j.who (d.rowAddr k) row) 1
        | 1 =>
          (match engReadAt s ag j.who (d.tagAddr (d.row r.s r.j 0)) (8 * d.v) with
          | .fault s f => .inl (matFault s p j f)
          | .wait s => .inl s
          | .ok s ts =>
            let xs := (List.range d.v).filterMap (fun e =>
              if e == r.e then none
              else (tagClosed (leAt ts (8 * e) 8) d.id v).map (fun t => (d.tagAddr (d.row r.s r.j e), t)))
            match xs.foldl (fun (b : Got Unit) x =>
                match b with
                | .ok s _ => engWriteAt s ag j.jobid j.who x.1 (leBytes 8 x.2)
                | b => b) (.ok s ()) with
            | .fault s f => .inl (matFault s p j f)
            | .wait s => .inl s
            | .ok s _ => let j := { j with work := [2] }; .inr (setJobOn s p j, j))
        | 2 => wrote (engWriteAt s ag j.jobid j.who (d.tagAddr k) (leBytes 8 (tagWord d.id 0xFFFF v))) 3
        | 3 => if r.ins then wrote (engWriteAt s ag j.jobid j.who r.buf row) 4 else .inr (at_ 5)
        | _ =>
          let s := if stage == 4 then imgInstall s p d.id r.s r.j v 0xFFFF r.buf else s
          let j := { j with work := [], prog2 := j.prog2 + 1 }
          .inl (if j.prog2 == j.list.length then endJob s p j .done else setJobOn s p j)
      match out with
      | .inl s => s
      | .inr (s, j) => imgbldReq p d r row fuel s j

/-- The IMGBLD whose next request the array has computed. -/
def imgbldDue (s : State) (p : Nat) : Option Job :=
  (s.pier p).jobs.find? (fun j => j.cmd == .imgbld && j.started && j.status == .running
    && j.prog2 < min (32 * (j.prog / imgbldT s p j)) j.list.length && !agentBusy s (jobAgent p j.id))

/-- IMGBLD_REQUEST: one row, its tags and its installation (R233). -/
def execImgbldRequest (p : Nat) (s : State) : Out :=
  match imgbldDue s p with
  | none => .next s
  | some j =>
    match imgDesc? j.tmpl (j.tmpl2.drop 64), j.list[j.prog2]? with
    | some d, some w =>
      let r := imgReq w
      let atomRow := (dslotAt s p (imgbldDict j.b.toNat)).row + r.j
      match imgbldPoison s p j atomRow with
      | some w => matrixDone (bankError s p { j with inq := false } w) p
      | none =>
        let ys := (imgbldSums s p j d (trussRead s p (atomRow * 64) 64)).map (imgbldElem d.fmt)
        let row := ys.flatMap (fun y => leBytes (fmtBytes d.fmt) y.1)
        let j := if j.work.isEmpty then { j with flags := j.flags ||| orFlags (ys.map Prod.snd) } else j
        matrixDone (imgbldReq p d r row 6 s j) p
    | _, _ => .next s

end Sys2Proof.Machine
end

