-- ==== Sys2Proof/Machine/Bus.lean ====
section
/-!
DEFINITION. The operand bus of the truss bank: the grants of the MAC array (R190, R191) and of the encoder (R204, R212), which
share it (R185), their contention (R352), and the boundary of the bank (R184).
-/
namespace Sys2Proof.Machine

/-! ### The rotation of the array (R190) -/

/-- May an IMGBLD take its next step? A group's steps follow the requests of the group before. -/
def imgbldCan (s : State) (p : Nat) (j : Job) : Bool :=
  if !j.started then mayStart s p j none && slotFreeFor s p j
  else j.prog / imgbldT s p j * 32 ≤ j.prog2

/-- What a job reads is on its way from another module. -/
def dataComing (s : State) (p : Nat) (j : Job) : Bool := s.remote.any (fun r => r.who == .operand (jobAgent p j.id))

/-- Is the data of a TRLD at hand (R190)? A record that its start refuses, or at which it faults, waits for none. -/
def trldReady (s : State) (p : Nat) (j : Job) : Bool :=
  let there (x : Loc × Nat) : Bool :=
    let at_ (i : Nat) : Loc := match x.1 with
      | .spad c o => .spad c (o + i)
      | .here pa => .here (pa + i)
      | .there t pa l => .there t (pa + i) l
    if x.1.isThere then
      (List.range x.2).all (fun i => (fromArrived s (jobAgent p j.id) (at_ i)).isSome || (fromLine s p (at_ i)).isSome)
    else !heldAt s x.1 && !heldAt s (at_ (x.2 - 1))
  !j.tmpl.isEmpty || trldBad s p j.b.toNat || (rowsAt j).any (fun r => (cutAt 65536 r).length != (placesOf s j.who r).length)
    || (rowsAt j).all (fun r => (placesOf s j.who r).all there)

/-- The head of core k if it is a job that could take a step of the array once its data is at hand. -/
def arrayNext (s : State) (p k : Nat) : Option Job :=
  match queued s p .matrix (p * 8 + k) with
  | [] => none
  | j :: _ =>
    if !j.released || j.status != .running || agentBusy s (jobAgent p j.id) then none
    else
      match j.cmd with
      | .mma _ _ => if j.started || mayStart s p j none then some j else none
      | .trld => if j.started || mayStart s p j none then some j else none
      | .imgbld => if imgbldCan s p j then some j else none
      | _ => none

/-- The head of core k that can take a step of the array: one that waits for data is skipped. -/
def arrayHead (s : State) (p k : Nat) : Option Job :=
  match arrayNext s p k with
  | none => none
  | some j => if (if j.cmd == .trld then trldReady s p j else !dataComing s p j) then some j else none

/-- The next step of the array, unless rows of an MMA's last block are still to complete. -/
def arrayPick (s : State) (p : Nat) : Option (Job × (Nat × Nat)) :=
  if (arrayBusy s p).isSome then none
  else
    match pickRot (s.pier p).rotM (weightOf s p) (fun k => (arrayHead s p k).isSome) with
    | none => none
    | some (k, rot) => (arrayHead s p k).map (fun j => (j, rot))

/-- Every TRLD at a head that waits for data of other modules asks for it. -/
def askTrlds (s : State) (p : Nat) : State :=
  (List.range 8).foldl (fun s k =>
    match arrayNext s p k with
    | none => s
    | some j =>
      if j.cmd != .trld || trldReady s p j || dataComing s p j then s
      else
        match engRead s (jobAgent p j.id) j.who ((rowsAt j).flatMap (fun r => span r.1 r.2)) with
        | .wait s => setJobOn s p { j with started := true }
        | _ => s) s

/-! ### The bus (R185) -/

/-- Cycles for which a step of a job holds the bus (R191, R195). -/
def arrayHold (s : State) (p : Nat) (j : Job) : Nat :=
  let wide (slot : Nat) : Nat := if matFmt (slotAt s p slot).fmt.toNat == some .e2m1x then 2 else 1
  match j.cmd with
  | .mma _ _ =>
    let o := mmaOp j.a.toNat
    (match o.afmt with | some .e2m1x => 32 | some .bf16 => 128 | _ => 64) * wide o.slot
  | .imgbld => 64 * wide (imgbldSlot j.b.toNat)
  | _ => 32

/-- Can the encoder take a step that needs the bus: an ENC span, a group of DINST, or the row of a DATOM? -/
def encWants (s : State) (p : Nat) : Bool :=
  (List.range 8).any (fun k =>
    match encJob s p (p * 8 + k) with
    | some j => j.cmd != .dec && encReady s p k
    | none => false)

/-- One engine holds the bus for n cycles while the other one waits (R185, R352). -/
def contend (s : State) (p n : Nat) (other : Bool) : State := if other && n != 0 then s.countEvent p 2 n else s

/-- MMA_BLOCK: the array grants and performs one block of an MMA or step of an IMGBLD (R190). -/
def execMmaBlock (p : Nat) (s : State) : Out :=
  match arrayPick s p with
  | none => eventDone (askTrlds s p)
  | some (j, rot) =>
    let s := contend s p (arrayHold s p j) (encWants s p)
    match j.cmd with
    | .mma trim ow => matrixDone (mmaBlock (s.setPier p { s.pier p with rotM := rot }) p j trim ow) p
    | .imgbld => matrixDone (imgbldBlock s p rot j) p
    | _ => eventDone (askTrlds s p)

/-- TRLD_SLOT_WRITE: the array grants one slot write of a TRLD (R190, R195). -/
def execTrldSlotWrite (p : Nat) (s : State) : Out :=
  match arrayPick s p with
  | none => eventDone (askTrlds s p)
  | some (j, rot) =>
    if j.cmd == .trld then
      let s := contend s p 32 (encWants s p)
      matrixDone (trldStep (s.setPier p { s.pier p with rotM := rot }) p j) p
    else eventDone (askTrlds s p)

/-- Cycles for which the span of an ENC, or a group of a DINST, holds the bus (R185, R212, R225). -/
def encHold (s : State) (p : Nat) (j : Job) : Nat :=
  match j.cmd with
  | .dinst => 32
  | .enc =>
    let x := dslotAt s p j.encdict
    let wide := bits j.b.toNat 27 24 == 7
    let len := if wide then 256 else 128
    (match peekFor j.who s (bits j.a.toNat 23 0 + j.prog * len) len with
    | .ok _ bs =>
      let lanes := (List.range 64).map (fun i => if wide then leAt bs (4 * i) 4 else leAt bs (2 * i) 2 * 65536)
      let e0 := (energy lanes).1
      if lanes.any (fun v => !(decodeFloat .fp32 v).isFinite) || isInf32 e0 || (decodeFloat .fp32 e0).isZero then 0
      else
        let atoms := (List.range x.n).map (atomAt s p x)
        let n := iterations atoms (atoms.map atomInts) ((List.range x.n).map (normAt s p j.encdict)) (mul32 j.enctau e0).1 j.enck lanes
        n * (16 + 12 * ceilDiv x.n 32)
    | _ => 0)
  | _ => 0

/-- The encoder holds the bus for a step of a job while the array has a step to take (R185, R352). -/
def encShared (s : State) (p : Nat) (j : Job) : State :=
  if (arrayPick s p).isSome then contend s p (encHold s p j) true else s

/-- A grant of the encoder, if the rotation picks a job of this command. -/
def encGrant (s : State) (p : Nat) (c : Cmd) (f : State → Job → State) : Out :=
  match pickRot (s.pier p).rotE (weightOf s p) (encReady s p) with
  | none => .next s
  | some (k, rot) =>
    match encJob s p (p * 8 + k) with
    | none => .next s
    | some j =>
      if j.cmd == c then
        let s := encShared s p j
        eventDone (f (s.setPier p { s.pier p with rotE := rot }) j)
      else .next s

/-- ENC_SPAN (R212). -/
def execEncSpan (p : Nat) (s : State) : Out := encGrant s p .enc (fun s j => encStep s p j)
/-- DEC_SPAN (R228). -/
def execDecSpan (p : Nat) (s : State) : Out := encGrant s p .dec (fun s j => decStep s p j)
/-- DINST_GROUP_WRITE (R225). -/
def execDinstGroupWrite (p : Nat) (s : State) : Out := encGrant s p .dinst (fun s j => dinstGroup s p j)

/-- The row of a DATOM takes one cycle of the bus (R226). -/
def datomHold (old new : State) (p : Nat) (j : Job) : State :=
  let slot := bits j.b.toNat 17 16
  if j.cmd == .datom && (dslotAt old p slot).ver != (dslotAt new p slot).ver then contend new p 1 (arrayPick old p).isSome else new

/-- SPAN_JOB_START: started jobs whose start waits for data go on; then the lowest core whose head can start (R204). -/
def execSpanJobStart (p : Nat) (s : State) : Out :=
  let s := settleHeads s p .span
  let go (s : State) (j : Job) : State := datomHold s (spanGo s p j) p j
  let s := ((s.pier p).jobs.filter startWaits).foldl go s
  match (List.range 8).findSome? (startable s p) with
  | none => eventDone s
  | some j =>
    let q := startJob s p j
    eventDone (go q.1 q.2)

/-! ### The boundary (R184) -/

/-- Does a dictionary lie in rows lo to hi − 1: an installed one, or one that a DINST is writing (R208)? -/
def rowsInstalled (s : State) (p lo hi : Nat) : Bool :=
  rowsKept s p 4 lo hi

/-- TRUSS_BOUNDARY_MOVE: the bank moves its boundary to TRSPLIT when it can. -/
def execTrussBoundaryMove (p : Nat) (s : State) : Out :=
  let pr := s.pier p
  let t := pr.trsplit
  let e := pr.split
  let live := pr.jobs.filter (fun j => j.eng == .matrix && j.released && !j.status.final)
  let up := (List.range (16 * (t - e))).map (fun i => 128 - 16 * t + i)
  let down := (List.range (16 * (e - t))).map (fun i => 128 - 16 * e + i)
  let freeUp := up.all (fun n => !(slotAt s p n).loaded && live.all (fun j => !(slotsUsed s p j).contains n))
  if t == e || t > 8 || !freeUp || down.any (fun n => rowsInstalled s p (n * 32) (n * 32 + 32)) then .next s
  else
    let s := down.foldl (fun s n => unloadSlot s p n) s
    let pr := s.pier p
    matrixDone (s.setPier p { pr with split := t, splitWait := []
                                      jobs := pr.jobs.map (fun j => if j.eng == .matrix then { j with ver := 0 } else j) }) p

end Sys2Proof.Machine
end

