-- ==== Sys2Proof/Machine/Reuse.lean ====
section
/-!
DEFINITION. The reuse table (R282 to R288): keys, probes, the check at generation, insertion at END, RPROBE (R296) and RINV
(R297).
-/
namespace Sys2Proof.Machine

/-! ### Keys (R282, R284) -/

/-- The set of a key. -/
def reuseSet (key : Bytes) : Nat := (key.getD 0 0).toNat + 256 * ((key.getD 1 0).toNat % 16)

/-- A record with its control word replaced. -/
def withCtl (r : Bytes) (c : Nat) : Bytes := patch r 0x2C (leBytes 4 c)

/-- An argument record as M holds it. -/
def argForM (r : Bytes) : Bytes := withCtl r (setBits (lCtl r) 14 8 0)

/-- A result record as M holds it. -/
def resForM (r : Bytes) : Bytes := patch (withCtl r (setBits (lCtl r) 14 10 0)) 0 (List.replicate 16 0)

/-- The addresses of the generations of records' tiles, record by record, in tile-number order. -/
def genAddrs (rs : List Bytes) : List Nat := rs.flatMap (fun r => (List.range (lTiles r)).map (fun t => lShadow r + 16 * t))

/-- Words of n bytes of the virtual device at addresses, read by the hardware for an agent, each at its home. -/
def homeWords (s : State) (agent vd core n : Nat) (as : List Nat) : Got (List Bytes) :=
  match engRead s agent (sysWho vd core) (as.flatMap (fun a => span a n)) with
  | .fault s f => .fault s f
  | .wait s => .wait s
  | .ok s bs => .ok s ((List.range as.length).map (fun i => (bs.drop (n * i)).take n))

/-- The generations of the tiles of records, each read at its home (R284). -/
def allGens (s : State) (agent vd core : Nat) (rs : List Bytes) : Got (List Nat) :=
  match homeWords s agent vd core 4 (genAddrs rs) with
  | .fault s f => .fault s f
  | .wait s => .wait s
  | .ok s ws => .ok s (ws.map leNat)

/-- M up to the unit index (R284). -/
def messageM (hash : Bytes) (tenant : Nat) (args results : List Bytes) (units : Nat) (gens : List Nat) : Bytes :=
  hash ++ leBytes 2 tenant ++ leBytes 1 args.length ++ leBytes 1 results.length ++ leBytes 4 units
    ++ args.flatMap argForM ++ results.flatMap resForM ++ gens.flatMap (leBytes 4)

/-- The key of a unit. -/
def reuseKey (m : Bytes) (u : Nat) : Bytes := (sha512 (m ++ leBytes 4 u)).take 16

/-! ### Probes (R282, R286) -/

/-- The valid entry of a key and tenant, with its place in the table. -/
def reuseProbe (s : State) (key : Bytes) (tenant : Nat) : Option (Nat × Reuse) :=
  s.reuse.find? (fun e => e.1 / 16 == reuseSet key && e.2.key == key && e.2.tenant == tenant)

/-- A summary slot goes back to its virtual device's area. -/
def freeSlot (s : State) (e : Reuse) : State :=
  match s.vdev? e.vd with
  | some v => s.setVdev e.vd { v with reuseFree := e.summary :: v.reuseFree }
  | none => s

/-- Clear the entries that satisfy a test. -/
def reuseClear (s : State) (f : Reuse → Bool) : State :=
  (s.reuse.filter (fun e => f e.2)).foldl (fun s e => freeSlot { s with reuse := kdel e.1 s.reuse } e.2) s

/-- An entry was hit or inserted. -/
def reuseTouch (s : State) (i : Nat) (e : Reuse) : State :=
  { s with reuse := kput i { e with lru := s.reuseClock } s.reuse, reuseClock := s.reuseClock + 1 }

/-- The stored result records and generations of a summary (R285). -/
def summaryRecords (s : State) (e : Reuse) : List Bytes × List Nat :=
  let q := leNat (sysRead s e.vd (e.summary + 0x10) 1)
  let n := leNat (sysRead s e.vd (e.summary + 0x12) 2)
  ((List.range q).map (fun k => sysRead s e.vd (e.summary + 0x40 + 64 * k) 64),
   (List.range n).map (fun k => leNat (sysRead s e.vd (e.summary + 0x140 + 4 * k) 4)))

/-- Is a conversion in progress over a tile of this extent (R277, R286)? -/
def converting (s : State) (vd : Nat) (r : Bytes) : Bool :=
  s.convs.any (fun c => c.vd == vd && 3 ≤ c.step && c.step < 7 && c.base < lBase r + 4096 * lTiles r
    && lBase r < c.base + 4096 * c.tiles)

/-- What the probe of a unit comes to (R286). -/
inductive ReuseAns where
  | wait (s : State)
  | place (s : State)
  | retire (s : State)
  | copy (s : State) (vd : Nat) (stored : List Bytes) (gens : List Nat)

/-- The probe that the packet processor makes for unit u of a pure launch, as `agent`. Generations that cannot be read count as
different (log 92). -/
def reuseCheck (s : State) (agent core : Nat) (l : Launch) (tenant u : Nat) : ReuseAns :=
  match reuseProbe s (reuseKey l.msgM u) tenant with
  | none => .place s
  | some (i, e) =>
    let st := summaryRecords s e
    let failed (s : State) : ReuseAns :=
      .place (reuseClear (dropArrived s agent) (fun x => x.key == e.key && x.tenant == e.tenant))
    if st.1.any (converting s e.vd) || l.results.any (converting s l.vd) then failed s
    else
      match allGens s agent e.vd core st.1 with
      | .wait s => .wait s
      | .fault s _ => failed s
      | .ok s gs =>
        if gs != st.2 then failed s
        else
          let s := reuseTouch (dropArrived s agent) i e
          if (l.results.map lBase) == (st.1.map lBase) then .retire s else .copy s e.vd st.1 st.2

/-- The sectors of a copy of the stored result extents into the launch's: from, to, and up to 256 bytes. -/
def reuseSectors (pairs : List (Bytes × Bytes)) : List (Nat × Nat × Nat) :=
  pairs.flatMap (fun x => (List.range (ceilDiv (lExtent x.1) 256)).map (fun k =>
    (lBase x.1 + 256 * k, lBase x.2 + 256 * k, min 256 (lExtent x.1 - 256 * k))))

/-- How far a copy came: the state, the sectors done, and the fault it met; a PAGE, or a read that waits, is none. -/
structure CopyRun where
  s : State
  done : Nat
  fault : Option AFault
  atEnd : Bool

/-- Copy sectors from where the copy stands, under the launch's lease (R286). -/
def reuseCopyOut (s : State) (agent lid : Nat) (l : Launch) (vd pier done : Nat) (sectors : List (Nat × Nat × Nat)) : CopyRun :=
  let core := pier * 8
  let src := sysWho vd core
  let dst : Who := ⟨l.vd, 0, lid, true, true, 0, core⟩
  let stop (s : State) (done : Nat) (f : Option AFault) : CopyRun :=
    ⟨s, done, match f with | some f => if f.cause == .page then none else some f | none => none, true⟩
  let r := (sectors.drop done).foldl (fun (r : CopyRun) x =>
    if r.atEnd then r
    else if agentBusy r.s agent then stop r.s r.done none
    else
      match engReadAt r.s agent src x.1 x.2.2 with
      | .fault s f => stop r.s r.done (some f)
      | .wait s => stop s r.done none
      | .ok s bs =>
        match engWriteAt (dropArrived s agent) agent l.jobid dst x.2.1 bs with
        | .fault s f => stop s r.done (some f)
        | .wait s => stop s r.done none
        | .ok s _ => { r with s := s, done := r.done + 1 }) ⟨s, done, none, false⟩
  r

/-! ### Insertion (R287) -/

/-- The way that a new entry of a tenant takes in a set. -/
def reuseWay (s : State) (set tenant quota : Nat) : Option Nat :=
  let mine := s.reuse.filter (fun e => e.2.tenant == tenant)
  let inSet := s.reuse.filter (fun e => e.1 / 16 == set)
  let oldest (es : List (Nat × Reuse)) : Option Nat :=
    match es with
    | [] => none
    | e :: rest => some (rest.foldl (fun b x => if x.2.lru < b.2.lru then x else b) e).1
  let own := oldest (inSet.filter (fun e => e.2.tenant == tenant))
  if mine.length < quota then
    match (List.range 16).find? (fun w => !inSet.any (fun e => e.1 % 16 == w)) with
    | some w => some (set * 16 + w)
    | none => (match own with | some i => some i | none => oldest inSet)
  else own

/-- The summary of an entry (R285). -/
def writeSummary (s : State) (vd a : Nat) (key : Bytes) (results : List Bytes) (gens : List Nat) : State :=
  let s := sysWrite s vd a key
  let s := sysWrite s vd (a + 0x10) (leBytes 1 results.length)
  let s := sysWrite s vd (a + 0x12) (leBytes 2 gens.length)
  let s := sysWrite s vd (a + 0x40) results.flatten
  sysWrite s vd (a + 0x140) (gens.flatMap (leBytes 4))

/-- Put an entry into the table with its summary: in the place of the same key and tenant, else where R287 lets it. -/
def reuseEnter (s : State) (vd tenant quota : Nat) (key tag : Bytes) (records : List Bytes) (gens : List Nat) : State :=
  let at_ := match reuseProbe s key tenant with
    | some (i, _) => some i
    | none => reuseWay s (reuseSet key) tenant quota
  match at_ with
  | none => s
  | some i =>
    let s := match kget? s.reuse i with
      | some e => freeSlot { s with reuse := kdel i s.reuse } e
      | none => s
    match s.vdev? vd with
    | some v =>
      (match v.reuseFree with
      | [] => s
      | a :: rest =>
        let s := writeSummary (s.setVdev vd { v with reuseFree := rest }) vd a key records gens
        reuseTouch s i ⟨key, tag, tenant, a, vd, 0⟩)
    | none => s

/-- The unit of context c, which ends, inserts its entry if R287 lets it: argument and result generations are read at their
homes, and the result records as they stand. What cannot be read lets nothing be inserted (log 92). -/
def reuseInsert (s : State) (c : Nat) : Got Unit :=
  let x := s.ctx c
  match s.launch? x.launchid.toNat, s.vdev? x.vd with
  | some l, some v =>
    if !x.pure || s.taints.contains (x.vd, x.record) || v.reuseQuota == 0 then .ok s ()
    else
      let core := coreOfCtx c
      match allGens s c x.vd core (l.args ++ l.results) with
      | .wait s => .wait s
      | .fault s _ => .ok s ()
      | .ok s gs =>
        match homeWords s c x.vd core 64 l.resAddrs with
        | .wait s => .wait s
        | .fault s _ => .ok s ()
        | .ok s rs =>
          let n := l.argGens.length
          .ok (if gs.take n != l.argGens then s
            else reuseEnter s x.vd x.tenant.toNat v.reuseQuota (reuseKey l.msgM x.unitidx.toNat) (l.codeHash.take 8) rs
              (gs.drop n)) ()
  | _, _ => .ok s ()

/-! ### RPROBE, RINV (R296, R297) -/

def execRprobe (o : EDA) (s : State) : Out :=
  conclude s (gateE s [waits o.a] [.s o.d] fun x =>
    let a := (x.getS o.a).toNat
    if a % 8 != 0 then accessTrap s (addressFault a)
    else
      got (operand s a 16) (fun s key =>
        .ok (setD s o.d (match reuseProbe s key x.tenant.toNat with
          | some (i, e) => BitVec.ofNat 64 (2 ^ 63 + i % 16 * 2 ^ 48 + e.summary % 2 ^ 48)
          | none => 0))) s)

def execRinv (o : E3) (s : State) : Out :=
  conclude s (gateE s [waits o.a, waits o.b] [.s o.d] fun x =>
    let a := (x.getS o.a).toNat
    let b := (x.getS o.b).toNat
    let mode := b % 4
    let tenant := bits b 31 16
    let sweep (s : State) (f : Reuse → Bool) : Verdict :=
      let g (e : Reuse) : Bool := e.tenant == tenant && f e
      .ok (setD (reuseClear s g) o.d (BitVec.ofNat 64 (s.reuse.filter (fun e => g e.2)).length))
    if mode == 3 || b / 2 ^ 32 != 0 || bits b 15 2 != 0 then trapFree s .illegal
    else if tenant != x.tenant.toNat && x.level < 3 then trapFree s .privilege
    else if mode == 0 then sweep s (fun _ => true)
    else if a % 8 != 0 then accessTrap s (addressFault a)
    else if mode == 1 then got (operand s a 32) (fun s h => sweep s (fun e => e.tag == h.take 8)) s
    else got (operand s a 16) (fun s key => sweep s (fun e => e.key == key)) s)

end Sys2Proof.Machine
end

