-- ==== Sys2Proof/Machine/System.lean ====
section
/-!
DEFINITION. SUSP, YIELD and END (R114 to R116), the waiting load that issues by itself (R157), and the events of contexts: the
budget, the handler cap, a pre-emption that arrives, the frame of a stopped context (R22, R37, R43, R44, R49, R387).
-/
namespace Sys2Proof.Machine

/-! ### Voluntary suspension (R41) -/

/-- Suspend voluntarily with a state and wait object that are chosen once held commands are gone. A handler traps with
HANDLER_BLOCK (R22), firmware faults (log 8); outstanding remote accesses are waited for and an unknown outcome is
reported first (R386, R387). -/
def suspend (s : State) (pick : State → State × Nat × Nat) : Verdict :=
  let c := s.cur
  let x := s.me
  match x.role with
  | .handler => trapFree s .handlerBlock
  | .firmware => .ok { s with broken := some .firmwareFault }
  | _ =>
    let s := drainCtx s c
    if suspendBlocked s c then .wait s
    else
      match s.me.unknown with
      | some a => .trap (taint (s.setMe { s.me with unknown := none }) x.vd x.record) .fabricUnknown a false
      | none =>
        let s := leaveGuards s c
        let w := pick s
        .left (suspendUnit w.1 c w.2.1 w.2.2 (nextPc x))

/-- SUSP (R114). -/
def execSusp (o : EA) (s : State) : Out :=
  conclude s (gate s (formG s accG [waits o.a] []) fun x =>
    let id := (x.getS o.a).toNat % 65536
    let p := pierOfCtx s.cur
    suspend s (fun s =>
      match (s.pier p).jobs.find? (fun j => j.id == id && jobOf (s.ctx s.cur) s.cur j) with
      | some j => if j.status.final then (s, stReady, 0) else (s, stWaiting, waitJob 0 p id)
      | none => (s, stReady, 0)))

/-- YIELD (R115). -/
def execYieldUnit (s : State) : Out :=
  conclude s (gate s (formG s accG [] []) fun _ => suspend s (fun s => (s, stReady, 0)))

/-! ### END (R116) -/

/-- Must END still wait? -/
def endWaits (s : State) (c : Nat) : Bool :=
  !(s.ctx c).loads.isEmpty || outcomesDue s c || (unitJobs s c).any (fun j => !j.2.status.final)

/-- A job of this context that ended with ERROR and has not been reported (R382). -/
def unreported (s : State) (c : Nat) : Option (Nat × Job) :=
  (unitJobs s c).find? (fun j => j.2.status == .error && !j.2.reported)

/-- The unit is over: the counter of its launch falls, its record and context free. -/
def endOfUnit (s : State) (c : Nat) : State :=
  let x := s.ctx c
  let l := x.launchid.toNat
  let s := setRecState (setRecCause s x.vd x.record 0) x.vd x.record stDone
  retireUnit (freeCtx s c none) x.vd l x.record

/-- A handler is over: its jobs are forgotten, no counter changes. -/
def endOfHandler (s : State) (c : Nat) : State :=
  let x := s.ctx c
  freeCtx (orphanRecvs (keepJobs s (fun j => !jobOf x c j)) (fun q => q.unit == 0 && q.ctx == c)) c none

/-- END: the waits, then flags, errors and unknown outcomes, then the end. -/
def execEndUnit (s : State) : Out :=
  conclude s (gate s { formR accNone ⟨0, false⟩ [] [] with illegal := s.me.level ≥ 2 } fun _ =>
    let c := s.cur
    let s := if s.me.ending then s else
      let s := leaveGuards s c
      s.setMe { s.me with ending := true }
    let s := drainCtx s c
    if endWaits s c then .wait s
    else
      let s := s.setMe (s.me.addFlags (orFlags ((unitJobs s c).map (fun j => j.2.flags))))
      match unreported s c with
      | some (p, j) => .trap (setJobOn s p { j with reported := true }) j.cause j.faddr false
      | none =>
        match reportDue s c with
        | some (cause, a, s) => .trap s cause a false
        | none =>
          if s.me.role == .handler then .left (endOfHandler s c)
          else
            match reuseInsert s c with
            | .wait s => .wait s
            | .fault s f => accessTrap s f
            | .ok s _ => .left (endOfUnit s c))

/-! ### A waiting load issues (R157) -/

/-- The meaning of a load that waits on granules: qualifiers 10 and 11. -/
def granuleLoad (i : Instr) : Option (State → Out) :=
  let on (q : BitVec 2) (f : State → Out) : Option (State → Out) := if q.toNat ≥ 2 then some f else none
  match i with
  | .ldb o => on o.q (execLdb o)
  | .ldh o => on o.q (execLdh o)
  | .ldw o => on o.q (execLdw o)
  | .ldd o => on o.q (execLdd o)
  | .ldbn o => on o.q (execLdbn o)
  | .ldhn o => on o.q (execLdhn o)
  | .ldwn o => on o.q (execLdwn o)
  | .ldv o => on o.q (execLdv o)
  | .ldx o => on o.q (execLdx o)
  | .tld o => on o.q (execTld o)
  | _ => none

/-- GRANULE_WAIT_ISSUE: the load that context c waits with issues once its granules are full, without an issue slot of the
core. Where it does not issue, nothing changes. -/
def execGranuleWaitIssue (c : Nat) (s : State) : Out :=
  let x := s.ctx c
  if !x.busy || x.stop.isSome || x.pageWait || x.fencing || (s.core (coreOfCtx c)).halted then .next s
  else
    match fetchWord s c (wordPc x) with
    | .ok t w =>
      (match (decoded w).bind granuleLoad with
      | none => .next s
      | some f =>
        match f { t with cur := c } with
        | .next u => .next (if (u.ctx c).loads.length == x.loads.length + 1 then { u with cur := s.cur } else s)
        | _ => .next s)
    | _ => .next s

/-! ### Budget, handler cap, pre-emption, frames -/

/-- The stop of a context that stands at a boundary, for one reason. -/
def stopEvent (s : State) (c : Nat) (due : Ctx → Bool) : Out :=
  let x := s.ctx c
  if x.stop.isNone && !x.pageWait && atBoundary x && due x then (takeStop s c).done else .next s

/-- BUDGET_EXHAUSTED: a unit whose budget is zero stops at its boundary (R37). -/
def execBudgetExhausted (c : Nat) (s : State) : Out := stopEvent s c (fun x => x.role == .unit && x.budget == 0)

/-- HANDLER_OVERRUN: a handler has used its cycles (R22). -/
def execHandlerOverrun (c : Nat) (s : State) : Out := stopEvent s c (fun x => x.role == .handler && x.handlercap == 0)

/-- Is context c one that a request stops? -/
def preTarget (q : PreReq) (x : Ctx) : Bool :=
  x.busy && x.role != .firmware && (match q.job with | none => true | some j => x.jobid.toNat == j)

/-- A request reaches one context: a unit or an entry takes its next boundary, a handler completes first (R49, R380). -/
def preReach (s : State) (c : Nat) : State :=
  let x := s.ctx c
  match x.role with
  | .unit =>
    if x.stop.isSome || x.preemptReq then s
    else
      let s := s.setCtx c { x with preemptReq := true }
      if atBoundary x then takeStop s c else s
  | .entry k =>
    if k == .handlerRecord || x.preemptReq then s
    else if x.pageWait then
      stopCtx s c ⟨.abandon, .preempted, 0, 0, BitVec.ofNat 64 x.pc, x.pc, [], false⟩
    else if x.stop.isSome then s
    else
      let s := s.setCtx c { x with preemptReq := true }
      if atBoundary x then takeStop s c else s
  | _ => s

/-- PREEMPT_ARRIVE: every request that has this core still to reach reaches it (R49). -/
def execPreemptArrive (core : Nat) (s : State) : Out :=
  let qs := s.preempts.filter (fun q => q.todo.contains core)
  let cs := (List.range 4).map (fun i => core * 4 + i)
  let hit := cs.filter (fun c => qs.any (fun q => preTarget q (s.ctx c)))
  let waits (x : Ctx) : Bool := x.role != .entry .handlerRecord && !(match x.stop with | some st => st.held | none => false)
  let s := { s with preempts := s.preempts.map (fun q =>
    if q.todo.contains core then
      { q with todo := q.todo.filter (fun k => k != core)
               waiting := q.waiting ++ cs.filter (fun c => preTarget q (s.ctx c) && waits (s.ctx c)) }
    else q) }
  let s : State := hit.foldl preReach s
  { s with preempts := s.preempts.filter (fun q => q.ctx.isSome || !q.todo.isEmpty || !q.waiting.isEmpty) }.done

/-- FRAME_SAVE: a stopped context goes on once its loads, stores and remote accesses are over (R43, R387). -/
def execFrameSave (c : Nat) (s : State) : Out :=
  match (s.ctx c).stop with
  | some st => if st.held then .next s else (advanceStop s c).done
  | none => .next s

/-- FRAME_POOL_SUPPLY: a context held for want of a frame or a stack area frees, or its delivery goes on (R44). -/
def execFramePoolSupply (c : Nat) (s : State) : Out :=
  match (s.ctx c).stop with
  | some st => if st.held then (advanceStop s c).done else .next s
  | none => .next s

end Sys2Proof.Machine
end

