-- ==== Sys2Proof/Machine/Placement.lean ====
section
/-!
DEFINITION. How units come to contexts: deques and stealing (R31 to R35), the walk (R28 to R30), co-residency (R39, R40),
creation by FORK and SPAWN, and JOIN (R27, R332 to R334).
-/
namespace Sys2Proof.Machine

/-! ### Deques (R31, R34, R35) -/

def dequeCap : Nat := 4096

/-- The place of a record by key and arrival: the bottom is the front. -/
def dequeInsert (e : DqEntry) (q : List DqEntry) : List DqEntry :=
  q.takeWhile (fun x => x.urgency ≤ e.urgency) ++ e :: q.dropWhile (fun x => x.urgency ≤ e.urgency)

/-- The urgency key of a record. -/
def recUrgency (s : State) (vd r : Nat) : Nat := bits (recWord s vd r 3) 63 32

/-- A record enters the deque of a pier, or waits for a place (R35). The spec gives no order among the records that wait for a full
deque: here they enter in the order in which they came, and a record that comes while a place is free enters at once, ahead of
those that wait (log 92). -/
def dequeEnter (s : State) (p vd r : Nat) : State :=
  let x := s.pier p
  let e : DqEntry := ⟨recUrgency s vd r, r, vd⟩
  if x.deque.length < dequeCap then s.setPier p { x with deque := dequeInsert e x.deque }
  else s.setPier p { x with dqWait := x.dqWait ++ [e] }

/-- DEQUE_ENTRY_RESUME: a place has come free for a record that waits (R35). -/
def execDequeEntryResume (p : Nat) (s : State) : Out :=
  let x := s.pier p
  match x.dqWait with
  | e :: es =>
    if x.deque.length < dequeCap then (s.setPier p { x with dqWait := es, deque := dequeInsert e x.deque }).done else .next s
  | [] => .next s

/-! ### Idle contexts (R22, R30, R39) -/

/-- Is context 3 of every core kept for handlers in this virtual device (R22)? -/
def handlersOn (s : State) (vd : Nat) : Bool := s.jobs.any (fun j => j.2.vd == vd && j.2.handlers)

/-- May units stand on this context at all? -/
def unitCtx (s : State) (vd c : Nat) : Bool := !(c % 4 == 3 && handlersOn s vd)

/-- Does the context hold no unit, and is it not reserved? -/
def vacant (s : State) (vd c : Nat) : Bool :=
  let x := s.ctx c
  !x.busy && x.reserved.isNone && !x.stealing && unitCtx s vd c && !s.quiet vd

/-- The idle contexts of a pier for a virtual device. -/
def idleCtxs (s : State) (p vd : Nat) : List Nat :=
  let x := s.pier p
  if x.owner == some vd && x.deque.isEmpty then ((List.range 32).map (fun i => p * 32 + i)).filter (vacant s vd) else []

/-! ### Co-residency (R39, R40) -/

/-- Unit contexts of a virtual device, in (y, x, core, context) order (R38). -/
def unitCtxs (s : State) (vd : Nat) : List Nat :=
  match s.vdev? vd with
  | none => []
  | some v => (v.piers.flatMap (fun p => (List.range 32).map (fun i => p * 32 + i))).filter (unitCtx s vd)

/-- Contexts that a launch has reserved. -/
def reservedFor (s : State) (vd l : Nat) : List Nat := (unitCtxs s vd).filter (fun c => (s.ctx c).reserved == some l)

/-- The hint of unit i of a launch packet (R310). -/
def packetHint (s : State) (vd : Nat) (pkt : Bytes) (i : Nat) : Nat × Nat :=
  let w7 := leAt pkt 56 8
  let h := fixHint s vd (bits w7 7 0) (bits w7 13 8)
  if bits w7 20 19 == 1 then
    match s.vdev? vd with
    | none => h
    | some v =>
      let k := v.piers.findIdx (fun p => p == pierAt h.1 h.2)
      let p := v.piers.getD ((k + i) % max v.piers.length 1) 0
      (pierX p, pierY p)
  else h

/-- The record of unit i of a launch: the words of R19 and R310. -/
def packetRecord (s : State) (l : Nat) (x : Launch) (i : Nat) : List Nat :=
  let w (n : Nat) : Nat := leAt x.pkt (8 * n) 8
  let h := packetHint s x.vd x.pkt i
  [ (if bit (w 0) 52 then 2 ^ 60 else 0) + (if bit (w 0) 50 then 2 ^ 58 else 0) + (if bit (w 0) 51 then 2 ^ 57 else 0)
      + stReady * 2 ^ 48 + bits (w 0) 47 0
  , 0, i * 2 ^ 32 + l, bits (w 6) 63 32 * 2 ^ 32 + bits (w 7) 18 14 * 2 ^ 14 + h.2 * 2 ^ 8 + h.1, bits (w 7) 63 32
  , i, w 2, w 1 % 2 ^ 32 ]

/-- Unit i of an admitted launch gets a record; none when the record area is exhausted. -/
def generate (s : State) (l i : Nat) : Option (Nat × State) :=
  match s.launch? l with
  | none => none
  | some x =>
    match takeRecord s x.vd with
    | none => none
    | some (r, s) =>
      let s := writeRecord s x.vd r (packetRecord s l x i)
      some (r, s.setLaunch l { x with next := i + 1, live := x.live ++ [r] })

/-- Unit i of a reserved launch takes the held context nearest its hint. -/
def corePlace (s : State) (l i : Nat) : State :=
  match s.launch? l with
  | none => s
  | some x =>
    let h := packetHint s x.vd x.pkt i
    match (reservedFor s x.vd l).filter (fun c => !(s.ctx c).busy), generate s l i with
    | c :: cs, some (r, s) =>
      let d (c : Nat) : Nat := hopsXY (pierOfCtx c) h.1 h.2
      takeUnit s (cs.foldl (fun b c => if d c < d b then c else b) c) x.vd r
    | _, _ => s

/-- Units that a launch still has to generate. -/
def toGenerate (x : Launch) : Nat := x.units - x.next - (x.skip.filter (fun i => x.next ≤ i)).length

/-- The reserving launch starts once it holds as many contexts as it has units and the record area can supply them. -/
def coresStart (s : State) (vd : Nat) : State :=
  match s.vdev? vd with
  | none => s
  | some v =>
    match v.reserving with
    | none => s
    | some l =>
      match s.launch? l with
      | none => s
      | some x =>
        if (reservedFor s vd l).length < toGenerate x || v.recPool.length < toGenerate x then s
        else
          let s := s.setVdev vd { v with reserving := v.coresQ.head?, coresQ := v.coresQ.drop 1 }
          let s := s.setLaunch l { x with phase := .running }
          let s : State := ((List.range x.units).filter (fun i => !x.skip.contains i)).foldl (fun s i => corePlace s l i) s
          let s := match s.launch? l with | some y => s.setLaunch l { y with next := y.units } | none => s
          (reservedFor s vd l).foldl (fun s c =>
            if (s.ctx c).busy then s else s.setCtx c { s.ctx c with reserved := none, freed := true }) s

/-- A vacant context is reserved for the launch that is reserving, as far as it lacks contexts. -/
def coresReserve (s : State) (vd c : Nat) : State :=
  match (s.vdev? vd).bind (fun v => v.reserving) with
  | none => s
  | some l =>
    match s.launch? l with
    | none => s
    | some x =>
      if vacant s vd c && (reservedFor s vd l).length < toGenerate x then
        s.setCtx c { s.ctx c with reserved := some l, freed := false }
      else s

/-- Reserve every idle context, then start if that is enough. -/
def coresGather (s : State) (vd : Nat) : State :=
  coresStart ((unitCtxs s vd).foldl (fun s c =>
    if (s.pier (pierOfCtx c)).deque.isEmpty then coresReserve s vd c else s) s) vd

/-! ### The walk (R30) -/

/-- One hop of the dimension-ordered route. -/
def hopTo (p x y : Nat) : Nat :=
  let px := pierX p
  let py := pierY p
  if px < x then pierAt (px + 1) py else if x < px then pierAt (px - 1) py
  else if py < y then pierAt px (py + 1) else if y < py then pierAt px (py - 1) else p

/-- The first pier of the route, from p on, within the radius of the hint. -/
def withinRadius (x y radius : Nat) : Nat → Nat → Nat
  | 0, p => p
  | n + 1, p => if hopsXY p x y ≤ radius then p else withinRadius x y radius n (hopTo p x y)

/-- RECORD_OFFER: the i-th record of the placement network reaches the next pier of its route that it is offered to. An idle
context of that pier takes it: context c when it is one, else the lowest. Otherwise it moves on, or enters the deque of its
hint pier. -/
def execRecordOffer (i c : Nat) (s : State) : Out :=
  match s.walkers[i]? with
  | none => .next s
  | some w =>
    let w3 := recWord s w.vd w.record 3
    let x := bits w3 7 0
    let y := bits w3 13 8
    let q := if w.offered then hopTo w.pier x y else withinRadius x y (bits w3 18 14) 512 w.pier
    let idle := idleCtxs s q w.vd
    let gone : State := { s with walkers := s.walkers.eraseIdx i }
    (match idle with
    | d :: _ => takeUnit gone (if idle.contains c then c else d) w.vd w.record
    | [] =>
      if q == pierAt x y then dequeEnter gone q w.vd w.record
      else { s with walkers := s.walkers.set i { w with pier := q, offered := true } }).done

/-! ### A context that frees (R32, R33, R39, R40) -/

/-- Victims in the order of R33, within the grid. -/
def victims (p n : Nat) : List Nat :=
  let x : Int := pierX p
  let y : Int := pierY p
  ((List.range n).flatMap (fun (k : Nat) =>
    let d : Int := (k : Int) + 1
    (List.range 4).flatMap (fun seg => (List.range (k + 1)).map (fun (m : Nat) =>
      let i : Int := (m : Int)
      match seg with
      | 0 => (x + d - i, y + i)
      | 1 => (x - i, y + d - i)
      | 2 => (x - d + i, y - i)
      | _ => (x + i, y - d + i))))).filterMap (fun q =>
    if 0 ≤ q.1 && q.1 < 200 && 0 ≤ q.2 && q.2 < 64 then some (pierAt q.1.toNat q.2.toNat) else none)

/-- Steal for context c: the top of the first deque that is not empty (R32). -/
def steal (s : State) (c p vd : Nat) : State :=
  let x := s.ctx c
  let s := s.setCtx c { x with freed := false }
  let n := (s.pier p).stealr
  if n == 0 then s
  else
    match (victims p n).find? (fun q => (s.pier q).owner == some vd && !(s.pier q).deque.isEmpty) with
    | none => s.countEvent p 4 1
    | some q =>
      let y := s.pier q
      match y.deque.getLast? with
      | none => s
      | some e =>
        let s := s.setPier q { y with deque := y.deque.dropLast }
        let s := s.countEvent p 3 1
        { s.setCtx c { s.ctx c with stealing := true } with stolen := s.stolen ++ [(c, e.record, e.vd)] }

/-- CONTEXT_FREE_POP: a context with nothing to run takes the record that is kept on it, is reserved, pops the bottom of its
pier's deque, or, as it frees, steals. One that is reserved has its launch start as soon as the record area supplies it (R39). -/
def execContextFreePop (c : Nat) (s : State) : Out :=
  let x := s.ctx c
  let p := pierOfCtx c
  match (s.pier p).owner with
  | none => .next s
  | some vd =>
    if x.busy || x.stealing then .next s
    else
      match x.heldUnit with
      | some r =>
        if recState s x.vd r == stReady && !s.quiet vd then (takeUnit (s.setCtx c { x with heldUnit := none }) c x.vd r).done else .next s
      | none =>
        if x.reserved.isSome && !s.quiet vd then (coresStart s vd).done
        else if !vacant s vd c then .next s
        else
          let t := coresReserve s vd c
          if (t.ctx c).reserved.isSome then (coresStart t vd).done
          else
            match (s.pier p).deque with
            | e :: es => (takeUnit (s.setPier p { s.pier p with deque := es }) c e.vd e.record).done
            | [] => if x.freed then (steal s c p vd).done else .next s

/-- STOLEN_RECORD_ARRIVE: the stolen record reaches the context that asked; one that was cancelled on the way does not, and
one of a virtual device that quiesces enters the deque there (R394). -/
def execStolenRecordArrive (c : Nat) (s : State) : Out :=
  if !(s.ctx c).stealing then .next s
  else
    let s := s.setCtx c { s.ctx c with stealing := false, freed := true }
    match s.stolen.find? (fun t => t.1 == c) with
    | none => s.done
    | some t =>
      let s := { s with stolen := s.stolen.erase t }
      (if s.quiet t.2.2 then dequeEnter s (pierOfCtx c) t.2.2 t.2.1 else takeUnit s c t.2.2 t.2.1).done

/-! ### FORK, JOIN, SPAWN (R332 to R334) -/

/-- A counter of the executing job (R345). -/
def ownCounter (s : State) (job id : Nat) : Option Counter :=
  match kget? s.counters id with
  | some k => if k.owner == job && !k.provisional then some k else none
  | none => none

/-- The next unused index of the executing context's launch (R27). -/
def nextIndex (s : State) : Option (Nat × Launch) :=
  match s.launch? s.me.launchid.toNat with
  | none => none
  | some l => if l.spawnNext < 2 ^ 32 then some (l.spawnNext, l) else none

/-- Create a unit of the executing context's launch: the words of its record after word 2, the launch counter, the index. -/
def createUnit (s : State) (i : Nat) (l : Launch) (pc w3 budget s1 s2 s3 : Nat) : Option (Nat × State) :=
  let x := s.me
  let id := x.launchid.toNat
  match takeRecord s x.vd with
  | none => none
  | some (r, s) =>
    let strict := match s.launch? id with | some y => bit (leAt y.pkt 0 8) 50 | none => false
    let strict := if x.role == .unit then x.strict else strict
    let s := writeRecord s x.vd r
      [(if strict then 2 ^ 58 else 0) + stReady * 2 ^ 48 + pc, 0, i * 2 ^ 32 + id, w3, budget, s1, s2, s3]
    let s := s.setLaunch id { l with spawnNext := i + 1, live := l.live ++ [r] }
    some (r, addCounter s id 1)

/-- FORK (R332): one instruction. It waits for a place in the deque, a free record, its release, and the operations that its
context has sent to the slices of the counter and of the launch before (R341, R375). -/
def execFork (o : E3) (s : State) : Out :=
  conclude s (gateE s [waits o.a, waits o.b] [.s o.d] fun x =>
    let a := (x.getS o.a).toNat
    let b := (x.getS o.b).toNat
    let p := pierOfCtx s.cur
    match ownCounter s x.jobid.toNat b, nextIndex s with
    | some k, some (i, l) =>
      if k.kind == .level && x.level < 3 then trapFree s .privilege
      else
      impure s <| if a % 4 != 0 then accessTrap s (addressFault a)
      else
        let q := releaseWait s s.cur
        if q.2 || onWayTo s s.cur b || onWayTo s s.cur x.launchid.toNat || (s.pier p).deque.length ≥ dequeCap then .wait q.1
        else
          (match createUnit q.1 i l (a % 2 ^ 48) (x.urgency.toNat * 2 ^ 32 + pierY p * 2 ^ 8 + pierX p) x.budget.toNat
            (x.getS 1).toNat (x.getS 2).toNat b with
          | none => .wait q.1
          | some (r, s) =>
            let s := dequeEnter (addCounter s b 1) p x.vd r
            .ok (setD s o.d (BitVec.ofNat 64 i)))
    | _, _ => trapFree s .illegal)

/-- JOIN (R333). The operations that its context has sent to the counter's slice come first (R341). -/
def execJoin (o : EA) (s : State) : Out :=
  conclude s (gateE s [waits o.a] [] fun x =>
    let id := (x.getS o.a).toNat
    match ownCounter s x.jobid.toNat id with
    | none => trapFree s .illegal
    | some k =>
      impure s <| if onWayTo s s.cur id then .wait s
      else if k.value == 0 then .ok s
      else
        suspend s (fun s =>
          match kget? s.counters id with
          | none => (s, stReady, 0)
          | some k =>
            if k.value == 0 then (s, stReady, 0)
            else
              (setCounter s id { k with waiters := k.waiters ++ [⟨x.vd, x.record, pierOfCtx s.cur, .zero⟩] }, stWaiting,
                waitCounter 2 id)))

/-- SPAWN (R334, R431): the descriptor is read as loads. It waits while its record must enter its own pier's full deque (R35), and for
the operations that its context has sent to the slice of the launch before (R341, R375). -/
def execSpawn (o : EDA) (s : State) : Out :=
  conclude s (gateE s [waits o.a] [.s o.d] fun x =>
    impure s <|
    let a := (x.getS o.a).toNat
    if a % 8 != 0 then accessTrap s (addressFault a)
    else
      got (operand s a 48) (fun s ds =>
        let w (n : Nat) : Nat := leAt ds (8 * n) 8
        match nextIndex s with
        | none => trapFree s .illegal
        | some (i, l) =>
          if w 0 / 2 ^ 48 != 0 || w 0 % 4 != 0 || bits (w 1) 31 19 != 0 || w 2 / 2 ^ 32 != 0 then trapFree s .illegal
          else
            let q := releaseWait s s.cur
            if q.2 || onWayTo s s.cur x.launchid.toNat then .wait q.1
            else
              let h := fixHint s x.vd (bits (w 1) 7 0) (bits (w 1) 13 8)
              let p := pierOfCtx s.cur
              if pierAt h.1 h.2 == p && (idleCtxs s p x.vd).isEmpty && (s.pier p).deque.length ≥ dequeCap then .wait q.1
              else
              match createUnit q.1 i l (w 0) (w 1 / 2 ^ 14 * 2 ^ 14 + h.2 * 2 ^ 8 + h.1) (w 2) (w 3) (w 4) (w 5) with
              | none => .wait q.1
              | some (r, s) =>
                .ok (setD (enterWalk s x.vd r (pierOfCtx s.cur)) o.d (BitVec.ofNat 64 i))) s)

end Sys2Proof.Machine
end

