-- ==== Sys2Proof/Machine/Counters.lean ====
section
/-!
DEFINITION. Counter slices (R339 to R345), CNEW, CADD, CWAIT, EXPECT, ARRIVE and CANCEL (R346 to R351), PERFRD (R352) and
ACCNT (R353).
-/
namespace Sys2Proof.Machine

/-! ### Ids (R339) -/

/-- The lowest counter number from n on that no key of a rising list of numbers takes. -/
def lowestGap : List Nat → Nat → Nat
  | [], n => n
  | k :: ks, n => if k < n then lowestGap ks n else if k == n then lowestGap ks (n + 1) else n

/-- A free id in the slice of a deck: the lowest number (log 6). The id of a job that has completed stays its own while the
module keeps the job (log 92). -/
def freeCounterId (s : State) (deck : Nat) : Option Nat :=
  let ids : KMap Unit := s.jobs.foldl (fun m j => kput j.1 () m) (s.counters.map (fun c => (c.1, ())))
  let used := (ids.filter (fun c => c.1 / 2 ^ 28 == deck)).map (fun c => c.1 % 65536)
  let n := lowestGap used 1
  if n ≤ 65535 then some (deck * 2 ^ 28 + n) else none

/-- Plain and phase counters of a job, which its quota limits. -/
def quotaUsed (s : State) (job : Nat) : Nat := (s.counters.filter (fun c => c.2.owner == job && c.2.kind != .level)).length

/-- A counter leaves its slice. -/
def dropCounter (s : State) (id : Nat) : State := { s with counters := kdel id s.counters }

/-! ### Packets that are not admitted (R305, R346) -/

/-- Counters that a packet names. -/
def packetCounters (pkt : Bytes) : List Nat := [leAt pkt 32 4, leAt pkt 36 4, leAt pkt 48 4]

/-- The packet of a sequence number in a queue's ring. -/
def ringPacket (s : State) (q : Queue) (n : Nat) : Bytes := sysRead s q.vd (q.ring + 64 * (n % 2 ^ q.logSize)) 64

/-- Packets of a queue that are not admitted: pending, or in the processor's hands, which it leaves at step 8 (R308). One that ends
without a launch still names its Signal until its record is performed. -/
def unadmitted (s : State) (q : Queue) : List Bytes :=
  (match q.pkt with | some p => [p.2] | none => [])
    ++ (List.range (q.widx - q.ridx)).map (fun i => ringPacket s q (q.ridx + i))

/-- Does a packet of a job that is not admitted name a counter? -/
def namedByPacket (s : State) (job id : Nat) : Bool :=
  s.queues.any (fun q => q.2.jobid == job && (unadmitted s q.2).any (fun p => (packetCounters p).contains id))

/-! ### Cancelling a level (R25, R351) -/

/-- Cancel a unit of a launch by its index. One that is not generated yet never will be; any other is left as it is. -/
def cancelIndex (s : State) (l : Nat) (x : Launch) (i : Nat) : State :=
  match x.live.find? (fun r => bits (recWord s x.vd r 2) 63 32 == i) with
  | some r => cancelUnit s x.vd r .cancelled
  | none =>
    if x.next ≤ i && i < x.units && !x.skip.contains i && x.status == 0 then
      let s := s.setLaunch l { x with skip := x.skip ++ [i] }
      coresStart (addCounter s l (-1)) x.vd
    else s

/-- Cancel the launches of a graph: those admitted whose Signal is the counter; later packets that name it and are not
admitted are dropped where they wait. A graph whose counter stands at 0 has completed and is left as it is (R24, R351). -/
def cancelGraph (s : State) (job id : Nat) : State :=
  if (kget? s.counters id).any (fun k => k.value == 0) then s else
  let s : State := { s with queues := s.queues.map (fun q =>
    (q.1, if q.2.jobid == job then { q.2 with drops := q.2.drops ++ [(id, q.2.widx)] } else q.2)) }
  (s.launches.filter (fun l => l.2.jobid == job && l.2.phase != .ended && leAt l.2.pkt 48 4 == id)).foldl
    (fun s l => cancelLaunch s l.1 .cancelled) s

/-- The job that a level which has completed belonged to: a launch's job, or the job itself. Its number is no counter any more. -/
def completedOwner (s : State) (kind id : Nat) : Option Nat :=
  match kind with
  | 0 | 1 => (s.launch? id).bind (fun x => if x.phase == .ended then some x.jobid else none)
  | 4 => (s.job? id).map (fun _ => id)
  | _ => none

/-- CANCEL at the slice: its fault, or its effect. A level that has completed is left as it is; one of another job raises PRIVILEGE
below system level, completed or not. Kind 3 wakes every waiter of a CWAIT (R351). -/
def cancelAt (s : State) (r : CtrReq) (kind i : Nat) : Except Cause State :=
  let other (owner : Nat) : Bool := owner != r.jobid && r.level < 3
  match kget? s.counters r.id with
    | none =>
      (match completedOwner s kind r.id with
      | none => .error .illegal
      | some owner => if other owner then .error .privilege else .ok s)
    | some k =>
      if k.provisional then .error .illegal
      else
        match kind with
        | 2 => if k.kind != .plain then .error .illegal else if other k.owner then .error .privilege
            else .ok (cancelGraph s k.owner r.id)
        | 3 => if k.kind != .phase then .error .illegal else if other k.owner then .error .privilege
            else .ok (wakeWhere (setCounter s r.id { k with cancelled := true }) r.id (fun c => c != .zero))
        | 4 =>
          if k.kind != .level || k.owner != r.id then .error .illegal else if other k.owner then .error .privilege
          else .ok (cancelJob s r.id .cancelled)
        | _ =>
          if k.kind != .level || k.owner == r.id then .error .illegal else if other k.owner then .error .privilege
          else
            match s.launch? r.id with
            | none => .error .illegal
            | some x => .ok (if kind == 0 then cancelIndex s r.id x i else cancelLaunch s r.id .cancelled)

/-! ### One operation at a slice (R341 to R343, R345) -/

/-- A fault that the slice finds in an operation that has issued (R345): kept for its unit's next FENCE or END. FADDR is not
stated: a free value (log 3). -/
def sliceFault (s : State) (r : CtrReq) (c : Cause) : State :=
  let vd := match s.job? r.jobid with | some j => j.vd | none => 0
  { s.takeFree with sliceFaults := s.sliceFaults ++ [⟨vd, r.record, r.ctx, r.level, c, s.freeWord⟩] }

/-- The slice's answer to a context that waits for it. -/
def answer (s : State) (c : Nat) (ws : List Word) : State := s.setCtx c { s.ctx c with reply := some ws }

/-- Answer with a fault. -/
def answerFault (s : State) (c : Nat) (f : Cause) : State := answer s c [0, BitVec.ofNat 64 f.code]

def wordOf (n : Nat) : Word := BitVec.ofNat 64 n

/-- CNEW at the slice: a provisional counter, or 0 when the slice is full or the quota is used. -/
def cnewAt (s : State) (r : CtrReq) (phase : Bool) (v : Int) : State :=
  let quota := match s.job? r.jobid with | some j => j.counterQuota | none => 0
  match freeCounterId s (r.id / 2 ^ 28) with
  | none => answer s r.ctx [1, 0]
  | some id =>
    if quotaUsed s r.jobid ≥ quota then answer s r.ctx [1, 0]
    else
      let k : Counter := ⟨r.jobid, 0, if phase then v.toNat else 0, if phase then .phase else .plain, false, v, [], true⟩
      answer (setCounter s id k) r.ctx [1, wordOf id]

/-- A request at its slice. -/
def slicePerform (s : State) (r : CtrReq) : State :=
  let mine := ownCounter s r.jobid r.id
  match r.op with
  | .add v =>
    match mine with
    | none => sliceFault s r .illegal
    | some k => if k.kind == .level && r.level < 3 then sliceFault s r .privilege else addCounter s r.id v
  | .arrive n =>
    match mine with
    | none => sliceFault s r .illegal
    | some k =>
      if k.kind != .phase then sliceFault s r .illegal
      else if k.cancelled then s
      else wakeWaiters (setCounter s r.id (phaseTake k n)) r.id
  | .cancelLevel kind i =>
    match cancelAt s r kind i with
    | .error c => sliceFault s r c
    | .ok s => s
  | .cnew phase _ v => cnewAt s r phase v
  | .cfree =>
    match mine with
    | none => answerFault s r.ctx .illegal
    | some k =>
      if k.kind == .level || !k.waiters.isEmpty || namedByPacket s r.jobid r.id then answer s r.ctx [6, 0]
      else answer (dropCounter s r.id) r.ctx [6, 1]
  | .expect p n =>
    match mine with
    | none => answerFault s r.ctx .illegal
    | some k =>
      if k.kind != .phase then answerFault s r.ctx .illegal
      else if k.cancelled || k.phase != p then answer s r.ctx [2, 0, wordOf k.phase, wordOf r.id, wordOf n]
      else
        let s := wakeWaiters (setCounter s r.id { k with value := min ctrMax (k.value + n) }) r.id
        answer s r.ctx [2, 1, wordOf k.phase, wordOf r.id, wordOf n]
  | .cwait cond =>
    match mine with
    | none => answerFault s r.ctx .illegal
    | some k =>
      if condHolds k cond then
        answer s r.ctx [5, match cond with
          | .phaseNot _ => wordOf ((if k.cancelled then 2 ^ 63 else 0) + k.phase)
          | _ => BitVec.ofInt 64 k.value]
      else
        let s := if r.record == 0 then s else
          setCounter s r.id { k with waiters := k.waiters ++ [⟨(s.ctx r.ctx).vd, r.record, pierOfCtx r.ctx, cond⟩] }
        answer s r.ctx [3, wordOf r.id]

/-- Has the operation issued already, so that it counts as a remote atomic (R345)? -/
def CtrOp.posted : CtrOp → Bool
  | .add _ => true | .arrive _ => true | .cancelLevel _ _ => true | _ => false

/-- COUNTER_OP_ARRIVE: the i-th request on its way reaches its slice. Requests of one context to one slice keep their order
(R15, R375); a release is performed after the remote accesses of its context. A stop of the context that waits for it goes on
(R374). -/
def execCounterOpArrive (i : Nat) (s : State) : Out :=
  match s.ctrReqs[i]? with
  | none => .next s
  | some r =>
    if (s.ctrReqs.take i).any (fun q => q.ctx == r.ctx && sliceDeck q.id == sliceDeck r.id) || (r.op.posted && remoteOf s r.ctx) then .next s
    else (settleDying (advanceStop (slicePerform { s with ctrReqs := s.ctrReqs.eraseIdx i } r) r.ctx)).done

/-! ### Issue (R345) -/

/-- The executing context's request to a slice. -/
def request (s : State) (id : Nat) (op : CtrOp) : State :=
  let x := s.me
  { s with ctrReqs := s.ctrReqs ++ [⟨s.cur, x.record, x.jobid.toNat, x.level, id, op⟩] }

/-- An operation that issues at once: a release of DEVICE scope. -/
def post (s : State) (id : Nat) (op : CtrOp) : Verdict := .ok (request (drainCtx s s.cur) id op)

/-- An operation that waits for the slice's answer. -/
def ask (s : State) (id : Nat) (op : CtrOp) (f : State → List Word → Verdict) : Verdict :=
  match s.me.reply with
  | none => .wait (if s.me.asked then s else (request s id op).setMe { s.me with asked := true })
  | some [0, c] => trapFree s ((Cause.ofCode c.toNat).getD .illegal)
  | some ws => f s ws

/-- The deck that CNEW's a names, none for a reserved value. -/
def cnewDeck (s : State) (a : Nat) : Option Nat :=
  if a < 16 then some a else if a == 16 then some (deckOfPier (pierOfCtx s.cur)) else none

/-- CNEW of either kind. -/
def cnewForm (s : State) (o : E3) (phase : Bool) : Out :=
  conclude s (gateE s [waits o.a, waits o.b] [.s o.d] fun x =>
    let b : Int := (x.getS o.b).toInt
    match cnewDeck s (x.getS o.a).toNat with
    | none => trapFree s .illegal
    | some deck =>
      if b < (if phase then 0 else ctrMin) || b > ctrMax then trapFree s .illegal
      else
        ask s (deck * 2 ^ 28) (.cnew phase deck b) fun s ws =>
          match ws with
          | [1, id] =>
            let s := match kget? s.counters id.toNat with
              | some k => setCounter s id.toNat { k with provisional := false }
              | none => s
            .ok (setD s o.d id)
          | _ => .wait s)

def execCnew (o : E3) (s : State) : Out := cnewForm s o false
def execCnewPhase (o : E3) (s : State) : Out := cnewForm s o true

/-- A counter id in a register: bits above 32 name nothing (R339). -/
def idOf (w : Word) : Nat := w.toNat

def execCnewFree (o : EDA) (s : State) : Out :=
  conclude s (gateE s [waits o.a] [.s o.d] fun x =>
    ask s (idOf (x.getS o.a)) .cfree fun s ws =>
      match ws with
      | [6, v] => .ok (setD s o.d v)
      | _ => .wait s)

/-- CADD (R347). -/
def execCadd (o : EAB) (s : State) : Out :=
  conclude s (gateE s [waits o.a, waits o.b] [] fun x =>
    let b : Int := (x.getS o.b).toInt
    if b < ctrMin || b > ctrMax then trapFree s .illegal
    else impure s (post s (idOf (x.getS o.a)) (.add b)))

/-- CWAIT's answer (R348): satisfied, or the unit suspends with the wait object of R325. -/
def cwaitDone (d : SReg) (s : State) (ws : List Word) : Verdict :=
  match ws with
  | [5, w] => .ok (setD s d w)
  | 3 :: id :: _ =>
    let x := s.me
    suspend s (fun s =>
      let waits : Bool := match kget? s.counters id.toNat with
        | some k => k.waiters.any (fun w => w.record == x.record && w.vd == x.vd)
        | none => false
      if waits then (s, stWaiting, waitCounter 3 id.toNat) else (s, stReady, 0))
  | _ => .wait s

def execCwait (o : E3) (s : State) : Out :=
  conclude s (gateE s [waits o.a, waits o.b] [.s o.d] fun x =>
    ask s (idOf (x.getS o.a)) (.cwait (.le (x.getS o.b).toInt)) (cwaitDone o.d))

def execCwaitPh (o : E3) (s : State) : Out :=
  conclude s (gateE s [waits o.a, waits o.b] [.s o.d] fun x =>
    let b := (x.getS o.b).toNat
    if b / 65536 != 0 then trapFree s .illegal
    else ask s (idOf (x.getS o.a)) (.cwait (.phaseNot b)) (cwaitDone o.d))

/-- EXPECT (R349). -/
def execExpect (o : EExpect) (s : State) : Out :=
  conclude s (gate s { formG s accG [waits o.a, waits o.b] [.s o.d] with illegal := o.k == 0 } fun x =>
    let b := (x.getS o.b).toNat
    let n := bits b 47 16
    if n == 0 || b / 2 ^ 48 != 0 then trapFree s .illegal
    else
      impure s <| ask s (idOf (x.getS o.a)) (.expect (b % 65536) n) fun s ws =>
        match ws with
        | 2 :: ok :: p :: _ => .ok (setKBool (setD s o.d p) o.k (ok == 1))
        | _ => .wait s)

/-- ARRIVE (R350). -/
def execArrive (o : EAB) (s : State) : Out :=
  conclude s (gateE s [waits o.a, waits o.b] [] fun x =>
    let b := (x.getS o.b).toNat
    if b == 0 || b / 2 ^ 32 != 0 then trapFree s .illegal
    else impure s (post s (idOf (x.getS o.a)) (.arrive b)))

/-! ### CANCEL (R351) -/

/-- CANCEL of a kind without a unit index. -/
def cancelForm (s : State) (o : EA) (kind : Nat) : Out :=
  conclude s (gateE s [waits o.a] [] fun x => impure s (post s (idOf (x.getS o.a)) (.cancelLevel kind 0)))

def execCancelUnit (o : EAB) (s : State) : Out :=
  conclude s (gateE s [waits o.a, waits o.b] [] fun x =>
    impure s (post s (idOf (x.getS o.a)) (.cancelLevel 0 (x.getS o.b).toNat)))

def execCancelLaunch (o : EA) (s : State) : Out := cancelForm s o 1
def execCancelGraph (o : EA) (s : State) : Out := cancelForm s o 2
def execCancelPhase (o : EA) (s : State) : Out := cancelForm s o 3
def execCancelJob (o : EA) (s : State) : Out := cancelForm s o 4

/-! ### PERFRD, ACCNT (R352, R353) -/

def execPerfrd (o : EDA) (s : State) : Out :=
  conclude s (gateE s [waits o.a] [.s o.d] fun x =>
    let a := (x.getS o.a).toNat
    if a / 16 != 0 then trapFree s .illegal
    else .ok (setD s o.d (kget 0 (s.pier (pierOfCtx s.cur)).events a)))

/-- The count that this module, as owner, keeps for a peer and a local address. -/
def accessCount (s : State) (pa size peer : Nat) : Nat :=
  match kget? s.counts (pa / size * size) with
  | some c => kget 0 c.counts peer
  | none => 0

/-- ACCNT's answer. -/
def accntWord (count : Nat) (migrate here : Bool) : Word :=
  wordOf (count + (if migrate then 65536 else 0) + (if here then 131072 else 0))

/-- ACCNT (R353): a page of another module is asked for at its owner. -/
def execAccnt (o : E3) (s : State) : Out :=
  conclude s (gateE s [waits o.a, waits o.b] [.s o.d] fun x =>
    let a := (x.getS o.a).toNat
    let b := (x.getS o.b).toNat
    if b / 4096 != 0 then trapFree s .illegal
    else if !(2 ^ 40 ≤ a && a < 2 ^ 48) then .ok (setD s o.d 0)
    else
      match walk s.mem (rootOf s x.vd) a with
      | none => .ok (setD s o.d 0)
      | some leaf =>
        if leafMode leaf != 3 then .ok (setD s o.d 0)
        else
          match peerPrefix s x.vd (leafPeer leaf) with
          | none => .ok (setD s o.d 0)
          | some p =>
            let pa := leafFrame leaf * 65536 + a % leafPages leaf
            if p == s.ownPrefix then .ok (setD s o.d (accntWord (accessCount s pa (leafPages leaf) b) true true))
            else
              match s.accnts.find? (fun y => y.ctx == s.cur) with
              | some ⟨_, _, some w⟩ => .ok (setD { s with accnts := s.accnts.filter (fun y => y.ctx != s.cur) } o.d w)
              | some ⟨_, _, none⟩ => .wait s
              | none =>
                let s1 : State := { s with accnts := s.accnts ++ [⟨s.cur, s.nextUid, none⟩], nextUid := s.nextUid + 1 }
                .wait (s1.emit (.system p (.accnt s.nextUid pa b))))

end Sys2Proof.Machine
end

