-- ==== Sys2Proof/Machine/Messages.lean ====
section
/-!
DEFINITION. The message unit: SEND, SENDC and POST (R313 to R319, R326 to R328), RECV, RCANCEL, OVPOP (R329 to R331), QPUSH,
QPOP, CRWAIT (R336, R337), arrival, the overflow queue, active messages and deliveries (R320, R321, R430).
-/
namespace Sys2Proof.Machine

/-! ### Header and status words (R314, R315) -/

def hdrKind (w : Nat) : Nat := bits w 31 30
def hdrTag (w : Nat) : Nat := bits w 29 14

def Msg.head (m : Msg) : Nat := (m.words.headD 0).toNat
def Msg.kind (m : Msg) : Nat := hdrKind m.head

/-- The status word of a message: status, truncated, job id (R315). -/
def statusWord (m : Msg) (st : JStat) (trunc : Bool) (job : Nat) : Nat :=
  let p := pierOfCore m.src
  2 ^ 63 + (if trunc then 2 ^ 62 else 0) + st.code * 2 ^ 48 + pierX p * 2 ^ 40 + pierY p * 2 ^ 34 + m.src % 8 * 2 ^ 31
    + m.kind * 2 ^ 29 + m.words.length % 2 ^ 13 * 2 ^ 16 + job % 65536

/-- Words of a message that the overflow queue keeps (R320). -/
def keptWords (m : Msg) : Nat := min m.words.length 4092

/-- Entries that a message needs there. -/
def ovEntries (m : Msg) : Nat := ceilDiv (16 + 4 * keptWords m) 64

/-- The core that destination bits [63:47] name, within the virtual device (R326). -/
def msgDest (s : State) (vd b : Nat) : Option Nat :=
  let x := bits b 63 56
  let p := pierAt x (bits b 55 50)
  match s.vdev? vd with
  | some v => if x < 200 && v.piers.contains p && bits b 46 44 == 0 then some (p * 8 + bits b 49 47) else none
  | none => none

/-! ### Acceptance (R316) -/

/-- A message is accepted: its SEND or SENDC completes; a SENDC of a message cut short by its ENC ends with ERROR (R216). -/
def acceptMsg (s : State) (p : Nat) (m : Msg) : State :=
  let s := s.countEvent p 10 1
  match m.job with
  | none => s
  | some (q, id) =>
    match jobOn? s q id with
    | none => s
    | some j => endJob s q j (if j.cause == .illegal then .error else .done)

/-! ### Delivery (R319, R430) -/

def recvWho (r : Recv) (core : Nat) : Who :=
  { vd := r.vd, level := r.level, launch := r.launch, strict := r.strict, pure := r.pure, stk := r.stk, core := core }

/-- Words of a message that go to the receive. -/
def wanted (d : Delivery) : Nat := if d.recv.sink then 0 else min d.avail d.recv.cap

/-- Is the message reported as truncated? -/
def cutShort (d : Delivery) : Bool := d.avail < d.msg.words.length || (!d.recv.sink && d.recv.cap < d.avail)

/-- The receive is over: its status word is kept for RECV, and the unit that waits for it wakes (R329, R325). -/
def recvDone (s : State) (p : Nat) (r : Recv) (w : Nat) : State :=
  let x := s.pier p
  let st := x.recvStates.find? (fun q => q.job == r.job)
  let s := s.setPier p (tidyRecvs { x with recvStates := x.recvStates.map (fun q =>
    if q.job == r.job then { q with status := some (BitVec.ofNat 64 w) } else q) })
  match st with
  | some q => wakeOn s q.vd q.unit 1 p r.job
  | none => s

/-- Hold a delivery that cannot go on. -/
def holdDelivery (s : State) (p core : Nat) (d : Delivery) : State :=
  let x := s.pier p
  s.setPier p { x with deliveries := x.deliveries ++ [(core, d)] }

/-- A delivery waits for the pager, once the overflow queue's entries have room for it (R430). -/
def pageDelivery (s : State) (p core : Nat) (d : Delivery) (f : AFault) : State :=
  if ceilDiv (16 + 4 * min d.avail 4092) 64 ≤ areaFree (s.pier p) then
    holdDelivery (askReclaim s d.recv.vd f.faddr) p core { d with paged := true }
  else holdDelivery s p core { d with paged := false }

/-- The delivery stops on a fault: ERROR in the status word, once it can be written, and a notice (R430, R379). A status word whose page
the pager has passed on cannot be. -/
def stopDelivery (s : State) (p core : Nat) (d : Delivery) (f : AFault) (passed : Bool) : State :=
  let r := d.recv
  let w := statusWord d.msg .error (cutShort d) r.job
  let stopped (s : State) : State := recvDone (raiseNotice s r.vd r.jobid p f.cause (BitVec.ofNat 64 f.faddr) 0) p r w
  match engWriteAt s (jobAgent p r.job) r.jobid (recvWho r core) (r.descr + 16) (leBytes 8 w) with
  | .ok s _ => stopped s
  | .wait s => holdDelivery s p core { d with paged := false }
  | .fault s e => if e.cause == .page && !passed then pageDelivery s p core d e else stopped s

/-- What a delivery that cannot go on meets: the fault of its next word that has one, else PAGE of its status word. -/
def deliveryFault (s : State) (core : Nat) (d : Delivery) : AFault :=
  let at_ (k : Nat) : Nat := (d.recv.buffer + 4 * k) % 2 ^ 64
  match (List.range (wanted d - d.done)).findSome? (fun i => elementFault s (recvWho d.recv core) .write (at_ (d.done + i)) 4) with
  | some f => f
  | none => ⟨.page, if d.done < wanted d then at_ d.done else (d.recv.descr + 16) % 2 ^ 64, true⟩

/-- Go on with a delivery: the words from where it stands, then the status word once they are written. -/
def deliver (s : State) (p core : Nat) (d : Delivery) : State :=
  let r := d.recv
  let w := recvWho r core
  let ag := jobAgent p r.job
  let n := wanted d
  let at_ (k : Nat) : Nat := (r.buffer + 4 * k) % 2 ^ 64
  if agentBusy s ag then holdDelivery s p core { d with paged := false }
  else
    let ks := (List.range (n - d.done)).map (fun i => d.done + i)
    let bad := ks.findSome? (fun k => (elementFault s w .write (at_ k) 4).map (fun f => (k, f)))
    let upto := match bad with | some (k, _) => k | none => n
    let cells := ((List.range (upto - d.done)).map (fun i => d.done + i)).flatMap (fun k =>
      (span (at_ k) 4).zip (leBytes 4 (d.msg.words.getD k 0).toNat))
    match (if cells.isEmpty then Got.ok s () else engWrite s ag r.jobid w cells) with
    | .wait s => holdDelivery s p core d
    | .fault s f => if f.cause == .page then pageDelivery s p core d f else stopDelivery s p core d f false
    | .ok s _ =>
      let d := { d with done := upto }
      match bad with
      | some (_, f) => if f.cause == .page then pageDelivery s p core d f else stopDelivery s p core d f false
      | none =>
        if agentBusy s ag then holdDelivery s p core { d with paged := false }
        else
          let sw := statusWord d.msg .done (cutShort d) r.job
          match engWriteAt s ag r.jobid w (r.descr + 16) (leBytes 8 sw) with
          | .wait s => holdDelivery s p core d
          | .fault s f =>
            if f.cause == .page then pageDelivery s p core d f else stopDelivery s p core d f false
          | .ok s _ => recvDone s p r sw

/-- A receive takes a message: it is accepted; a sink starts its ACCI (R216, R319). -/
def takeMsg (s : State) (p core : Nat) (r : Recv) (m : Msg) (avail : Nat) : State :=
  let s := acceptMsg s p m
  let s := if r.sink then sinkJob s p r core { m with words := m.words.take avail, job := none } else s
  deliver s p core ⟨r, m, avail, 0, false⟩

/-! ### Matching (R318) -/

/-- Does a receive match a message of kind 0 or 2? -/
def recvMatches (r : Recv) (m : Msg) : Bool :=
  (m.kind == 0 || m.kind == 2) && r.code == (m.kind == 2) && (r.anyTag || r.tag == hdrTag m.head)
    && (r.anySrc || r.srcCore == m.src)

/-- The first receive of a core that matches. -/
def firstMatch (x : Pier) (m : Msg) : Option (Nat × Recv) :=
  x.recvs.find? (fun y => y.1 == m.dst && recvMatches y.2 m)

/-- The span-engine queue of a core has its 16 commands, so that a sink receive of it takes no message (R300). -/
def sinkFull (s : State) (p core : Nat) (r : Recv) : Bool := r.sink && (queued s p .span core).length ≥ 16

/-! ### Active messages (R290, R321) -/

/-- The message unit's copy of an entry: its handler, if it is valid. -/
def entryAt (s : State) (p job e : Nat) : Option Nat :=
  let w := kget 0 (s.pier p).entries (job * 256 + e)
  if bit w 63 then some (bits w 47 0 / 4 * 4) else none

/-- The entry of a message, if its job enables handlers and the entry is valid. -/
def handlerOf (s : State) (p : Nat) (m : Msg) : Option Nat :=
  match s.job? m.jobid with
  | some j => if j.handlers then entryAt s p m.jobid (m.head % 256) else none
  | none => none

/-- Is the job of a message cancelled (R25)? -/
def msgCancelled (s : State) (m : Msg) : Bool :=
  match s.job? m.jobid with
  | some j => j.cancelled
  | none => true

/-- Can the handler context of a core start a handler now? -/
def handlerFree (s : State) (core : Nat) : Bool := !(s.ctx (core * 4 + 3)).busy && !(s.core core).halted

/-- A handler starts on context 3 of a core (R321). -/
def startHandler (s : State) (p core : Nat) (m : Msg) (pc : Nat) : State :=
  let s := acceptMsg s p m
  let c := core * 4 + 3
  let x := freshRegs (s.ctx c)
  let x := { x with role := .handler, pc := pc, vd := m.vd, jobid := BitVec.ofNat 32 m.jobid
                    tenant := BitVec.ofNat 16 (jobTenant s m.jobid), launchid := 0, unitidx := 0, urgency := 0, budget := 0
                    frame := 0, record := 0, strict := false, pure := false, coresUnit := false }
  let word (n : Nat) : Word := BitVec.ofNat 64 (m.words.getD n 0).toNat
  let x := putS (putS (putS x 1 (BitVec.ofNat 64 (statusWord m .done false 0))) 2 (word 0)) 3
    (BitVec.ofNat 64 (m.words.length - 1))
  let x := (List.range 15).foldl (fun x i => putS x (4 + i) (word (1 + i))) x
  s.setCtx c (putS x 61 0x1010000)

/-! ### The overflow queue (R320) -/

/-- Store a message; none when its entries are not free. -/
def storeMsg (s : State) (p : Nat) (m : Msg) (cause : Cause) : Option State :=
  if ovEntries m ≤ areaFree (s.pier p) then
    let s := acceptMsg s p m
    let x := s.pier p
    some (s.setPier p { x with overflow := x.overflow ++ [(m.dst, ⟨{ m with job := none }, cause⟩)] })
  else none

/-- FADDR of a notice of a pier's message unit (R379). -/
def pierWord (p : Nat) : Nat := pierY p * 2 ^ 16 + pierX p * 2 ^ 8

/-- An active message without a valid entry: stored with BAD_ENTRY, which is raised to the job. -/
def badEntry (s : State) (p : Nat) (m : Msg) : Option State :=
  (storeMsg s p m .badEntry).map (fun s =>
    raiseNotice s m.vd m.jobid p .badEntry (BitVec.ofNat 64 (m.head % 256 * 2 ^ 24 + pierWord p)) 0)

/-- A message at the message unit: matched, sunk, dispatched, kept for the handler context, or stored; none when it must be
held at the pier's ingress. -/
def placeMsg (s : State) (p : Nat) (m : Msg) : Option State :=
  if m.kind == 1 then
    if msgCancelled s m then some (acceptMsg s p m)
    else
      match handlerOf s p m with
      | none => badEntry s p m
      | some pc =>
        let k := s.core m.dst
        if k.ingress.isEmpty && handlerFree s m.dst then some (startHandler s p m.dst m pc)
        else some (s.setCore m.dst { k with ingress := k.ingress ++ [m] })
  else
    match firstMatch (s.pier p) m with
    | some (core, r) =>
      let x := s.pier p
      if sinkFull s p core r then none
      else some (takeMsg (s.setPier p { x with recvs := x.recvs.filter (fun y => y.2.job != r.job) }) p core r m m.words.length)
    | none => storeMsg s p m .none

/-- The receiving job of a message that no receive takes: that of a receive posted at its core, else that of a unit or handler on
its core, else the message's own (log 20). -/
def receivingJob (s : State) (p : Nat) (m : Msg) : Nat :=
  match (s.pier p).recvs.find? (fun r => r.1 == m.dst) with
  | some r => r.2.jobid
  | none =>
    match ((List.range 4).map (fun i => s.ctx (m.dst * 4 + i))).find? (fun x => x.busy && x.vd == m.vd && x.role != .firmware) with
    | some x => x.jobid.toNat
    | none => m.jobid

/-- Is a held message held for want of entries? One that a sink's full queue holds is not. -/
def lacksEntries (x : Pier) (m : Msg) : Bool := (firstMatch x m).isNone

/-- Hold a message at the pier's ingress; OVERFLOW_FULL is raised once to the receiving job (R320). -/
def holdMsg (s : State) (p : Nat) (m : Msg) : State :=
  let x := s.pier p
  let s := s.setPier p { x with held := x.held ++ [m], fullRaised := x.fullRaised || lacksEntries x m }
  if x.fullRaised || !lacksEntries x m then s
  else raiseNotice (s.countEvent p 9 1) m.vd (receivingJob s p m) p .overflowFull (BitVec.ofNat 64 (pierWord p)) 0

/-- The oldest message from a core to a core, unless an announcement to the pier goes before it (R15). -/
def nextMsg (s : State) (src dst : Nat) : Option Msg :=
  s.mesh.findSome? (fun i => match i with
    | .msg m => if m.src == src && m.dst == dst then some (some m) else none
    | .ann a => if a.src == src && a.pier == pierOfCore dst then some none else none) |>.join

/-- MESSAGE_ARRIVE: the oldest message from `src` to `dst` reaches the message unit (R318). -/
def execMessageArrive (src dst : Nat) (s : State) : Out :=
  match nextMsg s src dst with
  | none => .next s
  | some m =>
    if srcBlocked s src m.seq then .next s
    else
      let p := pierOfCore dst
      let s := { s with mesh := s.mesh.erase (.msg m) }
      eventDone (match placeMsg s p m with
        | some s => s
        | none => holdMsg s p m)

/-- A job that waits at the ingress for the park area, oldest first (R221). -/
def parkWaiter (x : Pier) : Option Job :=
  leastBy (fun j => j.prog) (x.jobs.filter (fun j => j.status == .parkedVersion && !j.sent && !j.released && j.msg.isSome))

/-- INGRESS_RELEASE: what is held at the ingress goes on as entries free (R221, R320). -/
def execIngressRelease (p : Nat) (s : State) : Out :=
  let x := s.pier p
  let go (m : Msg) (s : State) : State :=
    let x := s.pier p
    let held := x.held.erase m
    s.setPier p { x with held := held, fullRaised := x.fullRaised && held.any (lacksEntries x) }
  let matched (m : Msg) : Bool := match firstMatch x m with | some r => !sinkFull s p r.1 r.2 | none => false
  let fits : Bool := match parkWaiter x with
    | some j => (match j.msg with | some m => msgEntries m ≤ areaFree x | none => false)
    | none => false
  if s.quietPier p then .next s else
  match parkWaiter x with
  | some j =>
    if fits then (setJobOn s p { j with sent := true }).done
    else
      (match x.held.find? matched with
      | some m => (match placeMsg (go m s) p m with | some s => eventDone s | none => .next s)
      | none => .next s)
  | none =>
    match (match x.held.find? matched with | some m => some m | none => x.held.find? (lacksEntries x)) with
    | none => .next s
    | some m => (match placeMsg (go m s) p m with | some s => eventDone s | none => .next s)

/-- HANDLER_DISPATCH: the oldest active message at a core's ingress starts its handler (R321). One whose job has been cancelled while it
waited there is discarded as one that arrives afterwards is: R25 speaks of the latter only (DESIGN CHOICE, log 95). -/
def execHandlerDispatch (core : Nat) (s : State) : Out :=
  let k := s.core core
  match k.ingress with
  | [] => .next s
  | m :: ms =>
    let p := pierOfCore core
    let t := s.setCore core { k with ingress := ms }
    if s.quietPier p then .next s
    else if msgCancelled s m then eventDone (acceptMsg t p m)
    else
      match handlerOf s p m with
      | some pc => if handlerFree s core then eventDone (startHandler t p core m pc) else .next s
      | none => (match badEntry t p m with | some s => eventDone s | none => .next s)

/-- DELIVERY_PAGE_RESUME: a delivery that waits goes on (R430). -/
def execDeliveryPageResume (p i : Nat) (s : State) : Out :=
  let x := s.pier p
  match x.deliveries[i]? with
  | none => .next s
  | some (core, d) => if s.quietPier p then .next s else (deliver (s.setPier p { x with deliveries := x.deliveries.eraseIdx i }) p core d).done

/-! ### SEND, SENDC, POST (R326 to R328) -/

/-- A message of a job enters the mesh, whole (log 18), and the command leaves the head of its queue. -/
def inject (s : State) (p : Nat) (j : Job) (dst : Nat) (ws : List Nat) : State :=
  let m : Msg := ⟨j.core, dst, ws.map (BitVec.ofNat 32), some (p, j.id), j.who.vd, j.jobid, s.nextUid⟩
  let s := setJobOn (s.countEvent p 11 1) p { j with started := true, inq := false, sent := true, work := [] }
  { s with mesh := s.mesh ++ [.msg m], nextUid := s.nextUid + 1 }

/-- SEND at its start (R326). -/
def sendGo (s : State) (p : Nat) (j : Job) : State :=
  let a := j.a.toNat
  let b := j.b.toNat
  let n := bits b 43 32
  let h := b % 2 ^ 32
  match msgDest s j.who.vd b with
  | none => jobErrorFree s p j .illegal
  | some dst =>
    if hdrKind h > 1 || bits h 13 12 != 0 || (hdrKind h == 1 && (n > 15 || bits h 11 8 != 0)) then jobErrorFree s p j .illegal
    else if a % 4 != 0 then jobError s p j .address a
    else
      match (if n == 0 then Got.ok s [] else engReadAt s (jobAgent p j.id) j.who a (4 * n)) with
      | .fault s f => jobFault s p j f
      | .wait s => s
      | .ok s bs => inject s p j dst (h :: (List.range n).map (fun i => leAt bs (4 * i) 4))

/-- The tag of a SENDC in header word 0. -/
def tagged (b : Nat) (ws : List Nat) : List Nat :=
  match ws with
  | [] => []
  | w :: ws => setBits w 29 12 (hdrTag b * 4) :: ws

/-- The destination of a SENDC; reserved bits refuse it (R327). -/
def sendcDest (s : State) (j : Job) : Option Nat :=
  let b := j.b.toNat
  if bits b 43 30 != 0 || bits b 13 0 != 0 then none else msgDest s j.who.vd b

/-- SENDC of a message in memory. -/
def sendcMemGo (s : State) (p : Nat) (j : Job) : State :=
  let ag := jobAgent p j.id
  let a := j.a.toNat
  match sendcDest s j with
  | none => jobErrorFree s p j .illegal
  | some dst =>
    if a % 4 != 0 then jobError s p j .address a
    else
      match readHead s ag j.who a with
      | .fault s f => jobFault s p j f
      | .wait s => s
      | .ok s ws =>
        let w0 := ws.getD 0 0
        let w1 := ws.getD 1 0
        if !headOk w0 w1 (bits w1 31 16) then jobErrorFree s p j .illegal
        else
          match readSpans ag j.who 4096 (msgSpans w0) (a + 8) s [] with
          | .fault s f => jobFault s p j f
          | .wait s => s
          | .ok s none => jobErrorFree s p j .illegal
          | .ok s (some body) =>
            let all := w0 :: w1 :: body
            if all.length > 4096 then jobErrorFree s p j .illegal else inject s p j dst (tagged j.b.toNat all)

/-- SENDC of the oldest message of the code stream: it takes the words that are there, and sends when the ENC has ended the
message (R216). -/
def sendcGo (s : State) (p : Nat) (j : Job) : State :=
  match sendcDest s j with
  | none => jobErrorFree s p j .illegal
  | some dst =>
    let k := s.core j.core
    match k.stream with
    | [] => s
    | (id, ws, ended, err) :: rest =>
      let j := if ws.isEmpty then j else { j with started := true }
      let j := { j with work := j.work ++ ws.map BitVec.toNat }
      if !ended then
        if ws.isEmpty then s
        else streamRoom (setJobOn (s.setCore j.core { k with stream := (id, [], ended, err) :: rest }) p j) j.core
      else
        let s := s.setCore j.core { k with stream := rest }
        let s := if err && j.work.isEmpty then jobErrorFree s p j .illegal
          else if err then inject s.takeFree p { j with cause := .illegal, faddr := s.freeWord } dst (tagged j.b.toNat j.work)
          else inject s p j dst (tagged j.b.toNat j.work)
        streamRoom s j.core

/-- A receive descriptor (R317): the receive, or none when it is malformed (R328). -/
def recvOf (j : Job) (d : Bytes) : Option Recv :=
  let w := leAt d 8 8
  let buf := leAt d 0 8
  let sink := bit w 35
  let code := bit w 36
  if w / 2 ^ 49 != 0 || leAt d 24 8 != 0 || (sink && !code) || (!sink && buf % 16 != 0) then none
  else
    let x := bits w 25 18
    let src := if x < 200 then pierAt x (bits w 31 26) * 8 + bits w 34 32 else noCtx
    some { job := j.id, vd := j.who.vd, jobid := j.jobid, stk := j.who.stk, strict := j.who.strict, pure := j.who.pure
           launch := j.who.launch, level := j.who.level, descr := j.a.toNat, buffer := buf, tag := w % 65536
           anyTag := bit w 16, anySrc := bit w 17, srcCore := src, sink := sink, code := code, cap := bits w 48 37 + 1 }

/-- POST at its start: it matches the overflow queue, or enters the list (R318, R328). -/
def postGo (s : State) (p : Nat) (j : Job) : State :=
  let a := j.a.toNat
  if a % 16 != 0 then jobError s p j .address a
  else
    match engReadAt s (jobAgent p j.id) j.who a 32 with
    | .fault s f => jobFault s p j f
    | .wait s => s
    | .ok s d =>
      let x := s.pier p
      match recvOf j d with
      | none => jobErrorFree s p j .illegal
      | some r =>
        if (x.recvs.filter (fun y => y.1 == j.core)).length ≥ 32 then jobErrorFree s p j .illegal
        else
          let st : RecvState := ⟨j.id, j.unit, j.ctx, j.who.vd, j.core, none⟩
          let done (s : State) : State := endJob s p { j with started := true } .done
          match x.overflow.find? (fun y => y.1 == j.core && recvMatches r y.2.msg) with
          | some y =>
            if sinkFull s p j.core r then s
            else
            let s := s.setPier p { x with overflow := x.overflow.erase y, recvStates := x.recvStates ++ [st] }
            -- the overflow queue had accepted it
            let s := if r.sink then sinkJob s p r j.core { y.2.msg with words := y.2.msg.words.take 4092 } else s
            done (deliver s p j.core ⟨r, y.2.msg, keptWords y.2.msg, 0, false⟩)
          | none =>
            done (s.setPier p { x with recvs := x.recvs ++ [(j.core, r)], recvStates := x.recvStates ++ [st] })

/-- MESSAGE_COMMAND_START: the head of a core's message queue (R313). -/
def execMessageCommandStart (p core : Nat) (s : State) : Out :=
  if pierOfCore core != p then .next s
  else
    match headOf s p .message core with
    | (s, none) => eventDone s
    | (s, some j) =>
      if j.status != .running || agentBusy s (jobAgent p j.id) then eventDone s
      else
        eventDone (match j.cmd with
          | .send => sendGo s p j
          | .sendc => sendcGo s p j
          | .sendcM => sendcMemGo s p j
          | .post => postGo s p j
          | _ => s)

/-- What POST reads at issue: the descriptor, when it can be read; a fault is the job's (R328). -/
def postRead (s : State) (a _ : Word) : Got Bytes :=
  if a.toNat % 16 != 0 then .ok s []
  else
    match operand s a.toNat 32 with
    | .fault s _ => .ok s []
    | .wait s => .wait s
    | .ok s d => .ok s d

/-- POST at issue empties the granules of its status word and, without Sink, of its buffer up to its capacity, as far as these
bytes lie in the scratchpad window of their first one. -/
def postMark (s : State) (d : Bytes) (a _ : Word) : State :=
  let core := coreOfCtx s.cur
  let off (s : State) (a n : Nat) : State :=
    if inSpad core a 1 then setGranules s false (granuleKeys core (a / 16 * 16) (min n (98304 - (spadPlace core a).2))) else s
  if d.length != 32 then s
  else
    let s := off s (a.toNat + 16) 8
    if bit (leAt d 8 8) 35 then s else off s (leAt d 0 8) (4 * (bits (leAt d 8 8) 48 37 + 1))

def execSend (o : E3) (s : State) : Out := cmd3 s .message .send o false
def execSendc (o : EDB) (s : State) : Out :=
  issueCmd s .message .sendc o.d [waits o.b] false noMark (fun _ => 0) (fun x => x.getS o.b)
def execSendcM (o : E3) (s : State) : Out := cmd3 s .message .sendcM o false
def execPost (o : EDA) (s : State) : Out :=
  issueCmdPre s .message .post o.d [waits o.a] false postRead postMark (fun x => x.getS o.a) (fun _ => 0)

/-! ### RECV, RCANCEL, OVPOP (R329 to R331) -/

/-- A receive that what runs here posted on this pier. -/
def myRecv (s : State) (id : Nat) : Option RecvState :=
  let x := s.me
  (s.pier (pierOfCtx s.cur)).recvStates.find? (fun r => r.job == id
    && (if x.record == 0 then r.unit == 0 && r.ctx == s.cur else r.unit == x.record && r.vd == x.vd))

/-- Forget a receive. -/
def dropRecv (s : State) (p id : Nat) : State :=
  let x := s.pier p
  s.setPier p { x with recvStates := x.recvStates.filter (fun r => r.job != id) }

/-- RECV. A receive that it has completed is no longer outstanding, so that a second RECV of its id gives 0: R329 does not say
(DESIGN CHOICE, log 95). -/
def execRecv (o : EDA) (s : State) : Out :=
  conclude s (gateE s [waits o.a] [.s o.d] fun x =>
    impure s <|
    let id := (x.getS o.a).toNat % 65536
    let p := pierOfCtx s.cur
    match myRecv s id with
    | none => .ok (produceWord s o.d 0)
    | some r =>
      match r.status with
      | some w => .ok (produceWord (dropRecv s p id) o.d w)
      | none =>
        suspend s (fun s =>
          match myRecv s id with
          | some ⟨_, _, _, _, _, none⟩ => (s, stWaiting, waitJob 1 p id)
          | _ => (s, stReady, 0)))

/-- RCANCEL: one operation of the message unit. A fault of the status word's write is the instruction's. R330 states the word's Status:
the model sets Valid and the job id with it, and leaves source, kind and length zero (DESIGN CHOICE, log 95). -/
def execRcancel (o : EDA) (s : State) : Out :=
  conclude s (gateE s [waits o.a] [.s o.d] fun x =>
    let id := (x.getS o.a).toNat % 65536
    let p := pierOfCtx s.cur
    let y := s.pier p
    match myRecv s id, y.recvs.find? (fun r => r.2.job == id) with
    | some _, some (core, r) =>
      let w := 2 ^ 63 + JStat.discarded.code * 2 ^ 48 + id
      (match engWriteAt s (jobAgent p id) r.jobid (recvWho r core) (r.descr + 16) (leBytes 8 w) with
      | .fault s f => accessTrap s f
      | .wait s => .wait s
      | .ok s _ =>
        let y := s.pier p
        .ok (setD (dropRecv (s.setPier p { y with recvs := y.recvs.filter (fun q => q.2.job != id) }) p id) o.d 1))
    | _, _ => .ok (setD s o.d 0))

/-- OVPOP: the envelope and the words are plain stores of the context (R331). -/
def execOvpop (o : E3) (s : State) : Out :=
  conclude s (gateE s [waits o.a, waits o.b] [.s o.d] fun x =>
    let a := (x.getS o.a).toNat
    let core := coreOfCtx s.cur
    let p := pierOfCore core
    if a % 16 != 0 then accessTrap s (addressFault a)
    else
      match (s.pier p).overflow.find? (fun y => y.1 == core) with
      | none => .ok (setD s o.d 0)
      | some y =>
        let m := y.2.msg
        let n := keptWords m
        let w0 := statusWord m .done (n < m.words.length) 0
        if 16 + 4 * n > (x.getS o.b).toNat then .ok (setD s o.d (BitVec.ofNat 64 (w0 - 2 ^ 63)))
        else
          let bs := leBytes 8 w0 ++ leBytes 8 (y.2.cause.code + core % 8 * 2 ^ 16)
            ++ (m.words.take n).flatMap (fun w => leBytes 4 w.toNat)
          got (selfStore (drainCtx s s.cur) a bs) (fun s _ =>
            let z := s.pier p
            .ok (setD (s.setPier p { z with overflow := z.overflow.erase y }) o.d (BitVec.ofNat 64 w0))) s)

/-! ### Pier FIFOs (R322, R336) -/

def fifoAt (s : State) (p n : Nat) : List Word := kget [] (s.pier p).fifos n
def setFifo (s : State) (p n : Nat) (q : List Word) : State :=
  let x := s.pier p
  s.setPier p { x with fifos := if q.isEmpty then kdel n x.fifos else kput n q x.fifos }

/-- Does an operation of another context on a FIFO go before one of context `cur` (R322): a pop before a push, and the lowest
(core, context) among those of one kind? -/
def fifoBehind (s : State) (p n : Nat) (pop : Bool) : Bool :=
  let q := fifoAt s p n
  ((List.range 32).map (fun i => p * 32 + i)).any (fun c =>
    let x := s.ctx c
    c != s.cur && x.busy && x.stop.isNone && !x.pageWait && !(s.core (coreOfCtx c)).halted
      && ((x.fifoWait == some (n, true) && !q.isEmpty && (!pop || c < s.cur))
        || (x.fifoWait == some (n, false) && q.length < 64 && !pop && c < s.cur)))

/-- The executing context waits with an operation on a FIFO. -/
def fifoPark (s : State) (n : Nat) (pop : Bool) : State := s.setMe { s.me with fifoWait := some (n, pop) }

/-- It waits for the FIFO itself, which a handler may not (R22). -/
def fifoBlock (s : State) (n : Nat) (pop : Bool) : Verdict :=
  if s.me.role == .handler then trapFree s .handlerBlock else .wait (fifoPark s n pop)

/-- QPUSH: a release of PIER scope, which waits for the outcomes of earlier remote accesses (R364, R369). -/
def execQpush (o : EAB) (s : State) : Out :=
  conclude s (gateE s [waits o.a, waits o.b] [] fun x =>
    let a := (x.getS o.a).toNat
    let p := pierOfCtx s.cur
    let q := fifoAt s p a
    if a / 16 != 0 then trapFree s .illegal
    else impure s <| if q.length ≥ 64 then fifoBlock s a false
    else if fifoBehind s p a false then .wait (fifoPark s a false)
    else
      match releaseWait s s.cur with
      | (s, true) => .wait s
      | (s, false) => .ok (setFifo s p a (q ++ [x.getS o.b])))

def execQpop (o : EDA) (s : State) : Out :=
  conclude s (gateE s [waits o.a] [.s o.d] fun x =>
    let a := (x.getS o.a).toNat
    let p := pierOfCtx s.cur
    if a / 16 != 0 then trapFree s .illegal
    else
      impure s <| match fifoAt s p a with
      | [] => fifoBlock s a true
      | w :: q => if fifoBehind s p a true then .wait (fifoPark s a true) else .ok (setD (setFifo s p a q) o.d w))

/-! ### CRWAIT (R337) -/

/-- A completion ring descriptor: slot base and count (R323). A reserved word that is not zero makes it malformed, which neither R323 nor
R337 says (DESIGN CHOICE, log 95). -/
def ringDesc? (d : Bytes) : Option (Nat × Nat) :=
  let base := leAt d 0 8
  let n := leAt d 8 4
  if base % 32 == 0 && leAt d 12 4 == 0 && n != 0 && n ≤ 65536 && 2 ^ n.log2 == n then some (base, n) else none

/-- The acquire of CRWAIT for a record in a page of another module has FABRIC scope: the pier's CACHE lines go, before the record is
looked at again as after it is found (R247, R372). -/
def ringAcquire (s : State) (a : Nat) : State :=
  let w := meWho s
  match placeAll s w .read true (span a 8) with
  | .ok ps => if ps.any (fun q => q.loc.isThere) then dropLines s (deckOfPier (pierOfCore w.core)) (fun l => l.pier == pierOfCore w.core)
      else s
  | .error _ => s

def execCrwait (o : E3) (s : State) : Out :=
  conclude s (gateE s [waits o.a, waits o.b] [.s o.d] fun x =>
    let a := (x.getS o.a).toNat
    if a % 32 != 0 then accessTrap s (addressFault a)
    else
      got (operand s a 32) (fun s d =>
        match ringDesc? d with
        | none => trapFree s .illegal
        | some (base, n) =>
          let rec_ := (base + 32 * ((x.getS o.b).toNat % n)) % 2 ^ 64
          got (operand s rec_ 8) (fun s w =>
            let s := ringAcquire s rec_
            if bit (leNat w) 63 then .ok (setD s o.d (BitVec.ofNat 64 (leNat w)))
            else block (dropArrived s s.cur)) s) s)

end Sys2Proof.Machine
end

