-- ==== Sys2Proof/Machine/Launching.lean ====
section
/-!
DEFINITION. Launch queues and launches: the register block (R303, R304), admission (R305 to R309, R38, R261, R263, R283),
units of a launch (R310, R286), completion (R307, R311) and LAUNCH (R335).
-/
namespace Sys2Proof.Machine

/-! ### The register block (R303, R304) -/

/-- WIDX_WRITE: a write to the notify register from outside. -/
def execWidxWrite (q : Nat) (v : Word) (s : State) : Out := (writeWidx s q v.toNat).done

/-- QUEUE_REGISTER_WRITE: a write to any other word of the block is ignored (R303). -/
def execQueueRegisterWrite (_q _off : Nat) (_v : Word) (s : State) : Out := s.done

/-- QUEUE_ERROR_RESET: firmware clears Error and sets Enabled. -/
def execQueueErrorReset (n : Nat) (enabled : Bool) (s : State) : Out :=
  match s.queue? n with
  | none => .next s
  | some q => (s.setQueue n { q with error := false, enabled := enabled }).done

/-! ### Agents of the packet processors -/

/-- The agent number of a queue's packet, and of a launch: above those of jobs. -/
def queueAgent (q : Nat) : Nat := 2 ^ 40 + q
def launchAgent (l : Nat) : Nat := 2 ^ 41 + l

/-- The core whose TLBs a packet processor's translations use: the first of the virtual device's first pier. -/
def vdCore (s : State) (vd : Nat) : Nat :=
  match s.vdev? vd with
  | some v => v.piers.headD 0 * 8
  | none => 0

/-- A packet processor reads and writes as a unit of the job would, without the lease check (R308). -/
def procWho (s : State) (vd : Nat) : Who :=
  { vd := vd, level := 0, launch := 0, strict := false, pure := false, stk := 0, core := vdCore s vd }

/-! ### The fields of a packet (R305, R309) -/

def pkWord (p : Bytes) (n : Nat) : Nat := leAt p (8 * n) 8
def pkEntry (p : Bytes) : Nat := bits (pkWord p 0) 47 0
def pkAcq (p : Bytes) : Bool := bit (pkWord p 0) 48
def pkStrict (p : Bytes) : Bool := bit (pkWord p 0) 50
def pkPure (p : Bytes) : Bool := bit (pkWord p 0) 51
def pkCores (p : Bytes) : Bool := bit (pkWord p 0) 52
def pkUnits (p : Bytes) : Nat := bits (pkWord p 1) 31 0
def pkLeases (p : Bytes) : Nat := bits (pkWord p 1) 36 32
def pkA (p : Bytes) : Nat := bits (pkWord p 1) 43 40
def pkQ (p : Bytes) : Nat := bits (pkWord p 1) 46 44
def pkList (p : Bytes) : Nat := pkWord p 3
def pkRecord (p : Bytes) : Nat := pkWord p 5
def pkSignal (p : Bytes) : Nat := bits (pkWord p 6) 31 0
def pkDepends (p : Bytes) : List Nat := [bits (pkWord p 4) 31 0, bits (pkWord p 4) 63 32]

/-- The first row of R309. -/
def packetBad (p : Bytes) : Bool :=
  pkWord p 0 / 2 ^ 53 != 0 || pkWord p 1 / 2 ^ 47 != 0 || bits (pkWord p 1) 39 37 != 0 || bits (pkWord p 7) 31 21 != 0
    || pkUnits p == 0 || bits (pkWord p 7) 7 0 > 199 || bits (pkWord p 7) 20 19 > 1 || pkLeases p > 16
    || (pkPure p && (!pkStrict p || pkCores p || pkLeases p != 0))
    || (!pkPure p && (pkA p != 0 || pkQ p != 0))
    || (pkLeases p == 0 && !pkPure p && pkList p != 0)
    || pkEntry p % 4 != 0 || pkRecord p % 32 != 0 || (pkPure p && pkList p % 8 != 0) || (pkLeases p != 0 && pkList p % 16 != 0)

/-- A counter that a packet names: 0, or one of the job (R309). -/
def namesOwn (s : State) (job id : Nat) : Bool := id == 0 || (ownCounter s job id).isSome

/-! ### The end of a packet or launch (R307, R311) -/

/-- A completion record. -/
def completionRecord (status : Nat) (cause : Cause) (id retired seq : Nat) : Bytes :=
  leBytes 8 (2 ^ 63 + status * 2 ^ 48 + cause.code * 2 ^ 16) ++ leBytes 8 id ++ leBytes 8 retired ++ leBytes 8 seq

/-- Does a host own the page of this address (R254)? -/
def hostOwned (s : State) (vd va : Nat) : Bool :=
  match leafAt s vd va with | some (_, x, _) => bit x 11 | none => false

/-- Write a completion record; none where it is misaligned or its store faults (R309). `false`: it is still to be written, since a
tracking entry at a peer is on its way (R255), or since a host owns its page and is asked to give it back (R401). -/
def writeCompletion (s : State) (agent vd job a : Nat) (bs : Bytes) : State × Bool :=
  if a == 0 || a % 32 != 0 then (s, true)
  else
    match engWriteAt s agent job (procWho s vd) a bs with
    | .ok s _ => (s, true)
    | .wait s => (s, false)
    | .fault s f => if f.cause == .page && hostOwned s vd f.faddr then (askReclaim s vd f.faddr, false) else (s, true)

/-- A job with no launch left is complete: every counter of it is freed, that of its level with them (R24, R340, R346). -/
def jobSettle (s : State) (job : Nat) : State :=
  let busy : Bool := s.queues.any (fun q => q.2.jobid == job && (q.2.pkt.isSome || q.2.ridx < q.2.widx))
    || s.launches.any (fun l => l.2.jobid == job && l.2.phase != .ended)
  if busy then s
  else { s with counters := s.counters.filter (fun c => c.2.owner != job) }

/-- The counter of a job's level, which a packet of a job that had completed allocates again (log 92). -/
def jobLevel (s : State) (job : Nat) : State :=
  if (kget? s.counters job).isSome then s else setCounter s job ⟨job, 0, 0, .level, false, 0, [], false⟩

/-- Signal, the job's counter, and the queue's list of launches without a record. -/
def endLaunchOf (s : State) (qn job seq signal : Nat) : State :=
  let s := if signal != 0 && (ownCounter s job signal).isSome then addCounter s signal (-1) else s
  let s := match s.queue? qn with
    | some q => s.setQueue qn { q with pending := q.pending.filter (fun n => n != seq) }
    | none => s
  addCounter s job (-1)

/-- The packet in a processor's hands ends with its record: it is written, and once it is performed the packet is over. -/
def finishPacket (s : State) (qn : Nat) : State :=
  match s.queue? qn with
  | none => s
  | some q =>
    match q.pkt with
    | none => s
    | some (seq, p) =>
      let ag := queueAgent qn
      let w := if q.info.written then (s, true)
        else writeCompletion s ag q.vd q.jobid (pkRecord p) (completionRecord q.info.status q.info.cause 0 0 seq)
      let q := { q with info := { q.info with written := w.2 } }
      if !w.2 || agentBusy w.1 ag then w.1.setQueue qn { q with wait := .record }
      else
        let s := dropArrived (w.1.setQueue qn { q with pkt := none, wait := .check }) ag
        jobSettle (endLaunchOf s qn q.jobid seq (pkSignal p)) q.jobid

/-- A packet ends without a launch: REJECTED, or CANCELLED before step 8. -/
def endPacket (s : State) (qn status : Nat) (cause : Cause) : State :=
  match s.queue? qn with
  | none => s
  | some q =>
    let s := s.setQueue qn { q with info := { q.info with granted := false, status := status, cause := cause, written := false } }
    let s : State :=
      if q.info.granted then retryFrames (q.info.ranges.foldl (fun s r => unpinRange s q.vd r) s) q.jobid else s
    finishPacket s qn

/-! ### Admission (R308) -/

/-- Is the packet dropped by a cancellation? Its record has cause CANCELLED whatever cancelled the job (R308). -/
def packetDropped (s : State) (q : Queue) (seq : Nat) (p : Bytes) : Bool :=
  match s.job? q.jobid with
  | none => true
  | some j => j.cancelled || q.drops.any (fun d => seq < d.2 && (packetCounters p).contains d.1)

/-- What a read of the packet's lists comes to: bytes, a wait, or a rejection. `final`: the pager cannot resolve a PAGE. -/
inductive ListRead where
  | ok (s : State) (bs : Bytes)
  | wait (s : State)
  | bad (c : Cause)

def listRead (s : State) (qn : Nat) (q : Queue) (final : Bool) (a n : Nat) : ListRead :=
  match engReadAt s (queueAgent qn) (procWho s q.vd) (a % 2 ^ 64) n with
  | .ok s bs => .ok s bs
  | .wait s => .wait s
  | .fault s f => if f.cause == .page && !final then .wait (askReclaim s q.vd f.faddr) else .bad f.cause

/-- Step 8: the launch with its counter. -/
def admitLaunch (s : State) (qn : Nat) (q : Queue) (seq : Nat) (p : Bytes) (id : Nat) (gens : List Nat) : State :=
  let i := q.info
  let tenant := jobTenant s q.jobid
  let l : Launch :=
    { vd := q.vd, jobid := q.jobid, queue := qn, seq := seq, deck := q.deck
      phase := if pkCores p then .coresWait else .generating, pkt := p, units := pkUnits p, next := 0
      spawnNext := pkUnits p, unplaced := [], live := [], leases := (List.range i.ranges.length).map (fun n => n + 1) |>.zip i.ranges
      retired := 0, status := 0, cause := .none, args := i.args, results := i.results, argAddrs := i.argAddrs
      resAddrs := i.resAddrs, codeHash := i.hash
      msgM := if pkPure p then messageM i.hash tenant i.args i.results (pkUnits p) gens else []
      argGens := gens, reuseCopy := none, skip := [] }
  let s := setCounter s id ⟨q.jobid, 0, 0, .level, false, pkUnits p, [], false⟩
  let s := (s.setLaunch id l).setQueue qn { q with pkt := none, wait := .check, info := { i with granted := false } }
  let s := dropArrived { s with jobs := kdel id s.jobs } (queueAgent qn)
  let s : State := i.ranges.foldl (fun s r => pinRange s q.vd r) s
  if !pkCores p then s
  else
    match s.vdev? q.vd with
    | none => s
    | some v =>
      if v.reserving.isSome then s.setVdev q.vd { v with coresQ := v.coresQ ++ [id] }
      else coresGather (s.setVdev q.vd { v with reserving := some id }) q.vd

/-- A free number, and for a pure launch the generations of its argument tiles, each read at its home (R284). -/
def admitNumber (s : State) (qn : Nat) (q : Queue) (seq : Nat) (p : Bytes) (final : Bool) : State :=
  let wait (s : State) : State := s.setQueue qn { q with wait := .number }
  match freeCounterId s q.deck with
  | none => wait s
  | some id =>
    match (if pkPure p then allGens s (queueAgent qn) q.vd (vdCore s q.vd) q.info.args else .ok s []) with
    | .ok s gens => admitLaunch s qn q seq p id gens
    | .wait s => wait s
    | .fault s f => if f.cause == .page && !final then wait (askReclaim s q.vd f.faddr) else endPacket s qn 3 f.cause

/-- Step 7: the ranges are resident and pinned, or the packet waits for the pager's notice. -/
def admitRanges (s : State) (qn : Nat) (q : Queue) (seq : Nat) (p : Bytes) (final : Bool) : State :=
  if q.info.ranges.isEmpty || q.info.granted then admitNumber s qn q seq p final else s.setQueue qn { q with wait := .leases }

/-- A record's extent in whole pages. -/
def recordRange (r : Bytes) (write : Bool) : LeaseRange :=
  let lo := lBase r / 65536
  ⟨lo * 65536, ceilDiv (lBase r + lExtent r) 65536 - lo, write⟩

/-- Records at addresses, read one by one. -/
def readRecords (qn : Nat) (q : Queue) (final : Bool) : List Nat → State → List Bytes → Except ListRead (State × List Bytes)
  | [], s, out => .ok (s, out)
  | a :: as, s, out =>
    match listRead s qn q final a 64 with
    | .ok s b => readRecords qn q final as s (out ++ [b])
    | r => .error r

/-- R283 for the records of a pure launch. -/
def pureOk (args results : List Bytes) : Bool :=
  let tiles (rs : List Bytes) : Nat := (rs.map lTiles).foldl (fun a b => a + b) 0
  (args ++ results).all (fun r => recordOk r && lShadow r != 0) && tiles args ≤ 1024 && tiles results ≤ 1024

/-- Step 6: the pure list, the records and the code hash (R283, R306). -/
def admitPure (s : State) (qn : Nat) (q : Queue) (seq : Nat) (p : Bytes) (final : Bool) : State :=
  if !pkPure p then admitRanges s qn q seq p final
  else if pkA p > 8 || pkQ p == 0 || pkQ p > 4 then endPacket s qn 3 .purity
  else
    let n := pkA p + pkQ p
    let later (r : ListRead) : State := match r with
      | .wait s => s.setQueue qn { q with wait := .pure }
      | .bad c => endPacket s qn 3 c
      | .ok s _ => s
    match listRead s qn q final (pkList p) (0x28 + 8 * n) with
    | .ok s ls =>
      let addrs := (List.range n).map (fun i => leAt ls (0x28 + 8 * i) 8)
      let len := leAt ls 0x20 8
      let hash := ls.take 32
      (match readRecords qn q final addrs s [] with
      | .error r => later r
      | .ok (s, rs) =>
        let args := rs.take (pkA p)
        let results := rs.drop (pkA p)
        if addrs.any (fun a => a % 64 != 0) || !pureOk args results || len % 4 != 0 || len < 4 || len > 2 ^ 20 then
          endPacket s qn 3 .purity
        else
          let ranges := args.map (fun r => recordRange r false) ++ results.map (fun r => recordRange r true)
          let q := { q with info := { q.info with ranges := ranges, args := args, results := results
                                                  argAddrs := addrs.take (pkA p), resAddrs := addrs.drop (pkA p)
                                                  hash := hash } }
          let go (s : State) : State :=
            if canFit s q.jobid ranges then admitRanges (s.setQueue qn q) qn q seq p final else endPacket s qn 3 .frameExhausted
          let d := s.deck q.deck
          if d.triples.contains (pkEntry p, len, hash) then go s
          else
            match listRead s qn q final (pkEntry p) len with
            | .ok s code =>
              if sha256of512 code != hash then endPacket s qn 3 .purity
              else
                let d := s.deck q.deck
                go (s.setDeck q.deck { d with triples := capPush 16 d.triples (pkEntry p, len, hash) })
            | r => later r)
    | r => later r

/-- Step 5 (R38). -/
def admitCores (s : State) (qn : Nat) (q : Queue) (seq : Nat) (p : Bytes) (final : Bool) : State :=
  if pkCores p && pkUnits p > (unitCtxs s q.vd).length then endPacket s qn 3 .illegal else admitPure s qn q seq p final

/-- Step 4: both dependences are zero. -/
def admitDepend (s : State) (qn : Nat) (q : Queue) (seq : Nat) (p : Bytes) (final : Bool) : State :=
  let zero (id : Nat) : Bool := match kget? s.counters id with | some k => id == 0 || k.value == 0 | none => true
  if (pkDepends p).all zero then admitCores s qn q seq p final else s.setQueue qn { q with wait := .depend }

/-- Step 3: every earlier launch of the queue has its record. -/
def admitAcq (s : State) (qn : Nat) (q : Queue) (seq : Nat) (p : Bytes) (final : Bool) : State :=
  if pkAcq p && q.pending.any (fun n => n < seq) then s.setQueue qn { q with wait := .acq }
  else admitDepend s qn q seq p final

/-- Step 2 (R309), with the lease list. -/
def admitCheck (s : State) (qn : Nat) (q : Queue) (seq : Nat) (p : Bytes) (final : Bool) : State :=
  if packetBad p || !(pkSignal p :: pkDepends p).all (namesOwn s q.jobid)
      || (pkCores p && pkUnits p > (unitCtxs s q.vd).length) then endPacket s qn 3 .illegal
  else if pkLeases p == 0 then admitAcq s qn q seq p final
  else
    match listRead s qn q final (pkList p) (16 * pkLeases p) with
    | .wait s => s.setQueue qn { q with wait := .check }
    | .bad c => endPacket s qn 3 c
    | .ok s ls =>
      let rs := (List.range (pkLeases p)).map (fun i => rangeOf (leAt ls (16 * i) 8) (leAt ls (16 * i + 8) 8))
      if rs.any (fun r => match r with | some r => !rangeInside r | none => true) then endPacket s qn 3 .illegal
      else
        let ranges := rs.filterMap id
        if !canFit s q.jobid ranges then endPacket s qn 3 .frameExhausted
        else
          let q := { q with info := { q.info with ranges := ranges } }
          admitAcq (s.setQueue qn q) qn q seq p final

/-- The packet goes on from the step it waits in. -/
def admitRun (s : State) (qn : Nat) (final : Bool) : State :=
  match s.queue? qn with
  | none => s
  | some q =>
    match q.pkt with
    | none => s
    | some (seq, p) =>
      if q.wait == .record then finishPacket s qn
      else
        if packetDropped s q seq p then endPacket s qn 2 .cancelled
        else
          match q.wait with
          | .check => admitCheck s qn q seq p final
          | .acq => admitAcq s qn q seq p final
          | .depend => admitDepend s qn q seq p final
          | .pure => admitPure s qn q seq p final
          | .leases => admitRanges s qn q seq p final
          | _ => admitNumber s qn q seq p final

def noInfo : PktInfo := ⟨[], [], [], [], [], [], false, 0, .none, true⟩

/-- PACKET_ADMIT: the packet at RIDX is taken, or the packet that waits goes on as far as it can. -/
def execPacketAdmit (qn : Nat) (s : State) : Out :=
  match s.queue? qn with
  | none => .next s
  | some q =>
    if s.quiet q.vd then .next s
    else if q.pkt.isSome then (admitRun s qn false).done
    else if !q.enabled || q.error || q.ridx ≥ q.widx then .next s
    else
      let q := { q with pkt := some (q.ridx, ringPacket s q q.ridx), ridx := q.ridx + 1, wait := .check, info := noInfo
                        pending := q.pending ++ [q.ridx], drops := q.drops.filter (fun d => q.ridx < d.2) }
      (admitRun (addCounter (jobLevel (s.setQueue qn q) q.jobid) q.jobid 1) qn false).done

/-- Are the ranges of a packet resident, and do they fit beside what is pinned? -/
def rangesReady (s : State) (q : Queue) : Bool := fitsNow s q.jobid q.info.ranges && q.info.ranges.all (resident s q.vd)

/-- ADMISSION_NOTICE: the pager has stored what it did for the waiting packet, or cannot resolve its PAGE; or a counter slice
has news (R308). -/
def execAdmissionNotice (qn : Nat) (ans : PagerAns) (s : State) : Out :=
  match s.queue? qn with
  | none => .next s
  | some q =>
    if q.pkt.isNone || s.quiet q.vd then .next s
    else
      match ans with
      | .resolved ws =>
        let s := pagerMaps s q.vd (some q.jobid) ws
        if q.wait == .leases && rangesReady s q then
          let s : State := q.info.ranges.foldl (fun s r => pinRange s q.vd r) s
          (admitRun (s.setQueue qn { q with info := { q.info with granted := true } }) qn false).done
        else (admitRun s qn false).done
      | .frameWait => (admitRun s qn false).done
      | _ => (admitRun s qn true).done

/-! ### Units of a launch (R310, R286) -/

/-- The pier of a deck that is nearest a point (R29). -/
def deckPier (d x y : Nat) : Nat :=
  let x0 := d % 8 * 25
  let y0 := d / 8 * 32
  pierAt (min (max x x0) (x0 + 24)) (min (max y y0) (y0 + 31))

/-- A generated record enters the placement network. -/
def launchWalk (s : State) (l r : Nat) : State :=
  match s.launch? l with
  | none => s
  | some x =>
    let h := recWord s x.vd r 3
    enterWalk (s.setLaunch l { x with unplaced := x.unplaced ++ [r] }) x.vd r (deckPier x.deck (bits h 7 0) (bits h 13 8))

/-- A unit that a reuse hit retires: one down on its launch's counter (R286, R307). -/
def reuseRetire (s : State) (l : Nat) : State :=
  match s.launch? l with
  | none => s
  | some x => addCounter (s.setLaunch l { x with retired := x.retired + 1 }) l (-1)

/-- UNIT_GENERATE: the next unit of a launch. -/
def execUnitGenerate (l : Nat) (s : State) : Out :=
  match s.launch? l with
  | none => .next s
  | some x =>
    let i := ((List.range (x.skip.length + 1)).map (fun k => x.next + k)).find? (fun i => !x.skip.contains i)
    match i with
    | none => .next s
    | some i =>
      if x.phase != .generating || s.quiet x.vd || x.unplaced.length ≥ 256 || x.reuseCopy.isSome then .next s
      else if i ≥ x.units then (s.setLaunch l { x with phase := .running, next := x.units }).done
      else
        let place (s : State) : Out :=
          match generate s l i with
          | none => .next s
          | some (r, s) => (launchWalk s l r).done
        if !pkPure x.pkt then place s
        else
          match reuseCheck s (launchAgent l) (vdCore s x.vd) x (jobTenant s x.jobid) i with
          | .wait s => s.done
          | .place s => place s
          | .retire s => (reuseRetire (s.setLaunch l { x with next := i + 1 }) l).done
          | .copy s vd stored gens =>
            match generate s l i with
            | none => .next s
            | some (r, s) =>
              (match s.launch? l with
              | some y => s.setLaunch l { y with reuseCopy := some ⟨r, vd, stored, gens, 0⟩ }
              | none => s).done

/-- REUSE_COPY_DONE: the copy of a hit goes on. When it is over and the stored generations still agree, the unit is retired;
when they differ or a fault stopped it, the unit is placed (R286). -/
def execReuseCopyDone (l : Nat) (s : State) : Out :=
  match s.launch? l with
  | none => .next s
  | some x =>
    match x.reuseCopy with
    | none => .next s
    | some k =>
      let r := k.record
      let ag := launchAgent l
      let atEnd (s : State) : State := dropArrived (match s.launch? l with
        | some y => s.setLaunch l { y with reuseCopy := none }
        | none => s) ag
      if s.quiet x.vd then .next s
      else if !x.live.contains r then (atEnd s).done
      else
        let h := recWord s x.vd r 3
        let p := pierAt (bits h 7 0) (bits h 13 8)
        let run := reuseCopyOut s ag l x k.vd p k.done (reuseSectors (k.stored.zip x.results))
        let stay (s : State) : Out :=
          (match s.launch? l with
          | some y => s.setLaunch l { y with reuseCopy := some { k with done := run.done } }
          | none => s).done
        if run.fault.isSome then (launchWalk (atEnd run.s) l r).done
        else if run.atEnd || agentBusy run.s ag then stay run.s
        else
          match allGens run.s ag k.vd (p * 8) k.stored with
          | .wait s => stay s
          | .fault s _ => (launchWalk (atEnd run.s) l r).done
          | .ok s gens =>
            if gens != k.gens then (launchWalk (atEnd s) l r).done
            else
              let s := atEnd s
              let s := match s.launch? l with
                | some y => s.setLaunch l { y with retired := y.retired + 1 }
                | none => s
              (retireUnit (setRecState s x.vd r stDone) x.vd l r).done

/-! ### Completion (R307, R311) -/

/-- The launch is over: Signal and the job's counter fall, its own counter is free. -/
def endLaunch (s : State) (l : Nat) (x : Launch) : State :=
  let s := s.setLaunch l { x with phase := .ended, leases := [] }
  jobSettle (dropCounter (endLaunchOf s x.queue x.jobid x.seq (pkSignal x.pkt)) l) x.jobid

/-- The record of a launch is written, and once it is performed the launch is over. -/
def recordLaunch (s : State) (l : Nat) (x : Launch) : State :=
  let y := { x with phase := .recording }
  let w := writeCompletion (s.setLaunch l y) (launchAgent l) x.vd x.jobid (pkRecord x.pkt)
    (completionRecord (if x.status == 2 then 2 else 1) x.cause l x.retired x.seq)
  if !w.2 then w.1.setLaunch l { x with phase := .ending }
  else if agentBusy w.1 (launchAgent l) then w.1
  else endLaunch w.1 l y

/-- LAUNCH_COMPLETE: the counter of a launch is zero. Its leases end, its record is written, and once that is performed the
launch is over. -/
def execLaunchComplete (l : Nat) (s : State) : Out :=
  match s.launch? l with
  | none => .next s
  | some x =>
    match x.phase with
    | .ended => .next s
    | .ending => if s.quiet x.vd then .next s else (recordLaunch s l x).done
    | .recording => if agentBusy s (launchAgent l) || s.quiet x.vd then .next s else (endLaunch s l x).done
    | _ =>
      match kget? s.counters l with
      | none => .next s
      | some k =>
        if k.value != 0 || s.quiet x.vd then .next s
        else
          let y := { x with phase := .recording, leases := [] }
          let s := s.setLaunch l y
          let asked := s.leaseReqs.filter (fun r => r.launch == l)
          let s : State := { s with leaseReqs := s.leaseReqs.filter (fun r => r.launch != l) }
          let gone := x.leases.map Prod.snd ++ asked.map (fun r => r.range)
          let s := if gone.isEmpty then s else retryFrames (gone.foldl (fun s r => unpinRange s x.vd r) s) x.jobid
          (recordLaunch s l y).done

/-! ### LAUNCH (R335) -/

/-- LAUNCH: the packet is read as loads; the slot and WIDX are written at the queue's home in one operation, which is one write to
the slot's tile (R159). -/
def execLaunch (o : E3) (s : State) : Out :=
  conclude s (gateE s [waits o.a, waits o.b] [.s o.d] fun x =>
    let a := (x.getS o.a).toNat
    let b := (x.getS o.b).toNat
    match (if b < 4096 then s.queue? b else none) with
    | none => trapFree s .illegal
    | some q =>
      if q.vd != x.vd then trapFree s .illegal
      else
        impure s <| if a % 64 != 0 then accessTrap s (addressFault a)
        else
          got (operand s a 64) (fun s p =>
            let r := releaseWait s s.cur
            if r.2 then .wait r.1
            else
              match r.1.queue? b with
              | none => .wait r.1
              | some q =>
                if q.widx - q.ridx < 2 ^ q.logSize then
                  got (engWriteAt r.1 s.cur x.jobid.toNat (sysWho q.vd (coreOfCtx s.cur)) (q.ring + 64 * (q.widx % 2 ^ q.logSize)) p)
                    (fun s _ => .ok (setD (writeWidx s b (q.widx + 1)) o.d (BitVec.ofNat 64 q.widx))) r.1
                else .ok (setD r.1 o.d (BitVec.allOnes 64))) s)

end Sys2Proof.Machine
end

