-- ==== Sys2Proof/Machine/Translate.lean ====
section
/-!
DEFINITION. Shoot-downs and TLBINV (R258, R259, R266), LEASE and UNLEASE (R267, R268), PGADV and what the pager does with it
(R269), PGQRY (R270), migration (R248, R249) and read-duplicate collapse (R251 to R253).
-/
namespace Sys2Proof.Machine

/-! ### Shoot-downs (R259) -/

/-- Do bytes [a, a + n) and a range of pages meet; no range is every address. -/
def rangeHits (r : Option (Nat × Nat)) (a n : Nat) : Bool :=
  match r with
  | none => true
  | some (base, pages) => a < base + pages * 65536 && base < a + n

/-- The addresses below a walk-cache entry: base and size. -/
def walkSpan (w : WalkEntry) : Nat × Nat :=
  match w.lvl with
  | 1 => (w.pre * 2 ^ 39, 2 ^ 39) | 2 => (w.pre * 2 ^ 30, 2 ^ 30) | _ => (w.pre * 2 ^ 21, 2 ^ 21)

/-- Step 1 on a pier: the matching entries of its TLB, its cores' micro-TLBs and its deck's walk cache go. -/
def shootInvalidate (s : State) (p vd : Nat) (r : Option (Nat × Nat)) : State :=
  let keep (e : TlbEntry) : Bool := !rangeHits r e.base e.size
  let x := s.pier p
  let s := s.setPier p { x with tlb := x.tlb.filter keep }
  let s : State := (List.range 8).foldl (fun s k =>
    let y := s.core (p * 8 + k)
    s.setCore (p * 8 + k) { y with utlb := y.utlb.filter keep }) s
  let d := deckOfPier p
  let z := s.deck d
  s.setDeck d { z with walks := z.walks.filter (fun w => !(w.root == rootOf s vd && rangeHits r (walkSpan w).1 (walkSpan w).2)) }

/-- Step 2 on a pier: what its cores have translated is performed. -/
def shootComplete (s : State) (p : Nat) : State :=
  (List.range 8).foldl (fun s k => drainN (p * 8 + k) (s.core (p * 8 + k)).sb.length s) s

/-- A translated request of a pier to another module that no port has accepted yet (R356, R384): step 2 waits for it. -/
def keptBack (s : State) (p : Nat) : Bool := s.remote.any (fun r => r.attempts == 0 && r.who.agent.any (agentAt p))

/-- May firmware shoot down as part of an action: every pier of the virtual device completes step 2 at once? -/
def mayShoot (s : State) (vd : Nat) : Bool :=
  match s.vdev? vd with
  | none => true
  | some v => v.piers.all (fun p => !keptBack (shootComplete s p) p)

/-- SHOOTDOWN_PIER: a targeted pier invalidates. -/
def execShootdownPier (i p : Nat) (s : State) : Out :=
  match s.shoots[i]? with
  | none => .next s
  | some h =>
    if !h.todo.contains p then .next s
    else
      let h2 := { h with todo := h.todo.filter (fun q => q != p), acks := h.acks ++ [p] }
      (shootInvalidate { s with shoots := s.shoots.set i h2 } p h.vd h.range).done

/-- SHOOTDOWN_ACK: the pier's translated accesses are over and it acknowledges; the last one ends the shoot-down. A request that no
port has accepted keeps it from that. -/
def execShootdownAck (i p : Nat) (s : State) : Out :=
  match s.shoots[i]? with
  | none => .next s
  | some h =>
    if !h.acks.contains p then .next s
    else
      let h2 := { h with acks := h.acks.filter (fun q => q != p) }
      let s := shootComplete s p
      if keptBack s p then s.done
      else
      let s := { s with shoots := if h2.todo.isEmpty && h2.acks.isEmpty then s.shoots.eraseIdx i else s.shoots.set i h2 }
      ((List.range 32).foldl (fun s c => advanceStop s (p * 32 + c)) s).done

/-- A whole shoot-down of device scope that firmware makes as part of one of its actions. -/
def shootNow (s : State) (vd base pages : Nat) : State :=
  match s.vdev? vd with
  | none => s
  | some v => v.piers.foldl (fun s p => shootComplete (shootInvalidate s p vd (some (base, pages))) p) s

/-! ### TLBINV (R266) -/

/-- The piers that a TLBINV reaches. -/
def tlbPiers (s : State) (scope : TlbScope) (vd : Nat) : List Nat :=
  let me := pierOfCtx s.cur
  match s.vdev? vd with
  | none => []
  | some v => v.piers.filter (fun p => match scope with
      | .pier => p == me | .deck => deckOfPier p == deckOfPier me | .device => true)

/-- TLBINV of a range, or of every entry. -/
def tlbinvForm (s : State) (o : ETlb) (all : Bool) : Out :=
  conclude s (gateE s [waits o.a, waits o.b] [] fun x =>
    let a := (x.getS o.a).toNat
    let b := (x.getS o.b).toNat
    if bits b 47 32 != 0 || (!all && (a % 65536 != 0 || b % 2 ^ 32 == 0)) then trapFree s .illegal
    else
      atLevel s 3 <|
      if x.asked then (if s.shoots.any (fun h => h.ctx == some s.cur) then .wait s else .ok s)
      else
        let r := releaseWait s s.cur
        if r.2 then .wait r.1
        else
          let ps := tlbPiers s o.scope (b / 2 ^ 48)
          if ps.isEmpty then .ok r.1
          else
            let h : Shoot := ⟨some s.cur, b / 2 ^ 48, if all then none else some (a, b % 2 ^ 32), ps, []⟩
            .wait ({ r.1 with shoots := r.1.shoots ++ [h] }.setMe { r.1.me with asked := true }))

def execTlbinv (o : ETlb) (s : State) : Out := tlbinvForm s o false
def execTlbinvAll (o : ETlb) (s : State) : Out := tlbinvForm s o true

/-! ### LEASE, UNLEASE (R267, R268) -/

/-- The launch that LEASE and UNLEASE act on: that of the unit, or of the unit that the entry was delivered for. -/
def leaseLaunch (s : State) : Option (Nat × Launch) :=
  let id := s.me.launchid.toNat
  match s.me.role with
  | .unit => (s.launch? id).map (fun l => (id, l))
  | .entry .unit => (s.launch? id).map (fun l => (id, l))
  | _ => none

/-- LEASE: the context waits for the pager's request of its record, launch and range. -/
def execLease (o : E3) (s : State) : Out :=
  conclude s (gateE s [waits o.a, waits o.b] [.s o.d] fun x =>
    match rangeOf (x.getS o.a).toNat (x.getS o.b).toNat with
    | none => trapFree s .illegal
    | some r =>
      let inside (v : Verdict) : Verdict := if rangeInside r then v else accessTrap s (addressFault r.base)
      if x.role == .handler then inside (trapFree s .handlerBlock)
      else
        match leaseLaunch s with
        | none => trapFree s .illegal
        | some (id, l) =>
          inside <| if pkPure l.pkt then trapFree s .purity
          else
            match rangeNumber l with
            | none => .ok (setD s o.d 0)
            | some n =>
              if !canFit s l.jobid (l.leases.map Prod.snd ++ [r]) then .ok (setD s o.d 0)
              else
                match s.leaseReqs.find? (fun q => q.record == x.record && q.launch == id && q.range == r) with
                | none => .wait { s with leaseReqs := s.leaseReqs ++ [⟨x.record, id, r, false⟩] }
                | some q =>
                  if !q.ready then .wait s
                  else
                    let s := { s with leaseReqs := s.leaseReqs.erase q }
                    .ok (setD (s.setLaunch id { l with leases := kput n r l.leases }) o.d (BitVec.ofNat 64 n)))

/-- LEASE_RANGE_RESIDENT: the pager has stored what makes the i-th requested range resident, and pins it. -/
def execLeaseRangeResident (i : Nat) (stores : List (Nat × Word)) (s : State) : Out :=
  match s.leaseReqs[i]? with
  | none => .next s
  | some q =>
    match s.launch? q.launch with
    | none => .next s
    | some l =>
      let s := pagerMaps s l.vd (some l.jobid) stores
      if q.ready || !resident s l.vd q.range || !canFit s l.jobid (q.range :: jobRanges s l.jobid) then s.done
      else { pinRange s l.vd q.range with leaseReqs := s.leaseReqs.set i { q with ready := true } }.done

/-- UNLEASE: a range ends, as a release of DEVICE scope. -/
def execUnlease (o : EA) (s : State) : Out :=
  conclude s (gateE s [waits o.a] [] fun x =>
    let n := (x.getS o.a).toNat
    if n == 0 || n > 16 then trapFree s .illegal
    else if x.role == .handler then trapFree s .handlerBlock
    else
      match leaseLaunch s with
      | none => trapFree s .illegal
      | some (id, l) =>
        if pkPure l.pkt then trapFree s .purity
        else
          let r := releaseWait s s.cur
          if r.2 then .wait r.1
          else
            match kget? l.leases n with
            | none => .ok r.1
            | some g => .ok (retryFrames (unpinRange (r.1.setLaunch id { l with leases := kdel n l.leases }) l.vd g) l.jobid))

/-! ### PGADV (R269) -/

/-- Reserved bits of the argument by kind. -/
def adviceArgBad (kind arg : Nat) : Bool :=
  match kind with
  | 0 => arg / 32 != 0
  | 1 => arg / 4096 != 0
  | 2 => arg / 4096 != 0
  | 4 => arg / 4 != 0
  | 5 => arg % 16 != 0
  | _ => arg != 0

def execPgadv (o : EA) (s : State) : Out :=
  conclude s (gateE s [waits o.a] [] fun x =>
    impure s <|
    let a := (x.getS o.a).toNat
    if a % 8 != 0 then accessTrap s (addressFault a)
    else
      got (operand s a 32) (fun s d =>
        let base := leAt d 0 8
        let n := leAt d 8 4
        let kind := leAt d 12 1
        let arg := leAt d 24 8
        if kind > 6 || leAt d 13 11 != 0 || base % 65536 != 0 || n == 0 || adviceArgBad kind arg then trapFree s .illegal
        else .ok { s with advice := s.advice ++ [⟨x.vd, x.record, base, n, kind, BitVec.ofNat 64 arg⟩] }) s)

/-- Change the leaf of an address that is mapped with U set. -/
def adviseLeaf (s : State) (vd va : Nat) (f : Nat → Nat) : State :=
  match leafAt s vd va with
  | some (a, x, _) => if bit x 3 then pagerStore s a (f x) else s
  | none => s

/-- Is the page of an address mapped with U set? -/
def adviseSees (s : State) (vd va : Nat) : Bool := match leafAt s vd va with | some (_, x, _) => bit x 3 | none => false

/-- One page of an advice, once the pager has moved what it moves: LOCAL, DIRECT, CACHE and MIGRATE set the mode of a page that
is where they want it; read-duplicate makes this module's own page a copy; Track sets TRK and the tracking entry; Untrack
clears TRK. A duplicated page keeps its mode (log 92). -/
def advisePage (s : State) (v : Advice) (i : Nat) : State :=
  let va := v.base + 65536 * i
  let mode (m : Nat) (at_ : Nat → Bool) : State :=
    adviseLeaf s v.vd va (fun x => if at_ (leafPeer x) && !bit x 8 then setBits x 7 6 m else x)
  match v.kind with
  | 0 => mode 0 (fun p => p == 0)
  | 1 => mode 1 (fun p => p == v.arg.toNat)
  | 2 => mode 2 (fun p => p == v.arg.toNat)
  | 4 => adviseLeaf s v.vd va (fun x => if leafPeer x == 0 then setBits (setBits x 8 8 1) 1 1 0 else x)
  | 3 => adviseLeaf s v.vd va (fun x => setBits x 7 6 3)
  | 5 =>
    let tr := match s.vdev? v.vd with | some d => d.tracking | none => 0
    let s := adviseLeaf s v.vd va (fun x => setBits x 10 10 1)
    sysWrite s v.vd (tr + va / 65536 * 8) (leBytes 8 (v.arg.toNat + 256 * i))
  | 6 => adviseLeaf s v.vd va (fun x => setBits x 10 10 0)
  | _ => s

/-- Does a relayout in progress pin this address (R280)? -/
def convPins (s : State) (vd base size : Nat) : Bool :=
  s.convs.any (fun c => c.vd == vd && c.base < base + size && base < c.base + 4096 * c.tiles)

/-- Is a page of the advice pinned, so that the pager still waits (R256, R280)? -/
def adviceHeld (s : State) (v : Advice) : Bool :=
  v.kind != 5 && (convPins s v.vd v.base (v.pages * 65536)
    || (List.range v.pages).any (fun i => match leafAt s v.vd (v.base + 65536 * i) with
      | some (_, x, _) => bit x 12 | none => false))

/-- The bytes of n from a local address on that are not zero, by their offset. -/
def frameData (m : Mem) (pa n : Nat) : Mem :=
  (m.filter (fun c => pa ≤ c.1 && c.1 < pa + n)).map (fun c => (c.1 - pa, c.2))

/-- The local addresses of the 64 KiB parts of a page, where this module has them all. -/
def localParts (s : State) (vd va size : Nat) : Option (List Nat) :=
  (List.range (size / 65536)).mapM (fun i => match placeIn s vd (va + 65536 * i) with | some (.here pa) => some pa | _ => none)

/-- The pages of an advice that its stores move from this module to a peer: base, leaf, target, place there, parts here (R269). -/
def adviceMoves (v : Advice) (s t : State) : List (Nat × Nat × Nat × Nat × List Nat) :=
  (allLeaves t v.vd).filterMap (fun l =>
    match leafLoc t v.vd l.2 l.1, localParts s v.vd l.1 (leafPages l.2) with
    | .there pre pa _, some ps => some (l.1, l.2, pre, pa, ps)
    | _, _ => none)

/-- Have the pager's stores for an advice left what they must (R269)? Pages outside it and those with U clear keep their leaves. A
page that it may move keeps its data: it stands in another frame here with the same bytes, or goes to a peer, which is sent it
whole; a page at a peer stays there. Nothing is mapped anew. -/
def adviceKeeps (v : Advice) (s t : State) : Bool :=
  let after := allLeaves t v.vd
  let moves := adviceMoves v s t
  (allLeaves s v.vd).all (fun l =>
    let n := leafPages l.2
    if !(v.base < l.1 + n && l.1 < v.base + v.pages * 65536) || !bit l.2 3 then after.contains l
    else
      (List.range (n / 65536)).all (fun i =>
        let va := l.1 + 65536 * i
        match placeIn s v.vd va, placeIn t v.vd va with
        | some (.here pa), some (.here pb) => frameData s.mem pa 65536 == frameData t.mem pb 65536
        | some (.here _), some (.there _ _ _) => moves.any (fun m => m.1 ≤ va && va < m.1 + leafPages m.2.1)
        | some (.there p a _), some (.there q b _) => p == q && a == b
        | _, _ => false))
    && after.all (fun l => (List.range (leafPages l.2 / 65536)).all (fun i => (leafAt s v.vd (l.1 + 65536 * i)).isSome))

/-- The tenant of a virtual device, which names it to other modules (log 65). -/
def tenantOf (s : State) (vd : Nat) : Nat := match s.vdev? vd with | some v => v.tenant | none => 0

/-- The valid peers of a virtual device. -/
def peersOf (s : State) (vd : Nat) : List (Nat × Nat) :=
  ((List.range 4096).drop 1).filterMap (fun n => (peerPrefix s vd n).map (fun p => (n, p)))

/-- The modules that a virtual device has peers at. -/
def peerModules (s : State) (vd : Nat) : List Nat := ((peersOf s vd).map Prod.snd).filter (fun p => p != s.ownPrefix)

/-- What an advice has this module send: the pages that go to a peer, and the advice on duplication, which the pagers of the other
modules consult (R251, R269). -/
def adviceSends (v : Advice) (s t : State) : List OutMsg :=
  (adviceMoves v s t).map (fun m => .system m.2.2.1 (.page (tenantOf s v.vd) m.1 m.2.2.2.1 (leafPages m.2.1)
      (m.2.2.2.2.flatMap (fun pa => memRead s.mem pa 65536))))
    ++ (if v.kind == 4 then (peerModules t v.vd).map (fun p =>
      .system p (.advice (tenantOf s v.vd) v.base v.pages (v.arg.getLsbD 0) (v.arg.getLsbD 1))) else [])

/-- The first advice that the pager can apply: the oldest of its unit, and not held by a lease. -/
def nextAdvice (s : State) : Option Advice :=
  s.advice.find? (fun v => !adviceHeld s v && (s.advice.find? (fun w => w.vd == v.vd && w.unit == v.unit)) == some v)

/-- PAGER_ADVICE_APPLY: the pager applies the next advice, with the stores by which it moves pages, and shoots the pages down. Pages
that are not mapped with U set are ignored. Stores that would change data or other pages are no application (R269). The latest
advice on duplication counts (R251). -/
def execPagerAdviceApply (stores : List (Nat × Word)) (s : State) : Out :=
  match nextAdvice s with
  | none => .next s
  | some v =>
    let t := pagerMaps { s with advice := s.advice.erase v } v.vd none stores
    if !adviceKeeps v s t || !mayShoot s v.vd then .next s
    else
      let sends := adviceSends v s t
      let t : State := ((List.range v.pages).filter (fun i => adviseSees s v.vd (v.base + 65536 * i))).foldl
        (fun s i => advisePage s v i) { t with out := t.out ++ sends }
      let t := if v.kind == 4 then
          { t with dupRanges := ⟨v.vd, v.base, v.pages, 0, v.arg.getLsbD 0, v.arg.getLsbD 1⟩ :: t.dupRanges }
        else t
      (shootNow t v.vd v.base v.pages).done

/-! ### PGQRY (R270) -/

/-- The well-formed leaf of a global address by a walk of this module's table. -/
def queryLeaf (s : State) (a : Nat) : Option Nat :=
  if 2 ^ 40 ≤ a && a < 2 ^ 48 then walk s.mem (rootOf s s.me.vd) a else none

def execPgqry (o : EDA) (s : State) : Out :=
  conclude s (gateE s [waits o.a] [.s o.d] fun x =>
    match queryLeaf s (x.getS o.a).toNat with
    | none => .ok (setD s o.d 0)
    | some l => .ok (setD s o.d (BitVec.ofNat 64 (if x.level < 3 then setBits l 55 28 0 else l))))

/-- The residence word of a page. -/
def residence (s : State) (vd a leaf : Nat) : Nat :=
  let n := leafPages leaf
  let base := a / n * n
  let leases := min 16 ((vdRanges s vd).filter (fun r => touchesPages r base n)).length
  let pa := leafFrame leaf * 65536 + a % n
  let moving : Bool := match leafLoc s vd leaf a with | .here _ => (inTransfer s pa).isSome | _ => false
  leases * 2 ^ 48 + leafPeer leaf * 2 ^ 16 + (if moving then 4 else 0) + (if bit leaf 12 then 2 else 0) + 1

def execPgqryRes (o : EDA) (s : State) : Out :=
  conclude s (gateE s [waits o.a] [.s o.d] fun x =>
    let a := (x.getS o.a).toNat
    match queryLeaf s a with
    | none => .ok (setD s o.d 0)
    | some l => .ok (setD s o.d (BitVec.ofNat 64 (residence s x.vd a l))))

/-! ### Migration (R248 to R250) -/

/-- The peer that a MIGRATE page moves to: its counter has reached the threshold and exceeds the owner's; the lowest number
wins. -/
def migrateTo (c : PageCount) (thresh : Nat) : Option Nat :=
  (c.counts.find? (fun p => p.1 != 0 && thresh ≤ p.2 && kget 0 c.counts 0 < p.2)).map Prod.fst

/-- MIGRATE_THRESHOLD: the owner's pager starts to move a page whose counters call for it to a frame of the new owner. -/
def execMigrateThreshold (pa toPa : Nat) (s : State) : Out :=
  match kget? s.counts pa with
  | none => .next s
  | some c =>
    match s.vdev? c.vd, leafAt s c.vd c.va with
    | some v, some (_, x, _) =>
      let n := leafPages x
      (match migrateTo c v.migThresh with
      | none => .next s
      | some peer =>
        match peerPrefix s c.vd peer with
        | none => .next s
        | some pre =>
          let mine : Bool := match leafLoc s c.vd x c.va with | .here a => a == pa | _ => false
          if !mine || leafMode x != 3 || bit x 12 || convPins s c.vd c.va n || (inTransfer s pa).isSome || toPa % n != 0
              || pre == s.ownPrefix then .next s
          else
            let t : Transfer := ⟨pa, n, c.vd, c.va, peer, pre, toPa, [], [], [], false⟩
            { s with transfers := s.transfers ++ [t] }.done)
    | _, _ => .next s

/-- A queued ATOM or CAS goes on to the new owner (R249). -/
def forwardQueued (s : State) (t : Transfer) (r : RemoteReq) : State := resend s r t.toPrefix (t.toPa + (r.pa - t.pa))

/-- Acknowledge a write of another module. -/
def sendAck (s : State) (src seq pa : Nat) : State := s.emit (.flit src s.ownPrefix 6 seq pa 0 0 0 [] false false)

/-- MIGRATE_HANDOVER: the page goes to the new owner with the writes that were held, each of which had its tile's header advanced as it
came; this module's leaf says where it went; queued atomics follow; the counters reset; contexts of this module that stop and
waited for such a write go on. The old frame is free (R250); it reads zero from then on (log 65). -/
def execMigrateHandover (pa : Nat) (s : State) : Out :=
  match s.transfers.find? (fun t => t.pa == pa && !t.handed) with
  | none => .next s
  | some t =>
    if !mayShoot s t.vd then .next s
    else
    let s := shootNow s t.vd t.va (t.size / 65536)
    match s.transfers.find? (fun t => t.pa == pa && !t.handed) with
    | none => .next s
    | some t =>
      let mem := t.heldWrites.foldl (fun m h => memWrite m h.2.1 h.2.2) s.mem
      let data := memRead mem t.pa t.size
      let atEnd (u : Transfer) : Transfer :=
        if u.pa == pa && !u.handed then { u with handed := true, heldWrites := [], queued := [], acks := [] } else u
      let s := { s with mem := memClear s.mem t.pa (t.pa + t.size), counts := kdel t.pa s.counts
                        transfers := s.transfers.map atEnd }
      let s := s.emit (.system t.toPrefix (.page (tenantOf s t.vd) t.va t.toPa t.size data))
      let s := match leafAt s t.vd t.va with
        | some (a, x, _) => pagerStore s a (setBits (setBits (setBits x 55 28 (t.toPa / 65536)) 27 16 t.toPeer) 13 13 1)
        | none => s
      let s : State := t.queued.foldl (fun s r => forwardQueued s t r) s
      let s : State := t.acks.foldl (fun s a => sendAck s a.1 a.2.1 a.2.2) s
      let own := ((t.heldWrites.filter (fun h => heldBy 0 ≤ h.1 && h.1 < heldBy (2 ^ 20))).map (fun h => h.1 - heldBy 0)).eraseDups
      eventDone (own.foldl advanceStop s)

/-! ### Collapse of a read-duplicate page (R251 to R253) -/

/-- A 2 MiB leaf becomes a table of 32 leaves over the same frame. -/
def splitLeaf (s : State) (a x table : Nat) : State :=
  let s : State := (List.range 32).foldl (fun s i =>
    pagerStore s (table + 8 * i) (setBits (setBits x 5 4 1) 55 28 (leafFrame x + i))) s
  pagerStore s a (table / 4096 * 2 ^ 24 + 1)

/-- What one holder does: the leaf splits if it may (R256: a pinned page never does), and the page is the writer's from then
on. `peer` 0: this module wrote. `frame` is the writer's frame of the 64 KiB page; a page that stays whole has it as a part. -/
def collapseHere (s : State) (vd va peer frame : Nat) (split : Bool) (table : Nat) : State :=
  let go (s : State) : State :=
    match leafAt s vd va with
    | none => s
    | some (a, x, _) =>
      if !bit x 8 then s
      else
        let n := leafPages x / 65536
        let x := setBits (setBits x 8 8 0) 1 1 1
        let x := if peer == 0 then setBits (setBits x 7 6 0) 27 16 0
          else setBits (setBits (setBits x 7 6 1) 27 16 peer) 55 28 (frame / 65536 / n * n)
        shootNow (pagerStore s a x) vd (va / leafPages x * leafPages x) n
  match leafAt s vd va with
  | some (a, x, 3) => if split && bit x 8 && !bit x 12 then go (splitLeaf s a x table) else go s
  | _ => go s

/-- The advice on the duplicated range of an address (R251). -/
def dupRange (s : State) (vd va : Nat) : Option DupRange :=
  s.dupRanges.find? (fun d => d.vd == vd && d.base ≤ va && va < d.base + d.pages * 65536)

/-- The virtual device of this module that a message of another one names: of that tenant, with the sender among its peers; the one
that maps the address where there are several (log 65). -/
def vdFor (s : State) (tenant src va : Nat) : Option Nat :=
  let vs := s.vdevs.filter (fun v => v.2.tenant == tenant && (peerOf s v.1 src).isSome)
  ((vs.find? (fun v => (leafAt s v.1 va).isSome)).orElse (fun _ => vs.head?)).map Prod.fst

/-- The other modules' advice on a range: each virtual device of the tenant that has the sender for a peer knows it, and its duplicate
master (R251). -/
def adviceArrive (s : State) (tenant src base pages : Nat) (split writes : Bool) : State :=
  let ds : List DupRange := s.vdevs.filterMap (fun v =>
    if v.2.tenant == tenant then (peerOf s v.1 src).map (fun p => ⟨v.1, base, pages, p, split, writes⟩) else none)
  { s with dupRanges := ds ++ s.dupRanges }

/-- Is this a table that the pager has free for a virtual device: 4 KiB that no page and no table of any has (R237)? -/
def freshTable (s : State) (table : Nat) : Bool :=
  table != 0 && table % 4096 == 0 && !absentPa table && (pageOf s table).isNone
    && !s.vdevs.any (fun v => inPeerTable v.2 table || inTables s.mem table 4 1 v.2.root)
    && !s.collapses.any (fun c => c.table == table)

/-- Does a holder need a table for the collapse of a page: its leaf is one of 2 MiB and splits (R252, R256)? -/
def splitsHere (s : State) (vd va : Nat) (split : Bool) : Bool :=
  match leafAt s vd va with | some (_, x, 3) => split && bit x 8 && !bit x 12 | _ => false

/-- Is the page of an address duplicated, and pinned? -/
def pageDup (s : State) (vd va : Nat) : Bool := match leafAt s vd va with | some (_, x, _) => bit x 8 | none => false
def pagePinned (s : State) (vd va : Nat) : Bool := match leafAt s vd va with | some (_, x, _) => bit x 12 | none => false

/-- The duplicate master begins with a request: every holder is told, this module does its part, and the modules that must
acknowledge remain. A page that is no longer duplicated needs nothing (R253). -/
def collapseGo (s : State) (c : Collapse) : State × List Nat :=
  match dupRange s c.vd c.va, peerOf s c.vd c.writer with
  | some d, some peer =>
    if !pageDup s c.vd c.va || !d.writes || d.master != 0 || (splitsHere s c.vd c.va d.split && c.table == 0) then (s, [])
    else
      let split := d.split && !c.pinned && !pagePinned s c.vd c.va
      let others := peerModules s c.vd
      let s := collapseHere s c.vd c.va peer c.frame split c.table
      (others.foldl (fun s p => s.emit (.system p (.collapse (tenantOf s c.vd) c.va c.writer c.frame split))) s, others)
  | _, _ => (s, [])

/-- The pager of this module has its answer about a page. -/
def collapseHeard (s : State) (vd va : Nat) : State :=
  { s with collapseWaits := s.collapseWaits.erase (vd, va / 65536 * 65536) }

/-- A request is served: the writer's pager is told. -/
def collapseOver (s : State) (c : Collapse) : State :=
  if c.writer == s.ownPrefix then collapseHeard s c.vd c.va else s.emit (.system c.writer (.collapseDone (tenantOf s c.vd) c.va))

/-- The requests of a virtual device are served one at a time, in arrival order; `fuel` is at least their number. -/
def collapseNext : Nat → State → Nat → State
  | 0, s, _ => s
  | fuel + 1, s, vd =>
    match s.collapses.find? (fun c => c.vd == vd) with
    | none => s
    | some c =>
      if c.begun then s
      else
        let r := collapseGo s c
        if r.2.isEmpty then collapseNext fuel (collapseOver { r.1 with collapses := r.1.collapses.erase c } c) vd
        else
          { r.1 with collapses := r.1.collapses.map (fun (d : Collapse) => if d == c then { c with begun := true, todo := r.2 } else d) }

/-- A request has arrived at this module. -/
def collapseArrive (s : State) (c : Collapse) : State :=
  collapseNext (s.collapses.length + 1) { s with collapses := s.collapses ++ [c] } c.vd

/-- A holder has acknowledged the request that is being served. -/
def collapseAcked (s : State) (tenant src : Nat) : State :=
  match s.collapses.find? (fun c => tenantOf s c.vd == tenant && c.begun && c.todo.contains src) with
  | none => s
  | some c =>
    let todo := c.todo.filter (fun p => p != src)
    if todo.isEmpty then
      let s := { s with collapses := s.collapses.erase c }
      collapseNext s.collapses.length (collapseOver s c) c.vd
    else { s with collapses := s.collapses.map (fun (d : Collapse) => if d == c then { c with todo := todo } else d) }

/-- Has the pager a write fault of this page: a unit's, or that of a context that waits without issuing? -/
def writeFault (s : State) (vd va : Nat) : Bool :=
  let hit (a : Nat) : Bool := a / 65536 == va / 65536
  s.places.any (fun p => p.1 == vd && waitsPager s vd p.2.1 && frameCause s vd p.2.1 == Cause.writeProtect.code
      && hit (frameAddr s vd p.2.1))
    || s.ctxs.any (fun x => x.2.pageWait && x.2.vd == vd && (match x.2.stop with
      | some st => st.cause == .writeProtect && hit st.faddr.toNat | none => false))

/-- COLLAPSE_REQUEST: the pager, with a write fault of a duplicated page whose advice permits writes, asks the duplicate master of
that advice; this module serves the request when it is the master. `writer` and `frame` are this module and its frame of the page,
`table` a free one where its own leaf may split. -/
def execCollapseRequest (vd va writer frame table master : Nat) (s : State) : Out :=
  match leafAt s vd va, dupRange s vd va with
  | some (_, x, _), some d =>
    let page := va / 65536 * 65536
    let mine := leafFrame x * 65536 + page % leafPages x
    let here := master == s.ownPrefix
    if writer != s.ownPrefix || frame != mine || !bit x 8 || !d.writes || peerPrefix s vd d.master != some master
        || !writeFault s vd va || s.collapseWaits.contains (vd, page)
        || (here && (!mayShoot s vd || (splitsHere s vd va d.split && !freshTable s table))) then .next s
    else
      let s := { s with collapseWaits := s.collapseWaits ++ [(vd, page)] }
      if here then (collapseArrive s ⟨vd, va, writer, frame, bit x 12, table, false, []⟩).done
      else (s.emit (.system master (.collapseReq (tenantOf s vd) va frame (bit x 12)))).done
  | _, _ => .next s

/-- A collapse request of another module arrives at its duplicate master, which has a free table where its own leaf may split. One for
a page that it is not master of, or has not duplicated, is answered at once (R253). -/
def collapseAsked (s : State) (tenant src va frame table : Nat) (pinned : Bool) : Out :=
  match vdFor s tenant src va with
  | none => (s.emit (.system src (.collapseDone tenant va))).done
  | some vd =>
    let split := (dupRange s vd va).any (fun d => d.split)
    if !mayShoot s vd || (splitsHere s vd va split && !freshTable s table) then .next s
    else (collapseArrive s ⟨vd, va, src, frame, pinned, table, false, []⟩).done

/-- A holder does its part of a collapse and acknowledges. -/
def collapseTold (s : State) (tenant src va writer frame table : Nat) (split : Bool) : Out :=
  match vdFor s tenant src va with
  | none => (s.emit (.system src (.collapseAck tenant va))).done
  | some vd =>
    match peerOf s vd writer with
    | none => .next s
    | some peer =>
      if !mayShoot s vd || (splitsHere s vd va split && !freshTable s table) then .next s
      else ((collapseHere s vd va peer frame split table).emit (.system src (.collapseAck tenant va))).done

end Sys2Proof.Machine
end

