-- ==== Sys2Proof/Machine/Faults.lean ====
section
/-!
DEFINITION. ERET (R383), the pager's answers (R242, R264, R380), notices (R379), release of PARKED units (R50), PREEMPT (R49,
R391) and DBGHALT (R392).
-/
namespace Sys2Proof.Machine

/-! ### ERET (R383) -/

/-- Does a frame hold an engine result that is still pending (R47)? -/
def framePending (s : State) (vd r : Nat) : Bool :=
  let f := recWord s vd r 1
  let m := readFrame s vd f
  f != 0 && (List.range 8).any (fun i => bit (frameNat m (0x1620 + 8 * i) 8) 63)

/-- ERET's release: true while it must wait for the entry's loads, remote accesses and counter operations on their way, which come
before the decrement of the unit's launch (R341, R374, R375). -/
def eretWait (s : State) : State × Bool :=
  let r := releaseWait s s.cur
  (r.1, r.2 || onWay s s.cur || !s.me.loads.isEmpty)

/-- What an entry left behind at a counter slice is not the unit's. -/
def eretClean (s : State) : State :=
  let c := s.cur
  let s := leaveGuards s c
  let x := s.me
  { s with sliceFaults := s.sliceFaults.filter (fun f => !(f.level == 2 && sliceOf x c f)) }

/-- The level and the entry that ERET needs. -/
def eretEntry (s : State) (body : EntryKind → Verdict) : Verdict :=
  atLevel s 2 (match s.me.role with
    | .entry k => body k
    | _ => trapFree s .illegal)

/-- The context is done with a notice or HANDLER record. -/
def endEntryRecord (s : State) : State :=
  let x := s.me
  dropRecord (freeCtx (eretClean s) s.cur none) x.vd x.record

def execEretResume (o : EAB) (s : State) : Out :=
  conclude s (gateE s [waits o.a, waits o.b] [] fun x =>
    let a := (x.getS o.a).toNat
    let b := (x.getS o.b).toNat
    if a % 4 != 0 || a / 2 ^ 48 != 0 || b / 2 ^ 32 != 0 then trapFree s .illegal
    else
      eretEntry s fun k =>
        if k != .unit then trapFree s .illegal
        else
          let w := eretWait s
          if w.2 || framePending w.1 x.vd x.record then .wait w.1
          else
            let s := eretClean w.1
            let c := s.cur
            let vd := x.vd
            let r := x.record
            let s := if a == 0 then s else setRecWord s vd r 0 (setBits (recWord s vd r 0) 47 0 a)
            let s := if b == 0 then s else setRecWord s vd r 4 (setBits (recWord s vd r 4) 31 0 b)
            let s := restoreUnit (setRecCause s vd r 0) c vd r
            .left (s.setCtx c { s.ctx c with cancelReq := x.cancelReq, preemptReq := x.preemptReq }))

def execEretEnd (o : EB) (s : State) : Out :=
  conclude s (gateE s [waits o.b] [] fun x =>
    let b := (x.getS o.b).toNat
    match (if b / 65536 != 0 then none else Cause.ofCode b) with
    | none => trapFree s .illegal
    | some cause =>
      eretEntry s fun k =>
        let w := eretWait s
        if w.2 then .wait w.1
        else if k != .unit then .left (endEntryRecord w.1)
        else
          let s := eretClean w.1
          .left (finishRecord (freeCtx s s.cur none) x.vd x.record cause.code))

def execEretPark (s : State) : Out :=
  conclude s (gateE s [] [] fun x =>
    eretEntry s fun k =>
      let w := eretWait s
      if w.2 then .wait w.1
      else if k != .unit then .left (endEntryRecord w.1)
      else .left (freeCtx (eretClean w.1) s.cur (if x.coresUnit then some x.record else none)))

/-! ### Notices (R379) -/

/-- NOTICE_RAISE: firmware writes the record of the i-th notice and places it at its pier as a READY unit of urgency 0. One
that no virtual device holds is firmware's own (R389). -/
def execNoticeRaise (i : Nat) (s : State) : Out :=
  match s.notices[i]? with
  | none => .next s
  | some n =>
    if n.record != 0 || s.quiet n.vd then .next s
    else if (s.vdev? n.vd).isNone || (s.job? n.jobid).isNone then { s with notices := s.notices.eraseIdx i }.done
    else
      match takeRecord s n.vd with
      | none => .next s
      | some (r, s) =>
        let s := writeRecord s n.vd r
          [stReady * 2 ^ 48, 0, n.word2.toNat, pierY n.pier * 2 ^ 8 + pierX n.pier, n.cause.code * 2 ^ 32, 0, 0, 0]
        (enterWalk { s with notices := s.notices.set i { n with record := r } } n.vd r n.pier).done

/-! ### The pager (R242, R264, R380) -/

/-- Every launch of a job that holds a lease is stuck: each of its units WAITING or FAULTED, none still to come (R264). One whose units
are all DONE is about to end its leases. -/
def jobStuck (s : State) (job : Nat) : Bool :=
  (s.launches.filter (fun l => l.2.jobid == job && l.2.phase != .ended && !l.2.leases.isEmpty)).all (fun l =>
    toGenerate l.2 == 0 && !l.2.live.isEmpty && l.2.live.all (fun r => recState s l.2.vd r == stWaiting || recState s l.2.vd r == stFaulted))

/-- FRAME_EXHAUSTED cancels the job where R264 says so. -/
def frameExhausted (s : State) (job : Nat) : State := if jobStuck s job then cancelJob s job .frameExhausted else s

/-- How many 64 KiB frames an instruction may need at once: up to 64 data pages for the forms that address each lane, two for any other,
and those of its code (R263). -/
def framesFor : Option Instr → Nat
  | some (.ldx _) | some (.stx _) | some (.tld _) | some (.tst _) => 66
  | _ => 4

/-- The instruction of the group at which a unit waits. -/
def waitingInstr (s : State) (vd r : Nat) : Option Instr :=
  let pc := bits (recWord s vd r 0) 47 0
  (((List.range 4).map (fun i => leNat (sysRead s vd (pc + 4 * i) 4))).find? (fun w => !isPrefix (BitVec.ofNat 32 w))).bind decoded

/-- Is a frame one of this job: the pager made it resident for it; of any other frame, it is where the virtual device has no other job
(log 92)? -/
def frameOfJob (s : State) (vd job frame : Nat) : Bool :=
  match kget? s.frameJobs frame with
  | some j => j == job
  | none => !s.jobs.any (fun j => j.2.vd == vd && j.1 != job)

/-- Is every resident frame of a job pinned, or needed by the instruction that faulted (R264)? The frames without a pin are no more
than it may need. -/
def frameShort (s : State) (vd job r : Nat) : Bool :=
  let loose := (allLeaves s vd).filter (fun l =>
    leafPeer l.2 == 0 && bit l.2 3 && !bit l.2 12 && frameOfJob s vd job (leafFrame l.2))
  decide ((loose.map (fun l => leafPages l.2 / 65536)).foldl (fun a b => a + b) 0 ≤ framesFor (waitingInstr s vd r))

/-- Does the advice of a page let the pager pass a WRITE_PROTECT on, and is the page writable now (R251, R253)? -/
def mayPassWrite (s : State) (vd va : Nat) : Bool :=
  !pageDup s vd va || (dupRange s vd va).any (fun d => !d.writes)
def writeResolved (s : State) (vd va : Nat) : Bool :=
  !pageDup s vd va && !s.collapseWaits.contains (vd, va / 65536 * 65536)

/-- May the pager pass a PAGE on? The page of a relocated device it pulls; where the source cannot be reached it cancels the job
(R396, R398). -/
def mayPassPage (s : State) (vd va : Nat) : Bool :=
  match leafAt s vd va with | some (_, x, _) => !awaitsPull s vd x | none => true

/-- A unit at its pier becomes READY with a cause. -/
def readyWith (s : State) (vd r cause : Nat) : State :=
  let p := placeOf s vd r
  enterWalk (setRecState (setRecCause s vd r cause) vd r stReady) vd r p

/-- The pager's answer for a FAULTED unit. A write to a duplicated page is tried again once the page is no duplicate, and passed
on where the advice permits no writes; the pager finds the job stuck where a unit of it waits for a frame. -/
def pagerUnit (s : State) (vd r : Nat) (ans : PagerAns) : Out :=
  let write := frameCause s vd r == Cause.writeProtect.code
  let va := frameAddr s vd r
  let job := launchJob s (recLaunch s vd r)
  if !waitsPager s vd r || s.frozen vd then .next s
  else
    match ans with
    | .resolved ws =>
      let t := pagerMaps s vd (some job) ws
      if framePending s vd r || (write && !writeResolved t vd va) then .next s else (readyWith t vd r 0).done
    | .passOn =>
      if framePending s vd r || (write && !mayPassWrite s vd va) || !mayPassPage s vd va then .next s
      else (taint (readyWith s vd r (frameCause s vd r)) vd r).done
    | .frameWait =>
      if !frameShort s vd job r then .next s else (frameExhausted (setRecCause s vd r Cause.frameWait.code) job).done
    | .exhausted => if recCause s vd r == Cause.frameWait.code then (frameExhausted s job).done else .next s

/-- The pager's answer for a handler, entry or firmware that waits without issuing. -/
def pagerCtx (s : State) (c : Nat) (ans : PagerAns) : Out :=
  let x := s.ctx c
  match x.stop with
  | none => .next s
  | some st =>
    if !x.pageWait then .next s
    else
      let go (s : State) : State := s.setCtx c { s.ctx c with pageWait := false, stop := none }
      let write := st.cause == .writeProtect
      match ans with
      | .resolved ws =>
        let t := pagerMaps s x.vd (some x.jobid.toNat) ws
        if write && !writeResolved t x.vd st.faddr.toNat then .next s else (go t).done
      | .frameWait => .next s
      | .exhausted => (frameExhausted s x.jobid.toNat).done
      | .passOn =>
        if (write && !mayPassWrite s x.vd st.faddr.toNat) || !mayPassPage s x.vd st.faddr.toNat then .next s
        else
        match x.role with
        | .handler => (stopCtx (go s) c { st with kind := .deliver }).done
        | .entry _ =>
          let s := cancelJob (go s) x.jobid.toNat st.cause
          (if (s.ctx c).busy && (s.ctx c).record == x.record && (s.ctx c).stop.isNone then
            stopCtx s c { st with kind := .finish, cause := .cancelled }
          else s).done
        | _ => { go s with broken := some .firmwareFault }.done

/-- A job ends with ERROR of a cause from outside its own steps, closing as its kind does: its completion record, its output, its
stream, its watermark and slots (R174, R187, R195, R216, R236). -/
def jobGiveUp (s : State) (p : Nat) (j : Job) (cause : Cause) (va : Nat) : State :=
  let err (s : State) : State := jobError s p j cause va
  match j.cmd with
  | .copy => copyEnd s p j true cause.code va
  | .copyg => copyEnd s p j true cause.code va
  | .acci => acciFail s p j cause (BitVec.ofNat 64 va)
  | .enc => encFail s p j err
  | _ => if j.eng == Engine.matrix then matPassOn s p j cause va else err s

/-- The pager's answer for an ACCI whose status word's page is missing (R236). -/
def pagerAcci (s : State) (p : Nat) (j : Job) (ans : PagerAns) : Out :=
  let at_ := acciStatusAddr j.tmpl
  match ans with
  | .resolved ws => (setJobOn (pagerMaps s j.who.vd (some j.jobid) ws) p { j with use := none }).done
  | .passOn => if mayPassPage s j.who.vd at_ then (acciLost s p j .page).done else .next s
  | .frameWait => .next s
  | .exhausted => (frameExhausted s j.jobid).done

/-- The pager's answer for an engine job that is parked, for an ACCI that waits for its status word, or for a delivery that waits
(R172, R236, R430). -/
def pagerJob (s : State) (p id : Nat) (ans : PagerAns) : Out :=
  let x := s.pier p
  let still : Bool := match x.owner with | some vd => s.frozen vd | none => false
  match (if still then [] else x.jobs).find? (fun j => j.id == id && ((j.status == .faulted && j.cause == .page) || acciWaits j)) with
  | some j =>
    if acciWaits j then pagerAcci s p j ans
    else
    (match ans with
    | .resolved ws =>
      let s := pagerMaps s j.who.vd (some j.jobid) ws
      setJobOn s p (if j.eng == Engine.copy then { j with released := true } else { j with status := .running, cause := .none, faddr := 0 })
    | .passOn => if mayPassPage s j.who.vd j.faddr.toNat then jobGiveUp s p j .page j.faddr.toNat else s
    | .frameWait => s
    | .exhausted => frameExhausted s j.jobid).done
  | none =>
    match (if s.quietPier p then [] else x.deliveries).find? (fun d => d.2.recv.job == id && d.2.paged) with
    | none => .next s
    | some (core, d) =>
      let rest (s : State) : State :=
        let y := s.pier p
        s.setPier p { y with deliveries := y.deliveries.erase (core, d) }
      match ans with
      | .resolved ws => (deliver (rest (pagerMaps s d.recv.vd (some d.recv.jobid) ws)) p core { d with paged := false }).done
      | .passOn => (stopDelivery (rest s) p core d (deliveryFault s core d) true).done
      | .frameWait => .next s
      | .exhausted => (frameExhausted s d.recv.jobid).done

/-- PAGER_RESOLVE: the pager resolves a cause, passes it on, waits for a frame, or finds that none can come. -/
def execPagerResolve (t : PagerFor) (ans : PagerAns) (s : State) : Out :=
  match t with
  | .unit vd r => pagerUnit s vd r ans
  | .ctx c => pagerCtx s c ans
  | .job p id => pagerJob s p id ans

/-- UNIT_RELEASE: the job scheduler releases a PARKED unit, or a FAULTED one that ERET parked (log 68), at an entry pier (R49, R50). A
unit that waits for the pager is the pager's (R20, R377). While an engine result is pending the unit stays as it is (R47), and
the release is given again later (log 92). -/
def execUnitRelease (vd r p : Nat) (s : State) : Out :=
  match s.vdev? vd with
  | none => .next s
  | some v =>
    let st := recState s vd r
    if (st != stParked && st != stFaulted) || waitsPager s vd r || onContext s vd r || !v.piers.contains p || v.quiesced || framePending s vd r then .next s
    else (enterWalk (setRecState s vd r stReady) vd r p).done

/-! ### PREEMPT (R391) -/

/-- The cores that a mask word names (R391, R392); none outside the grid. -/
def maskCores (a : Nat) : List Nat :=
  let x := bits a 15 8
  if x ≥ 200 then [] else ((List.range 8).filter (fun k => bit a k)).map (fun k => pierAt x (bits a 21 16) * 8 + k)

/-- Is a mask word malformed? -/
def maskBad (a : Nat) : Bool := a / 2 ^ 22 != 0 || a % 256 == 0

/-- Every core of a virtual device. -/
def vdCores (s : State) (vd : Nat) : List Nat :=
  match s.vdev? vd with
  | some v => v.piers.flatMap (fun p => (List.range 8).map (fun k => p * 8 + k))
  | none => []

/-- The request of a target. -/
def preRequest (s : State) (ctx : Option Nat) (t : PreTarget) : PreReq :=
  match t with
  | .cores p mask => ⟨ctx, none, ((List.range 8).filter (fun k => bit mask k)).map (fun k => p * 8 + k), [], []⟩
  | .vd n => ⟨ctx, none, vdCores s n, [], []⟩
  | .job j => ⟨ctx, some j, match s.job? j with | some r => vdCores s r.vd | none => [], [], []⟩

/-- The target that PREEMPT's a names; none for a malformed word. -/
def preOperand (sel : PreemptSel) (a : Nat) : Option (Option PreTarget) :=
  match sel with
  | .cores => if maskBad a then none else some (if bits a 15 8 ≥ 200 then none else
      some (.cores (pierAt (bits a 15 8) (bits a 21 16)) (a % 256)))
  | .vd => if a / 65536 != 0 then none else some (some (.vd a))
  | .job => if a / 2 ^ 32 != 0 then none else some (some (.job a))

/-- How many of the units made PARKED are held on their contexts. -/
def preHeld (s : State) (q : PreReq) : Nat :=
  (q.parked.filter (fun u => let x := s.ctx u.1
    x.record == u.2.2 && x.vd == u.2.1 && (match x.stop with | some st => st.held | none => false))).length

def execPreempt (o : EPre) (s : State) : Out :=
  conclude s (gateE s [waits o.a] [.s o.d] fun x =>
    match preOperand o.sel (x.getS o.a).toNat with
    | none => trapFree s .illegal
    | some t =>
      atLevel s 3 <|
      match s.preempts.find? (fun q => q.ctx == some s.cur) with
      | some q =>
        if !q.todo.isEmpty || !q.waiting.isEmpty then .wait s
        else
          .ok (setD { s with preempts := s.preempts.erase q } o.d
            (BitVec.ofNat 64 (preHeld s q * 2 ^ 32 + q.parked.length)))
      | none =>
        match t with
        | none => .ok (setD s o.d 0)
        | some t =>
          let q := preRequest s (some s.cur) t
          if q.todo.isEmpty then .ok (setD s o.d 0) else .wait { s with preempts := s.preempts ++ [q] })

/-! ### DBGHALT (R392) -/

/-- Set or clear the halt of a core. -/
def setHalt (s : State) (k : Nat) (on : Bool) : State := s.setCore k { s.core k with halted := on, stepping := false }

/-- Has a core reached a boundary in every context but the one that asks, with no handler running? -/
def haltReached (s : State) (me k : Nat) : Bool :=
  (List.range 4).all (fun i => let x := s.ctx (k * 4 + i)
    k * 4 + i == me || (x.pfx.isEmpty && x.role != .handler))

/-- A DBGHALT form: the word of R391, then system level. -/
def haltForm (s : State) (o : EDA) (body : List Nat → Verdict) : Out :=
  conclude s (gateE s [waits o.a] [.s o.d] fun x =>
    let a := (x.getS o.a).toNat
    if maskBad a then trapFree s .illegal else atLevel s 3 (body (maskCores a)))

/-- DBGHALT: the cores stop at their next boundaries; the issuing context's own core stops once the instruction is done. -/
def execDbghalt (o : EDA) (s : State) : Out :=
  haltForm s o fun ks =>
    let own := coreOfCtx s.cur
    let s : State := (ks.filter (fun k => k != own)).foldl (fun s k => if (s.core k).halted then s else setHalt s k true) s
    if !ks.all (haltReached s s.cur) then .wait s
    else
      let s := if ks.contains own then setHalt s own true else s
      .ok (setD s o.d (BitVec.ofNat 64 ks.length))

def execDbghaltResume (o : EDA) (s : State) : Out := haltForm s o fun ks => .ok (ks.foldl (fun s k => setHalt s k false) s)

/-- DBGHALT.step: each halted core has one group to issue. -/
def execDbghaltStep (o : EDA) (s : State) : Out :=
  haltForm s o fun ks =>
    .ok (ks.foldl (fun s k => if (s.core k).halted then s.setCore k { s.core k with stepping := true } else s) s)

end Sys2Proof.Machine
end

