-- ==== Sys2Proof/Machine/Fabric.lean ====
section
/-!
DEFINITION. The Viaduct fabric: retries, paths and unknown outcomes (R384 to R387), requests of other modules performed here
(R159, R248, R249, R384, R389, R404, R406), answers to this module's requests (R247, R249), page parts (R396), and system
flits (R252, R353).
-/
namespace Sys2Proof.Machine

/-! ### Streams at the target (R384) -/

/-- What a window says of a number. -/
inductive Seen where
  | fresh
  | kept (reply : Bytes)
  | stale
  deriving DecidableEq, Repr

/-- The window of a source. -/
def streamOf (s : State) (src : Nat) : Stream := kget ⟨0, []⟩ s.streams src

/-- How far a number lies behind another, modulo 2^32. -/
def behind (top seq : Nat) : Nat := (top + 2 ^ 32 - seq % 2 ^ 32) % 2 ^ 32

/-- A number of a source: new, inside the window, or below it. -/
def lookSeq (s : State) (src seq : Nat) : Seen :=
  let w := streamOf s src
  match w.seen.find? (fun x => x.1 == seq) with
  | some x => .kept x.2
  | none =>
    let b := behind w.top seq
    if b < 65536 || 2 ^ 31 ≤ b then .fresh else .stale

/-- Record a number as performed, with the reply that is kept for it; numbers that fall below the window go. -/
def keepSeq (s : State) (src seq : Nat) (reply : Bytes) : State :=
  let w := streamOf s src
  let top := if 2 ^ 31 ≤ behind w.top seq then seq else w.top
  let seen := w.seen.filter (fun x => x.1 != seq && behind top x.1 < 65536)
  { s with streams := kput src ⟨top, seen ++ [(seq, reply)]⟩ s.streams }

/-! ### Paths (R385) -/

/-- A request got through: its path has failed no retry since. -/
def pathWorks (s : State) (r : RemoteReq) : State :=
  { s with badPaths := s.badPaths.filter (fun x => x != (r.port, r.target)) }

/-- The request is over; what waited for it leaves (R356, R384). -/
def forget (s : State) (r : RemoteReq) : State :=
  sendWaiting { s with remote := s.remote.filter (fun (q : RemoteReq) => q.uid != r.uid) }

/-- LINK_DOWN. -/
def execLinkDown (p : Nat) (s : State) : Out :=
  if Config.nPorts ≤ p || s.linksDown.contains p then .next s else { s with linksDown := s.linksDown ++ [p] }.done

/-- LINK_UP: the link's paths are healthy again. -/
def execLinkUp (p : Nat) (s : State) : Out :=
  { s with linksDown := s.linksDown.filter (fun q => q != p), badPaths := s.badPaths.filter (fun x => x.1 != p) }.done

/-! ### Answers of loads, operands and engine accesses -/

/-- What arrived for an agent. -/
def arrive (s : State) (agent : Nat) (r : RemoteReq) (bs : Bytes) (f : Option Cause) : State :=
  if agent == nobody then s else { s with arrived := s.arrived ++ [⟨agent, r.target, r.pa, bs, f, r.va⟩] }

/-- Give the answer of a request to the producer that needs it; poison makes the producer's MEMERR (R389). -/
def feedLoad (s : State) (c : Nat) (r : RemoteReq) (bs : Bytes) (bad : Bool) : State :=
  let x := s.ctx c
  let feed (p : PendLoad) : PendLoad :=
    match p.need.find? (fun n => n.1 == r.uid) with
    | none => p
    | some (_, skip, off, n) =>
      { p with bytes := patch p.bytes off ((bs.drop skip).take n), need := p.need.filter (fun n => n.1 != r.uid)
               memerr := if bad && p.memerr.isNone then some (BitVec.ofNat 64 r.va) else p.memerr }
  s.setCtx c { x with loads := x.loads.map feed }

/-- The producer of an unknown outcome takes zero (R385). -/
def zeroLoad (s : State) (c : Nat) (r : RemoteReq) : State :=
  let x := s.ctx c
  let zero (p : PendLoad) : PendLoad :=
    if p.need.any (fun n => n.1 == r.uid) then
      { p with bytes := List.replicate p.bytes.length 0, need := [], memerr := none }
    else p
  noteUnknown (s.setCtx c { x with loads := x.loads.map zero }) c (BitVec.ofNat 64 r.va)

/-- The lines of 64 bytes that a home cache of 32 MiB holds (R8, R12). -/
def cacheLines : Nat := 524288

/-- A line that was read for a pier is kept; at the capacity of the home cache the oldest line of the deck gives way (R247,
log 17). -/
def fillLine (s : State) (r : RemoteReq) (bs : Bytes) : State :=
  match r.fillFor with
  | none => s
  | some (d, pier) =>
    let dk := s.deck d
    let others := dk.lines.filter (fun l => !(l.target == r.target && l.pa == r.pa && l.pier == pier))
    s.setDeck d { dk with lines := capPush cacheLines others ⟨r.target, r.pa, bs, pier⟩ }

/-! ### Parts of a relocating page at the target (R396) -/

/-- A leaf of 1 GiB becomes a table of 512 leaves of 2 MiB over the same frames. -/
def splitGiant (s : State) (a x table : Nat) : State :=
  let s : State := (List.range 512).foldl (fun s i =>
    pagerStore s (table + 8 * i) (setBits (setBits x 5 4 2) 55 28 (leafFrame x + 32 * i))) s
  pagerStore s a (table / 4096 * 2 ^ 24 + 1)

/-- Split the leaf of an address down to level 4 with these tables. -/
def splitDown (s : State) (vd va : Nat) (tables : List Nat) : State :=
  match leafAt s vd va, tables with
  | some (a, x, 2), t :: u :: _ =>
    let s := splitGiant s a x t
    (match leafAt s vd va with
    | some (b, y, 3) => splitLeaf s b y u
    | _ => s)
  | some (a, x, 3), t :: _ => splitLeaf s a x t
  | _, _ => s

/-- With the last page of a relocated virtual device at this module, or known to be at a third one, no page awaits its pull. -/
def pullsOver (s : State) (vd : Nat) : State :=
  match s.vdev? vd with
  | none => s
  | some v => if (allLeaves s vd).any (fun l => awaitsPull s vd l.2) then s else s.setVdev vd { v with movedFrom := none }

/-- The pier field of a completion record through the mapping, where the record is that of the job (R175, R393). -/
def fixWord (x : RecFix) (w : Nat) : Nat :=
  if bits w 15 0 == x.id && bits w 39 32 == pierX x.old && bits w 45 40 == pierY x.old then
    setBits (setBits w 39 32 (pierX x.new)) 45 40 (pierY x.new)
  else w

/-- The completion records of carried jobs that stand on pages of this module by now are rewritten (R393). -/
def fixRecords (s : State) (vd : Nat) : State :=
  match s.vdev? vd with
  | none => s
  | some v =>
    let here (x : RecFix) : Bool := (sysPa s vd x.slot).isSome
    (v.recFixes.filter here).foldl (fun s x => sysWrite s vd x.slot (leBytes 8 (fixWord x (leNat (sysRead s vd x.slot 8)))))
      (s.setVdev vd { v with recFixes := v.recFixes.filter (fun x => !here x) })

/-- A part has arrived whole in its new frame: its leaf is LOCAL. -/
def partArrive (s : State) (vd va frame : Nat) (tables : List Nat) : State :=
  let s := splitDown s vd va tables
  match leafAt s vd va with
  | some (a, x, 4) =>
    let s := pagerStore s a (setBits (setBits (setBits (setBits x 55 28 (frame / 65536)) 27 16 0) 13 13 0) 7 6 0)
    pullsOver (fixRecords (shootNow s vd va 1) vd) vd
  | _ => s

/-- The answer to a pull is FWD: the page is not the source's but stands where the answer says, which the leaf names from then on,
DIRECT, or LOCAL where it is here (R249, R250). -/
def pullElsewhere (s : State) (vd va target pa : Nat) : State :=
  match leafAt s vd va, peerOf s vd target with
  | some (a, x, _), some peer =>
    let n := leafPages x
    let frame := (pa - va % n) / 65536
    pullsOver (shootNow (pagerStore s a (setBits (setBits (setBits (setBits x 55 28 frame) 27 16 peer) 13 13 0) 7 6
      (if peer == 0 then 0 else 1))) vd (va / n * n) (n / 65536)) vd
  | _, _ => s

/-! ### Unknown outcomes (R385 to R387, R398) -/

/-- The engine job that an agent number stands for. -/
def jobOfAgent (s : State) (agent : Nat) : Option (Nat × Job) :=
  s.piers.findSome? (fun p => (p.2.jobs.find? (fun j => jobAgent p.1 j.id == agent && !j.status.final)).map (fun j => (p.1, j)))

/-- A write of an engine agent whose outcome is unknown: the job, or the delivery, that made it ends with FABRIC_UNKNOWN; a job does so
when its other writes have their outcomes too (R372). -/
def engineUnknown (s : State) (agent va : Nat) : State :=
  match jobOfAgent s agent with
  | some (p, j) => if j.status == .failing then writeAnswered s agent else jobGiveUp s p j .fabricUnknown va
  | none =>
    match s.piers.findSome? (fun p => (p.2.deliveries.find? (fun d => jobAgent p.1 d.2.recv.job == agent)).map (fun d => (p.1, d))) with
    | some (p, d) =>
      let x := s.pier p
      stopDelivery (s.setPier p { x with deliveries := x.deliveries.filter (fun e => e != d) }) p d.1 d.2 ⟨.fabricUnknown, va, false⟩ false
    | none => s

/-- The outcome of a request is unknown. -/
def declareUnknown (s : State) (r : RemoteReq) : State :=
  let s := forget s r
  match r.who with
  | .load c => advanceStop (zeroLoad s c r) c
  | .store c => advanceStop (noteUnknown s c (BitVec.ofNat 64 r.va)) c
  | .operand agent => arrive s agent r (List.replicate r.size 0) (some .fabricUnknown)
  | .engine agent => engineUnknown s agent r.va
  | .forward _ _ _ => s
  | .page vd _ _ _ => (s.jobs.filter (fun j => j.2.vd == vd)).foldl (fun s j => cancelJob s j.1 .memerr) s

/-- REMOTE_RETRY_TIMEOUT: a request without an answer goes again, with the same number, on another healthy path, or its outcome
is declared unknown. -/
def execRemoteRetryTimeout (u : Nat) (s : State) : Out :=
  match s.remote.find? (fun r => r.uid == u) with
  | none => .next s
  | some r =>
    if r.attempts == 0 then .next s
    else
    let s := if 2 ≤ r.attempts then { s with badPaths := s.badPaths ++ [(r.port, r.target)] } else s
    let hs := healthyPorts s r.target
    if hs.isEmpty || 16 ≤ r.attempts then eventDone (declareUnknown s r)
    else
      let others := hs.filter (fun p => p != r.port)
      let ports := if others.isEmpty then hs else others
      let q := { r with attempts := r.attempts + 1, port := ports.getD ((r.target + r.pa / 64) % max ports.length 1) 0 }
      let s := { s with remote := s.remote.map (fun (x : RemoteReq) => if x.uid == u then q else x) }
      (s.emit (reqFlit s.ownPrefix q true)).done

/-! ### Requests of other modules (R249, R384, R389, R404) -/

/-- A transfer that has handed this address over (R249). It counts no more once a leaf of this module maps the frame again,
unless the whole virtual device has moved (R396). -/
def handedAt (s : State) (pa : Nat) : Option Transfer :=
  match s.transfers.find? (fun t => t.handed && t.pa ≤ pa && pa < t.pa + t.size) with
  | none => none
  | some t =>
    let moved : Bool := match s.vdev? t.vd with | some v => v.movedTo.isSome | none => false
    if !moved && (pageOf s pa).isSome then none else some t

/-- A FWD response: word 2 names where the location is now; word 3 has the kind of the request and, in [15:8], the log2 of the bytes of the
page (log 72). -/
def fwdTo (s : State) (src seq pa kind target toPa size : Nat) : State :=
  s.emit (.flit src s.ownPrefix 7 seq pa 0 (BitVec.ofNat 64 (target * 2 ^ 44 + toPa)) (BitVec.ofNat 64 (kind + 256 * log2Up size))
    [] false false)

/-- The FWD response for a page that was handed over. -/
def sendFwd (s : State) (t : Transfer) (src seq pa kind : Nat) : State :=
  fwdTo s src seq pa kind t.toPrefix (t.toPa + (pa - t.pa)) t.size

/-- A reply: bit 0 of its second word marks poisoned data; the third names the kind of the request. -/
def sendReply (s : State) (src seq pa kind : Nat) (bs : Bytes) (bad : Bool) : State :=
  s.emit (.flit src s.ownPrefix 5 seq pa (log2Up bs.length) (if bad then 1 else 0) (BitVec.ofNat 64 kind) bs false false)

/-- Is an address no byte of a stack, or in a poisoned unit (R243, R389)? -/
def badPlace (s : State) (pa : Nat) : Bool := absentPa pa || poisonedAt s (.here pa)

/-- n bytes at this module for another one, and whether they are poisoned. -/
def serveBytes (s : State) (pa n : Nat) : Bytes × Bool :=
  let bad := (span pa n).any (badPlace s)
  (if bad then List.replicate n 0 else (span pa n).map (fun a => readHere s (.here a)), bad)

/-- A read that meets poison is a MEMERR event of the deck that has the memory (R412). -/
def countServed (s : State) (pa n : Nat) : State :=
  if s.poison.isEmpty then s
  else match (span pa n).find? (fun a => poisonedAt s (.here a)) with
    | some a => countUncorr s (homeDeck a)
    | none => s

/-- Count a request of another module on a MIGRATE page: once for all its flits (R248). -/
def countRemote (s : State) (src pa : Nat) (seen : Bool) : State :=
  match (if seen then none else pageOf s pa) with
  | some (vd, va, leaf) =>
    if leafMode leaf == 3 then
      match peerOf s vd src with
      | some peer => countAccess s vd va (pa / leafPages leaf * leafPages leaf) peer
      | none => s
    else s
  | none => s

/-- What stands at a local address: virtual device, virtual address, the header of its tile where its page is tracked (R255),
and whether that header cannot be reached yet. -/
structure Home where
  vd : Nat
  va : Nat
  hdr : Option Nat
  lost : Bool

def homeOf (s : State) (pa : Nat) : Home :=
  match pageOf s pa with
  | none => ⟨0, 0, none, false⟩
  | some (vd, base, leaf) =>
    let va := base + pa % leafPages leaf
    let h := if bit leaf 10 then headerPa s sysAgent vd va else none
    ⟨vd, va, h, bit leaf 10 && h.isNone⟩

/-- A write of another module that cannot reach its tile's header waits: it is performed when it comes again (R255). A tracking
entry at a peer is asked for. -/
def homeWait (s : State) (h : Home) (pa : Nat) : Out :=
  let p := match s.vdev? h.vd with | some v => v.piers.headD 0 | none => 0
  (trackFetch s sysAgent p h.vd [⟨.here pa, false, true, 0, h.va⟩]).1.done

/-- The access is performed: a tracking entry that was read for it is forgotten. -/
def homeDone (s : State) (h : Home) : State := if h.hdr.isSome then dropArrived s sysAgent else s

/-- Where a handle element that a flit names by its place (bit 63 of word 2, log 92) stands at its home: the conversion entry that covers
the tile decides, else the Tag that the access read (R279). Any other flit names bytes. -/
def elemHome (s : State) (h : Home) (pa : Nat) (mark : Word) : Nat :=
  if !mark.getLsbD 63 then pa
  else
    let m := mark.toNat
    let tile := h.va / 4096 * 4096
    let tag := match s.convs.find? (fun c => c.vd == h.vd && 3 ≤ c.step && c.step < 7 && c.base ≤ tile && tile < c.base + 4096 * c.tiles) with
      | some c => if c.done.contains ((tile - c.base) / 4096) then c.target else c.tag
      | none => bits m 33 32
    pa / 4096 * 4096 + tileOffset (bits m 39 36) tag (bits m 15 0) (bits m 31 16)

/-- The header's part in a write of another module: its one write to the tile; a later flit of it leaves the generation and, like
every write, has Z clear (R159, R160). -/
def headerWrite (s : State) (h : Home) (seen : Bool) : State :=
  match h.hdr with
  | none => s
  | some a =>
    if seen then { s with mem := memWrite s.mem a (leBytes 8 (setBits (leNat (memRead s.mem a 8)) 32 32 0)) } else bumpHeader s a

/-- Write bytes at this module for another one: one write to the tile for all its flits (R159, R389). A write to an address that no
stack has is discarded with a MEMERR notice (R243, log 73). -/
def writeFor (s : State) (h : Home) (pa : Nat) (bs : Bytes) (seen : Bool) : State :=
  let dest := noticeTo s h.vd
  if (span pa bs.length).any absentPa then memerrNotice s h.vd dest.1 dest.2 (BitVec.ofNat 64 h.va)
  else
    let cells := ((span pa bs.length).map Loc.here).zip bs
    let s := unlockTiles s (cells.map Prod.fst)
    let lost := discarded s cells
    let s := homeDone (writeCells s h.vd dest.1 dest.2 (span h.va bs.length) cells) h
    if lost then s else headerWrite s h seen

/-- An ATOM or CAS of n bytes at this module: the old word, or poison; `f` gives the new word, none to leave it. -/
def rmwFor (s : State) (pa n : Nat) (seen : Bool) (f : Nat → Option Nat) : State × Bytes × Bool :=
  let old := serveBytes s pa n
  if old.2 then (countServed s pa n, old.1, true)
  else
    let h := homeOf s pa
    let r := rmwHere s h.vd (noticeTo s h.vd).1 (noticeTo s h.vd).2 (span h.va n) ((span pa n).map Loc.here) none f
    let s := homeDone r.1 h
    (if (f (leNat old.1)).isSome then headerWrite s h seen else s, old.1, false)

/-- What an ATOM or CAS flit does with the old word; none for a code that R85 reserves. -/
def flitRmw (cas : Bool) (n : Nat) (w2 w3 : Word) : Option (Nat → Option Nat) :=
  let m := 2 ^ (8 * n)
  if cas then some (fun old => if old == w2.toNat % m then some (w3.toNat % m) else none)
  else
    match AtomOp.ofCode (w3.toNat % 16) with
    | some op => some (fun old => some (atomNew op (8 * n) old (w2.toNat % m)))
    | none => none

/-- The kept reply of an ATOM or CAS: its mark and its bytes. -/
def keptReply (bs : Bytes) (bad : Bool) : Bytes := (if bad then 1 else 0) :: bs

/-- Queue an ATOM or CAS for the new owner of a page (R249). -/
def queueFor (s : State) (t : Transfer) (src seq pa n : Nat) (cas : Bool) (w2 w3 : Word) : State :=
  let r : RemoteReq := ⟨s.nextUid, t.toPrefix, 0, if cas then .cas else .atom, pa, n, [], w2, w3, .forward src seq pa, 0, none, 1, 0⟩
  let s := keepSeq s src seq []
  { s with nextUid := s.nextUid + 1
           transfers := s.transfers.map (fun (u : Transfer) => if u == t then { u with queued := u.queued ++ [r] } else u) }

/-- FABRIC_READ: a read of a tile that is locked waits, and is served when it comes again (R277). -/
def execFabricRead (f : Flit) (s : State) : Out :=
  if f.target != s.ownPrefix || f.size > 8 then .next s
  else
    match handedAt s f.pa with
    | some t => (sendFwd s t f.src f.seq f.pa 1).done
    | none =>
      if (lockedAt s f.pa).isSome then .next s
      else
        let n := 2 ^ f.size
        let at_ := if f.w2.getLsbD 63 then elemHome s (homeOf s f.pa) f.pa f.w2 else f.pa
        let b := serveBytes s at_ n
        (countRemote (sendReply (countServed s at_ n) f.src f.seq f.pa 1 b.1 b.2) f.src f.pa f.onPage).done

/-- Hold a write in the transfer of its page until it is handed over, with its source and what is to be acknowledged then. -/
def holdIn (s : State) (t : Transfer) (source pa : Nat) (bs : Bytes) (acks : List (Nat × Nat × Nat)) : State :=
  { s with transfers := s.transfers.map (fun u =>
      if u == t then { u with heldWrites := u.heldWrites ++ [(source, pa, bs)], acks := u.acks ++ acks } else u) }

/-- FABRIC_WRITE. One that a page in transfer holds reaches its home as it comes, so that its tile's header is advanced then (R159,
R249). -/
def execFabricWrite (f : Flit) (s : State) : Out :=
  if f.target != s.ownPrefix || f.size > 8 then .next s
  else
    match lookSeq s f.src f.seq with
    | .stale => .next s
    | .kept _ =>
      if s.transfers.any (fun t => t.acks.any (fun a => a.1 == f.src && a.2.1 == f.seq)) then .next s
      else (sendAck s f.src f.seq f.pa).done
    | .fresh =>
      let bs := f.data.take (2 ^ f.size)
      match handedAt s f.pa with
      | some t => (sendFwd s t f.src f.seq f.pa 2).done
      | none =>
        let h := homeOf s f.pa
        if h.lost then homeWait s h f.pa
        else
          let at_ := elemHome s h f.pa f.w2
          match inTransfer s f.pa with
          | some t =>
            let s := headerWrite (holdIn (countRemote s f.src f.pa f.onPage) t f.src at_ bs [(f.src, f.seq, f.pa)]) h f.onTile
            (keepSeq (homeDone s h) f.src f.seq []).done
          | none =>
            let s := countRemote (writeFor s h at_ bs f.onTile) f.src f.pa f.onPage
            (sendAck (keepSeq s f.src f.seq []) f.src f.seq f.pa).done

/-- The components of a combined flit: source, number, operand (R406). -/
def components (f : Flit) : List (Nat × Nat × Nat) :=
  (List.range (min 16 (f.data.length / 16))).map (fun i =>
    let w := leAt f.data (16 * i) 8
    (bits w 63 44, bits w 43 12, leAt f.data (16 * i + 8) 8))

/-- A combined ATOM: one addition, and each component's own reply, old value plus the operands before it. A component that is
in its window already adds nothing and has its kept reply. -/
def combinedAtom (s : State) (f : Flit) : State :=
  let n := 2 ^ f.size
  let cs := components f
  match handedAt s f.pa, inTransfer s f.pa with
  | some t, _ => cs.foldl (fun s c => sendFwd s t c.1 c.2.1 f.pa 3) s
  | none, some _ =>
    cs.foldl (fun (s : State) c =>
      match inTransfer s f.pa, lookSeq s c.1 c.2.1 with
      | some t, .fresh => queueFor (countRemote s c.1 f.pa false) t c.1 c.2.1 f.pa n false (BitVec.ofNat 64 c.2.2) f.w3
      | _, .kept (b :: bs) => sendReply s c.1 c.2.1 f.pa 3 bs (b != 0)
      | _, _ => s) s
  | none, none =>
    let fresh := cs.filter (fun c => lookSeq s c.1 c.2.1 == .fresh)
    let sum := (fresh.map (fun c => c.2.2)).foldl (fun a b => a + b) 0
    let r := rmwFor s f.pa n f.onTile (fun old => if fresh.isEmpty then none else some ((old + sum) % 2 ^ (8 * n)))
    let old := leNat r.2.1
    let step (acc : State × Nat × Bytes) (c : Nat × Nat × Nat) : State × Nat × Bytes :=
      let out (bs : Bytes) : Bytes := leBytes 8 (c.1 * 2 ^ 44 + c.2.1 * 2 ^ 12) ++ (bs ++ List.replicate 8 0).take 8
      match lookSeq acc.1 c.1 c.2.1 with
      | .fresh =>
        let bs := if r.2.2 then r.2.1 else leBytes n ((old + acc.2.1) % 2 ^ (8 * n))
        (keepSeq acc.1 c.1 c.2.1 (keptReply bs r.2.2), acc.2.1 + c.2.2, acc.2.2 ++ out bs)
      | .kept (_ :: bs) => (acc.1, acc.2.1, acc.2.2 ++ out bs)
      | _ => acc
    let done := cs.foldl step (r.1, 0, [])
    let s := cs.foldl (fun s c => if fresh.contains c then countRemote s c.1 f.pa false else s) done.1
    if done.2.2.isEmpty then s
    else s.emit (.flit f.src s.ownPrefix 5 f.seq f.pa (log2Up done.2.2.length) (if r.2.2 then 1 else 0) 3 done.2.2 false true)

/-- One ATOM or CAS of another module. One to a locked tile waits, and is performed when it comes again (R277). The rows of a scatter-add
are one write to a tile for all their flits. -/
def fabricRmw (f : Flit) (cas : Bool) (s : State) : Out :=
  let n := 2 ^ f.size
  let kind := if cas then 4 else 3
  match flitRmw cas n f.w2 f.w3 with
  | none => .next s
  | some g =>
    match lookSeq s f.src f.seq with
    | .stale => .next s
    | .kept [] => .next s
    | .kept (b :: bs) => (sendReply s f.src f.seq f.pa kind bs (b != 0)).done
    | .fresh =>
      match handedAt s f.pa, inTransfer s f.pa with
      | some t, _ => (sendFwd s t f.src f.seq f.pa kind).done
      | none, some t => (queueFor (countRemote s f.src f.pa f.onPage) t f.src f.seq f.pa n cas f.w2 f.w3).done
      | none, none =>
        let h := homeOf s f.pa
        if (lockedAt s f.pa).isSome then .next s
        else if h.lost then homeWait s h f.pa
        else
          let r := rmwFor s f.pa n f.onTile g
          let s := keepSeq (countRemote r.1 f.src f.pa f.onPage) f.src f.seq (keptReply r.2.1 r.2.2)
          (sendReply s f.src f.seq f.pa kind r.2.1 r.2.2).done

/-- FABRIC_ATOM: operations of 4 and 8 bytes. -/
def execFabricAtom (f : Flit) (s : State) : Out :=
  if f.target != s.ownPrefix || !(f.size == 2 || f.size == 3) then .next s
  else if f.combined then
    (let h := homeOf s f.pa
    if f.w3.toNat % 16 != 0 || (lockedAt s f.pa).isSome then .next s else if h.lost then homeWait s h f.pa else (combinedAtom s f).done)
  else fabricRmw f false s

/-- FABRIC_CAS. -/
def execFabricCas (f : Flit) (s : State) : Out :=
  if f.target != s.ownPrefix || !(f.size == 2 || f.size == 3) then .next s else fabricRmw f true s

/-! ### Answers to this module's requests -/

/-- An answer with its bytes. -/
def answerRequest (s : State) (r : RemoteReq) (bs : Bytes) (bad : Bool) : State :=
  let s := forget s r
  match r.who with
  | .load c => advanceStop (feedLoad s c r bs bad) c
  | .store c => advanceStop s c
  | .operand agent => arrive s agent r bs (if bad then some .memerr else none)
  | .engine agent => writeAnswered s agent
  | .forward src seq pa =>
    sendReply (keepSeq s src seq (keptReply bs bad)) src seq pa (kindCode r.kind) bs bad
  | .page vd va frame tables => partArrive s vd va frame tables

/-- The request that a reply answers: its source, number and kind. -/
def requestOf (s : State) (src seq kind : Nat) : Option RemoteReq :=
  s.remote.find? (fun r => r.target == src && r.seq == seq && kindCode r.kind == kind)

/-- One of the 256 flits of a page part has arrived (R396, R404): its bytes stand in the new frame, poisoned where they were, and
the number of it is kept in the request until all have come. -/
def pullPiece (s : State) (r : RemoteReq) (frame : Nat) (f : Flit) : State :=
  let i := (f.pa - r.pa) / 256
  let at_ := frame + 256 * i
  if f.pa < r.pa || 256 ≤ i || f.pa % 256 != 0 || f.data.length < 256 || r.data.contains (BitVec.ofNat 8 i) then s
  else
    let q := { r with data := r.data ++ [BitVec.ofNat 8 i] }
    let s := { s with mem := memWrite s.mem at_ (f.data.take 256)
                      poison := if f.w2.getLsbD 0 then s.poison ++ (List.range 8).map (fun k => .hbm (at_ + 32 * k)) else s.poison
                      remote := s.remote.map (fun (x : RemoteReq) => if x.uid == r.uid then q else x) }
    if q.data.length < 256 then s else answerRequest s q [] false

/-- FABRIC_REPLY: a read, an ATOM, a CAS or a page part is answered. -/
def execFabricReply (f : Flit) (s : State) : Out :=
  if f.target != s.ownPrefix then .next s
  else
    match requestOf s f.src f.seq f.w3.toNat with
    | none => .next s
    | some r =>
      match r.who with
      | .page _ _ frame _ => eventDone (pullPiece (pathWorks s r) r frame f)
      | _ =>
      if r.kind == RemoteKind.write || f.data.length < r.size then .next s
      else
        let bs := f.data.take r.size
        let bad := f.w2.getLsbD 0
        let s := pathWorks s r
        eventDone (answerRequest (if bad then s else fillLine s r bs) r bs bad)

/-- FABRIC_ACK: a write is acknowledged. -/
def execFabricAck (f : Flit) (s : State) : Out :=
  if f.target != s.ownPrefix then .next s
  else
    match requestOf s f.src f.seq 2 with
    | none => .next s
    | some r => eventDone (answerRequest (pathWorks s r) r [] false)

/-- A request whose location is now at this module: performed here (R245). -/
def performOwn (s : State) (r : RemoteReq) (pa : Nat) : State :=
  let h := homeOf s pa
  match r.kind with
  | .read =>
    let at_ := elemHome s h pa r.opw
    let b := serveBytes s at_ r.size
    answerRequest (countServed s at_ r.size) r b.1 b.2
  | .pull => s
  | .write =>
    let at_ := elemHome s h pa r.opw
    (match inTransfer s pa with
    | some t => answerRequest (homeDone (headerWrite (holdIn s t (heldBy (r.who.agent.getD 0)) at_ r.data []) h false) h) r [] false
    | none => answerRequest (writeFor s h at_ r.data false) r [] false)
  | _ =>
    match inTransfer s pa, flitRmw (r.kind == RemoteKind.cas) r.size r.opw r.cmpw with
    | some t, _ =>
      let s := forget s r
      { s with transfers := s.transfers.map (fun (u : Transfer) =>
          if u == t then { u with queued := u.queued ++ [{ r with pa := pa }] } else u) }
    | none, none => s
    | none, some g => let b := rmwFor s pa r.size false g; answerRequest b.1 r b.2.1 b.2.2

/-- FABRIC_FWD: the request was not performed; it goes to the location that the response names, and the page's CACHE lines go
from the whole module (R247, R249). The leaf of a page that was to be pulled names that location. -/
def execFabricFwd (f : Flit) (s : State) : Out :=
  if f.target != s.ownPrefix then .next s
  else
    match requestOf s f.src f.seq (f.w3.toNat % 256) with
    | none => .next s
    | some r =>
      let n := 2 ^ (f.w3.toNat / 256 % 256)
      let lo := r.pa / n * n
      let s : State := (List.range 16).foldl (fun s d =>
        dropLines s d (fun l => l.target == f.src && lo ≤ l.pa && l.pa < lo + n)) (pathWorks s r)
      let dest := f.w2.toNat / 2 ^ 44
      let pa := f.w2.toNat % 2 ^ 44
      match r.who with
      | .page vd va _ _ => eventDone (pullElsewhere (forget s r) vd va dest pa)
      | _ =>
      if dest == s.ownPrefix && ((lockedAt s pa).isSome || (homeOf s pa).lost) then .next s
      else eventDone (if dest == s.ownPrefix then performOwn s r pa else resend s r dest pa)

/-- A table from the pager's pool, cleared. -/
def takeTable (s : State) (vd : Nat) : Option (Nat × State) :=
  match s.vdev? vd with
  | none => none
  | some v =>
    match v.tablePool with
    | [] => none
    | t :: ts => some (t, { s.setVdev vd { v with tablePool := ts } with mem := memClear s.mem t (t + 4096) })

/-- A leaf of the source splits down to level 4, with tables of its pager's pool, as far as they go (R250, R396). -/
def splitSource (s : State) (vd va : Nat) : State :=
  let step (s : State) : State :=
    match leafAt s vd va, takeTable s vd with
    | some (a, x, 2), some (t, u) => splitGiant u a x t
    | some (a, x, 3), some (t, u) => splitLeaf u a x t
    | _, _ => s
  step (step s)

/-- The flits of a page part: 256 of 256 bytes (R396, R404). -/
def sendPart (s : State) (src seq pa : Nat) : State :=
  (List.range 256).foldl (fun s i =>
    let at_ := pa + 256 * i
    sendReply s src seq at_ 8 (memRead s.mem at_ 256) (!s.poison.isEmpty && (span at_ 256).any (fun a => poisonedAt s (.here a)))) s

/-- The page of a virtual device that has moved to a module, by its address and frame number there, where another module holds it: that
module and the place. -/
def thirdPlace (s : State) (src va pa : Nat) : Option (Nat × Nat) :=
  s.vdevs.findSome? (fun v =>
    if v.2.movedTo != some src then none
    else match leafAt s v.1 va with
      | some (_, x, _) => (match leafLoc s v.1 x va with | .there p a _ => if a == pa then some (p, a) else none | _ => none)
      | none => none)

/-- FABRIC_PAGE_PULL: a part of a page of a virtual device that has moved to the requester is handed over, and its leaf here is FWD (R249,
R250, R396). A part that was handed over before is sent again. Word 2 names the frame at the target, word 3 the page; of one that
another module holds, the answer is FWD. -/
def execFabricPagePull (f : Flit) (s : State) : Out :=
  if f.target != s.ownPrefix || f.pa % 65536 != 0 then .next s
  else
    match s.transfers.find? (fun t => t.handed && t.pa == f.pa && t.size == 65536) with
    | some t => if t.toPrefix == f.src && t.toPa == f.w2.toNat then (sendPart s f.src f.seq f.pa).done else .next s
    | none =>
      match pageOf s f.pa with
      | none =>
        (match thirdPlace s f.src f.w3.toNat f.pa with
        | some (p, a) => (fwdTo s f.src f.seq f.pa 8 p a 65536).done
        | none => .next s)
      | some (vd, base, leaf) =>
        if (s.vdev? vd).bind (fun v => v.movedTo) != some f.src then .next s
        else
          let va := base + f.pa % leafPages leaf
          let peer := (peerOf s vd f.src).getD 0
          let t : Transfer := ⟨f.pa, 65536, vd, va, peer, f.src, f.w2.toNat, [], [], [], true⟩
          let s := splitSource { s with transfers := s.transfers ++ [t] } vd va
          let s := sendPart s f.src f.seq f.pa
          (match leafAt s vd va with
            | some (a, x, 4) =>
              pagerStore s a (setBits (setBits (setBits (setBits x 55 28 (f.w2.toNat / 65536)) 27 16 peer) 13 13 1) 7 6 1)
            | _ => s).done

/-! ### System flits (R252, R353, R396, R404) -/

/-- A page that this module now owns (R248, R249, R269). -/
def pageArrive (s : State) (vd va pa size : Nat) (bs : Bytes) : State :=
  let s := { s with mem := memWrite s.mem pa bs
                    transfers := s.transfers.filter (fun t => !(t.handed && t.pa == pa)) }
  match leafAt s vd va with
  | some (a, x, _) =>
    if leafPages x != size then s
    else shootNow (pagerStore s a (setBits (setBits (setBits x 55 28 (pa / 65536)) 27 16 0) 13 13 0)) vd va (size / 65536)
  | none => s

/-- The caisson of a tile's home scans it, or sets its index base, for a ZSCAN of another module (R179, log 37). -/
def zscanServe (s : State) (f : Flit) (tag pa : Nat) (ib : Option Word) : Out :=
  let h := homeOf s pa
  let reply (s : State) (bad : Bool) : Out :=
    ((countRemote (countServed s pa 4096) f.src pa f.onPage).emit (.system f.src (.zscanReply tag bad))).done
  if h.lost then homeWait s h pa
  else if (lockedAt s pa).isSome then .next s
  else
    let b := serveBytes s pa 4096
    let bad := b.2 && ib.isNone
    match (if bad then none else h.hdr) with
    | some a => reply (homeDone (zscanHome s a b.1 ib) h) false
    | none => reply s bad

/-- The answer to a count that another module asks for (R353): where the page has been handed over, FWD (R249). -/
def accntServe (s : State) (src tag pa peer : Nat) : State :=
  match handedAt s pa with
  | some t => s.emit (.system src (.accntFwd tag t.toPrefix (t.toPa + (pa - t.pa)) peer))
  | none =>
    match pageOf s pa with
    | some (_, _, leaf) => s.emit (.system src (.accntReply tag (accessCount s pa (leafPages leaf) peer) (leafMode leaf == 3)))
    | none => s.emit (.system src (.accntReply tag 0 false))

/-- A count has come for an ACCNT that waits. -/
def accntHeard (s : State) (tag : Nat) (w : Word) : State :=
  { s with accnts := s.accnts.map (fun (a : AccntSt) => if a.tag == tag && a.value.isNone then { a with value := some w } else a) }

/-- FABRIC_SYSTEM: traffic between modules' firmware. `table` is a table that the pager has for splitting a leaf. -/
def execFabricSystem (f : Flit) (m : SysMsg) (table : Nat) (s : State) : Out :=
  if f.target != s.ownPrefix then .next s
  else
    match m with
    | .collapseReq tenant va frame pinned => collapseAsked s tenant f.src va frame table pinned
    | .collapseDone tenant va =>
      { s with collapseWaits := s.collapseWaits.filter (fun w => !(tenantOf s w.1 == tenant && w.2 == va / 65536 * 65536)) }.done
    | .collapse tenant va writer frame split => collapseTold s tenant f.src va writer frame table split
    | .collapseAck tenant _ => (collapseAcked s tenant f.src).done
    | .advice tenant base pages split writes => (adviceArrive s tenant f.src base pages split writes).done
    | .page tenant va pa size data =>
      (match vdFor s tenant f.src va with
      | some vd => pageArrive s vd va pa size data
      | none => s).done
    | .relocState img => { s with images := s.images ++ [{ img with fromPrefix := f.src }] }.done
    | .relocAck vd ok kept =>
      let hit (r : RelocSt) : Bool := r.vd == vd && r.toPrefix == f.src && r.sent
      let own : List Transfer := kept.filterMap (fun k =>
        match leafAt s vd k.1 with
        | some (_, x, _) => (match leafLoc s vd x k.1 with
          | .here pa => some ⟨pa, 65536, vd, k.1, (peerOf s vd f.src).getD 0, f.src, k.2, [], [], [], true⟩
          | _ => none)
        | none => none)
      if !s.relocs.any hit then .next s
      else
        { s with transfers := s.transfers ++ (if ok then own else [])
                 relocs := s.relocs.map (fun (r : RelocSt) => if hit r then { r with acked := true, failed := !ok } else r) }.done
    | .relocDrain _ => .next s
    | .zscan tag pa ib => zscanServe s f tag pa ib
    | .zscanReply tag bad =>
      eventDone (mapJobs s (fun _ j => if (j.cmd == .zscan || j.cmd == .zscanIb) && j.list == [tag] then
        { j with list := [tag, if bad then 2 else 1] } else j))
    | .accnt tag pa peer => (accntServe s f.src tag pa peer).done
    | .accntReply tag count migrate => (accntHeard s tag (if migrate then accntWord count true false else 0)).done
    | .accntFwd tag target pa peer =>
      if target != s.ownPrefix then (s.emit (.system target (.accnt tag pa peer))).done
      else
        (accntHeard s tag (match pageOf s pa with
          | some (_, _, leaf) => if leafMode leaf == 3 then accntWord (accessCount s pa (leafPages leaf) peer) true true else 0
          | none => 0)).done

/-- FLIT_RESERVED_DISCARD: a port discards a flit of a reserved kind and counts it. -/
def execFlitReservedDiscard (deck kind : Nat) (s : State) : Out :=
  if (1 ≤ kind && kind ≤ 9) || 16 ≤ deck then .next s
  else
    let d := s.deck deck
    (s.setDeck deck { d with discards := d.discards + 1 }).done

end Sys2Proof.Machine
end

