-- ==== Sys2Proof/Machine/Relocation.lean ====
section
/-!
DEFINITION. Relocation of a virtual device (R393 to R398): quiesce, the state that is sent, the mapping onto the target's piers
and decks, RELOC in its three forms, and the pull of a page part.
-/
namespace Sys2Proof.Machine

/-! ### The mapping (R393) -/

/-- From the piers of the source, in (y, x) order, to those of the target. -/
structure Move where
  fromVd : Nat
  toVd : Nat
  src : List Nat
  dst : List Nat
  deriving DecidableEq, Repr

def Move.pier (m : Move) (p : Nat) : Nat :=
  match (m.src.zip m.dst).find? (fun x => x.1 == p) with | some x => x.2 | none => p
def Move.core (m : Move) (k : Nat) : Nat := m.pier (k / 8) * 8 + k % 8
def Move.ctx (m : Move) (c : Nat) : Nat := m.pier (c / 32) * 32 + c % 32

/-- A deck that holds none of the piers keeps its number. -/
def Move.deck (m : Move) (d : Nat) : Nat :=
  match (m.src.zip m.dst).find? (fun x => deckOfPier x.1 == d) with | some x => deckOfPier x.2 | none => d

/-- A counter id: its number stays, its deck is mapped. -/
def Move.id (m : Move) (i : Nat) : Nat := m.deck (i / 2 ^ 28) * 2 ^ 28 + i % 2 ^ 28

/-- As many piers, and each deck of the source whole onto one of the target. -/
def Move.ok (m : Move) : Bool :=
  m.src.length == m.dst.length
    && (m.src.zip m.dst).all (fun x => (m.src.zip m.dst).all (fun y =>
      deckOfPier x.1 != deckOfPier y.1 || deckOfPier x.2 == deckOfPier y.2))

def Move.who (m : Move) (w : Who) : Who := { w with vd := m.toVd, launch := m.id w.launch, core := m.core w.core }

def Move.msg (m : Move) (x : Msg) : Msg :=
  { x with src := m.core x.src, dst := m.core x.dst, job := x.job.map (fun j => (m.pier j.1, j.2)), vd := m.toVd
           jobid := m.id x.jobid }

def Move.ann (m : Move) (a : Announce) : Announce :=
  { a with src := m.core a.src, pier := m.pier a.pier, job := a.job.map (fun j => (m.pier j.1, j.2)) }

def Move.recv (m : Move) (r : Recv) : Recv :=
  { r with vd := m.toVd, jobid := m.id r.jobid, launch := m.id r.launch, srcCore := m.core r.srcCore }

/-- A job of an engine queue, or one that restarts: the message of a stalled ACCI stands in the park area, released, and restarts from
its first span (R206, R394). -/
def Move.job (m : Move) (j : Job) : Job :=
  let j := { j with core := m.core j.core, ctx := m.ctx j.ctx, who := m.who j.who, jobid := m.id j.jobid
                    msg := j.msg.map m.msg }
  if j.cmd == .acci && j.started && !j.status.final && j.ring.isSome then
    { j with started := false, inq := false, status := .parkedVersion, released := true, sent := false, flags := 0, prog := 0
             prog2 := 0, ring := none, use := none, tmpl := [], tmpl2 := [], list := [], work := [] }
  else j

/-- What a pier carries: queues in order, posted receives, overflow, dictionaries, tracked ids, images, entry points, FIFOs,
deque. Slots, tiles and watermarks stay as the target has them (R186). -/
def Move.pierState (m : Move) (t x : Pier) : Pier :=
  { t with trsplit := x.trsplit, split := x.split, splitWait := x.splitWait.map m.core
           jobs := x.jobs.map m.job, dslots := x.dslots
           tracked := x.tracked.map (fun d => { d with held := d.held.map m.ann })
           images := x.images, imgClock := x.imgClock
           recvs := x.recvs.map (fun r => (m.core r.1, m.recv r.2))
           recvStates := x.recvStates.map (fun r => { r with ctx := m.ctx r.ctx, vd := m.toVd, core := m.core r.core })
           overflow := x.overflow.map (fun o => (m.core o.1, { o.2 with msg := m.msg o.2.msg }))
           deliveries := x.deliveries.map (fun d => (m.core d.1, { d.2 with recv := m.recv d.2.recv, msg := m.msg d.2.msg }))
           held := x.held.map m.msg, fullRaised := x.fullRaised, annHeld := x.annHeld.map m.ann, fifos := x.fifos
           deque := x.deque.map (fun e => { e with vd := m.toVd }), dqWait := x.dqWait.map (fun e => { e with vd := m.toVd })
           entries := x.entries.map (fun e => (m.id (e.1 / 256) * 256 + e.1 % 256, e.2)) }

/-- The counters that a packet names (R305). -/
def Move.packet (m : Move) (pkt : Bytes) : Bytes :=
  [32, 36, 48].foldl (fun b i => if leAt b i 4 == 0 then b else patch b i (leBytes 4 (m.id (leAt b i 4)))) pkt

def Move.launch (m : Move) (l : Launch) : Launch :=
  { l with vd := m.toVd, jobid := m.id l.jobid, deck := m.deck l.deck, pkt := m.packet l.pkt, reuseCopy := none }

def Move.queue (m : Move) (q : Queue) (regPa : Nat) : Queue :=
  { q with vd := m.toVd, jobid := m.id q.jobid, deck := m.deck q.deck, regPa := regPa
           pkt := q.pkt.map (fun p => (p.1, m.packet p.2)), drops := q.drops.map (fun d => (m.id d.1, d.2)) }

def Move.counter (m : Move) (c : Counter) : Counter :=
  { c with owner := m.id c.owner
           waiters := c.waiters.map (fun w => { w with vd := m.toVd, pier := m.pier w.pier }) }

/-! ### Quiesce (R394) -/

/-- Which virtual device does a remote request work for? -/
def requestVd (s : State) (r : RemoteReq) : Option Nat :=
  let agentPier (a : Nat) : Nat := if a < 2 ^ 20 then pierOfCtx a else (a - 2 ^ 20) / 65536
  match r.who with
  | .load c => (s.pier (pierOfCtx c)).owner
  | .store c => (s.pier (pierOfCtx c)).owner
  | .operand a => (s.pier (agentPier a)).owner
  | .engine a =>
    if 2 ^ 41 ≤ a then (s.launch? (a - 2 ^ 41)).map (fun l => l.vd)
    else if 2 ^ 40 ≤ a then (s.queue? (a - 2 ^ 40)).map (fun q => q.vd)
    else (s.pier (agentPier a)).owner
  | _ => none

/-- Does an engine job keep the quiesce from completing? -/
def jobMoves (j : Job) : Bool :=
  j.started && !j.status.final && !(j.eng == .copy && j.status == .faulted)
    && !(j.cmd == .acci && (j.ring.isSome || j.status == .parkedVersion || j.released))

/-- Is everything of a virtual device at rest? -/
def calm (s : State) (vd : Nat) : Bool :=
  let mine (p : Nat) : Bool := (s.pier p).owner == some vd
  s.ctxs.all (fun x => !mine (pierOfCtx x.1) || !x.2.busy || x.2.role == .firmware)
    && s.piers.all (fun p => p.2.owner != some vd || p.2.jobs.all (fun j => !jobMoves j))
    && s.cores.all (fun k => !mine (pierOfCore k.1) || k.2.sb.isEmpty)
    && s.convs.all (fun c => c.vd != vd)
    && s.mesh.all (fun i => match i with | .msg m => m.vd != vd | .ann a => !mine (pierOfCore a.src))
    && s.stolen.all (fun t => t.2.2 != vd) && s.dying.all (fun d => d.vd != vd)
    && s.ctrReqs.all (fun r => !mine (pierOfCtx r.ctx))
    && s.remote.all (fun r => requestVd s r != some vd)
    && s.preempts.all (fun q => (q.todo.all (fun k => !mine (pierOfCore k))) && q.waiting.all (fun c => !mine (pierOfCtx c)))

/-- A started COPY or COPYG that stands between two sectors parks there, with FAULTED and PREEMPTED in its completion record, to be
resumed as it is released (R174, R175, R394, log 36). One that has ended writes its final record first. -/
def parkCopy (s : State) (p : Nat) (j : Job) : State :=
  let ag := jobAgent p j.id
  if !(j.cmd == .copy || j.cmd == .copyg) || !j.started || j.status != .running || !j.work.isEmpty || writesOut s ag then s
  else
    setJobOn (tryRecord (dropArrived s ag) p j .faulted Cause.preempted.code 0) p
      { j with status := .faulted, released := true, cause := .preempted, faddr := 0 }

/-- The copies of a virtual device park. -/
def parkCopies (s : State) (vd : Nat) : State :=
  (s.piers.filter (fun p => p.2.owner == some vd)).foldl (fun s p => p.2.jobs.foldl (fun s j => parkCopy s p.1 j) s) s

/-- Quiesce begins: every unit on a context is pre-empted. -/
def beginQuiesce (s : State) (vd : Nat) : State :=
  match s.vdev? vd with
  | none => s
  | some v => { s.setVdev vd { v with quiesced := true } with preempts := s.preempts ++ [preRequest s none (.vd vd)] }

/-! ### The state that is sent (R395) -/

/-- Records of a virtual device that hold a unit or a notice. -/
def liveRecords (s : State) (vd : Nat) : List Nat :=
  (s.launches.filter (fun l => l.2.vd == vd)).flatMap (fun l => l.2.live)
    ++ (s.notices.filter (fun n => n.vd == vd && n.record != 0)).map (fun n => n.record)

/-- n bytes of system memory, 64 at a time. -/
def areaRead (s : State) (vd va n : Nat) : Bytes := (List.range (n / 64)).flatMap (fun i => sysRead s vd (va + 64 * i) 64)

def jobsOf (s : State) (vd : Nat) : KMap JobRec := s.jobs.filter (fun j => j.2.vd == vd)

/-- Memory that is carried: records, frames, rings, entry-point tables. -/
def areasOf (s : State) (vd : Nat) : List (Nat × Bytes) :=
  let rs := liveRecords s vd
  let fs := (rs.map (fun r => recWord s vd r 1)).filter (fun f => f != 0)
  rs.map (fun r => (r, areaRead s vd r 64)) ++ fs.map (fun f => (f, areaRead s vd f 8192))
    ++ (s.queues.filter (fun q => q.2.vd == vd)).map (fun q => (q.2.ring, areaRead s vd q.2.ring (64 * 2 ^ q.2.logSize)))
    ++ ((jobsOf s vd).filter (fun j => j.2.entryTab != 0)).map (fun j => (j.2.entryTab, areaRead s vd j.2.entryTab 2048))

/-- The virtual address of a local address of a virtual device. -/
def vaOf (s : State) (pa : Nat) : Nat :=
  match pageOf s pa with | some (_, base, leaf) => base + pa % leafPages leaf | none => 0

/-- The agent of a relocation's own reads. -/
def relocAgent (vd : Nat) : Nat := 2 ^ 42 + vd

/-- The descriptor and the atoms of a dictionary as the slot's DINST would read them (R224, R225, R395); none where it would end with an
ERROR. -/
def dictBytes (s : State) (vd p : Nat) (d : DSlot) : Got (Option (Bytes × Bytes)) :=
  let w := sysWho vd (p * 8)
  let read (s : State) (a n : Nat) (f : State → Bytes → Got (Option (Bytes × Bytes))) : Got (Option (Bytes × Bytes)) :=
    match engReadAt s (relocAgent vd) w a n with
    | .ok s bs => f s bs
    | .wait s => .wait s
    | .fault s x => if x.cause == .page then .wait (askReclaim s vd x.faddr) else .ok s none
  read s d.descr 32 fun s desc =>
    let n := leAt desc 12 2
    if n == 0 || n > 2048 then .ok s none
    else read s (recordedAt { w with core := (if d.descr < 2097152 then p * 8 + (d.descr - 1048576) / 131072 else p * 8) } (leAt desc 0 8))
      (64 * n) fun s atoms => .ok s (some (desc, atoms))

/-- The dictionaries of a virtual device that are installed, in the order of its piers. Memory is at rest by now, so that this is what
the target would read. -/
def relocDicts (s : State) (vd : Nat) (piers : List Nat) : Got (List (List (Nat × Bytes × Bytes))) :=
  piers.foldl (fun acc p =>
    match acc with
    | .ok s out =>
      let one : Got (List (Nat × Bytes × Bytes)) := ((s.pier p).dslots.filter (fun d => d.2.state == .ready)).foldl (fun acc d =>
        match acc with
        | .ok s ds =>
          (match dictBytes s vd p d.2 with
          | .ok s (some x) => .ok s (ds ++ [(d.1, x)])
          | .ok s none => .ok s ds
          | .wait s => .wait s
          | .fault s f => .fault s f)
        | r => r) (.ok s [])
      (match one with
      | .ok s ds => .ok s (out ++ [ds])
      | .wait s => .wait s
      | .fault s f => .fault s f)
    | r => r) (.ok s [])

/-- What one pier gives. -/
def pierImage (s : State) (p : Nat) (dicts : List (Nat × Bytes × Bytes)) : PierImage :=
  let x := s.pier p
  { pier := x
    dicts := dicts
    cores := (List.range 8).map (fun k =>
      let c := p * 8 + k
      (s.core c, (s.spad.filter (fun b => b.1 / 131072 == c)).map (fun b => (b.1 % 131072, b.2)),
        (s.granEmpty.filter (fun g => g / 8192 == c)).map (fun g => g % 8192))) }

/-- The state of a virtual device, with the dictionaries of its piers. -/
def imageOf (s : State) (vd toVd : Nat) (dicts : List (List (Nat × Bytes × Bytes))) : VdImage :=
  let v := (s.vdev? vd).getD ⟨[], 0, 0, 0, 0, 0, [], [], [], 0, 0, [], none, [], false, none, none, [], [], []⟩
  let js := jobsOf s vd
  { fromPrefix := s.ownPrefix, fromVd := vd, toVd := toVd, piers := v.piers, areas := areasOf s vd
    leaves := (allLeaves s vd).map (fun l => (l.1, l.2, (peerPrefix s vd (leafPeer l.2)).getD s.ownPrefix))
    states := (v.piers.zip dicts).map (fun x => pierImage s x.1 x.2), recPool := v.recPool, framePool := v.framePool, stackPool := v.stackPool
    counters := s.counters.filter (fun c => js.any (fun j => j.1 == c.2.owner)), jobs := js
    launches := s.launches.filter (fun l => l.2.vd == vd)
    queues := (s.queues.filter (fun q => q.2.vd == vd)).map (fun q => (q.1, { q.2 with regPa := vaOf s q.2.regPa }))
    walkers := s.walkers.filter (fun w => w.vd == vd), notices := s.notices.filter (fun n => n.vd == vd)
    places := s.places.filter (fun x => x.1 == vd), taints := s.taints.filter (fun x => x.1 == vd)
    sliceFaults := s.sliceFaults.filter (fun f => f.vd == vd)
    reserved := (s.ctxs.filter (fun x => (s.pier (pierOfCtx x.1)).owner == some vd && x.2.reserved.isSome)).map
      (fun x => (x.1, x.2.reserved, x.2.heldUnit))
    reserving := v.reserving, coresQ := v.coresQ
    dupRanges := (s.dupRanges.filter (fun d => d.vd == vd)).map (fun d => (d, if d.master == 0 then none else peerPrefix s vd d.master)) }

/-- What the source keeps once the target has the state: the page table, for the pages that are still here. Every reuse entry
of the virtual device is dropped (R288). -/
def dropMoved (s : State) (vd toPrefix : Nat) : State :=
  match s.vdev? vd with
  | none => s
  | some v =>
    let js := jobsOf s vd
    let s := s.setVdev vd { v with movedTo := some toPrefix, recPool := [], framePool := [], stackPool := [], reserving := none
                                   coresQ := [], jobs := [], reuseFree := [] }
    let blank (x : Pier) : Pier :=
      { Pier.reset with owner := x.owner, events := x.events, freq := x.freq, overScaled := x.overScaled, tlb := x.tlb }
    { s with piers := s.piers.map (fun p => (p.1, if p.2.owner == some vd then blank p.2 else p.2))
             ctxs := s.ctxs.map (fun x => (x.1, if (s.pier (pierOfCtx x.1)).owner == some vd && !x.2.busy then
               { x.2 with reserved := none, heldUnit := none } else x.2))
             counters := s.counters.filter (fun c => !js.any (fun j => j.1 == c.2.owner))
             jobs := s.jobs.filter (fun j => j.2.vd != vd), launches := s.launches.filter (fun l => l.2.vd != vd)
             queues := s.queues.filter (fun q => q.2.vd != vd), walkers := s.walkers.filter (fun w => w.vd != vd)
             notices := s.notices.filter (fun n => n.vd != vd), places := s.places.filter (fun x => x.1 != vd)
             taints := s.taints.filter (fun x => x.1 != vd), sliceFaults := s.sliceFaults.filter (fun f => f.vd != vd)
             reuse := s.reuse.filter (fun e => e.2.vd != vd), dupRanges := s.dupRanges.filter (fun d => d.vd != vd)
             advice := s.advice.filter (fun a => a.vd != vd) }

/-- Every PARKED unit of a virtual device becomes READY where it stood (R396, R398), but one with an engine result pending (R47),
which is released later. One that holds a cause has it delivered again when a context takes it (R380). -/
def readyParked (s : State) (vd : Nat) : State :=
  (liveRecords s vd).foldl (fun s r =>
    if recState s vd r == stParked && !framePending s vd r then
      let s := if recCause s vd r == Cause.preempted.code then setRecCause s vd r 0 else s
      enterWalk (setRecState s vd r stReady) vd r (placeOf s vd r)
    else s) s

/-- The source goes on with its own units. -/
def resumeHere (s : State) (vd : Nat) : State :=
  match s.vdev? vd with
  | none => s
  | some v => readyParked (s.setVdev vd { v with quiesced := false }) vd

/-! ### The target's page table (R395) -/

/-- Put a leaf below a table where the target maps nothing itself. -/
def putLeaf : Nat → State → Nat → Nat → Nat → Nat → Nat → State
  | 0, s, _, _, _, _, _ => s
  | fuel + 1, s, vd, lvl, t, va, x =>
    let a := t + 8 * vaIndex va lvl
    let e := leNat (memRead s.mem a 8)
    let sub := bits e 55 24 * 4096
    if bits x 5 4 + lvl == 5 then
      if !bit e 0 then pagerStore s a x
      else if bits e 5 4 == 0 then
        let n := if lvl == 2 then 512 else 32
        let step := if lvl == 2 then 2 ^ 21 else 65536
        (List.range n).foldl (fun s i =>
          putLeaf fuel s vd (lvl + 1) sub (va + step * i)
            (setBits (setBits x 5 4 (bits x 5 4 - 1)) 55 28 (leafFrame x + step / 65536 * i))) s
      else s
    else if bit e 0 then (if bits e 5 4 == 0 then putLeaf fuel s vd (lvl + 1) sub va x else s)
    else
      match takeTable s vd with
      | none => s
      | some (n, s) => putLeaf fuel (pagerStore s a (n / 4096 * 2 ^ 24 + 1)) vd (lvl + 1) n va x

/-- A leaf as the target has it (R395): DIRECT, with the source module for its peer and the frame that it has at the source. Where that
frame is another module's, the source answers the pull with FWD (log 77). -/
def movedLeaf (s : State) (vd : Nat) (src : Nat) (l : Nat × Nat × Nat) : Option Nat :=
  (peerOf s vd src).map (fun peer => setBits (setBits (setBits l.2.1 27 16 peer) 13 13 0) 7 6 1)

def mapLeaves (s : State) (vd : Nat) (img : VdImage) : State :=
  img.leaves.foldl (fun s l =>
    match movedLeaf s vd img.fromPrefix l with
    | some x => putLeaf 4 s vd 1 (rootOf s vd) l.1 x
    | none => s) s

/-- The parts that both sides map, with their frames at the target. -/
def keptParts (s : State) (vd : Nat) (img : VdImage) : List (Nat × Nat) :=
  (img.leaves.filter (fun l => l.2.2 == img.fromPrefix)).flatMap (fun l =>
    (List.range (leafPages l.2.1 / 65536)).filterMap (fun i =>
      let va := l.1 + 65536 * i
      (sysPa s vd va).map (fun pa => (va, pa))))

/-! ### Acceptance (R393, R395, R396) -/

/-- Write carried memory, 64 bytes at a time. -/
def areaWrite (s : State) (vd va : Nat) (bs : Bytes) : State :=
  (List.range (bs.length / 64)).foldl (fun s i => sysWrite s vd (va + 64 * i) ((bs.drop (64 * i)).take 64)) s

/-- A record through the mapping: hint, launch id, wait object; the pending results of its frame. -/
def mapRecord (s : State) (m : Move) (r : Nat) : State :=
  let vd := m.toVd
  let w3 := recWord s vd r 3
  let p := m.pier (pierAt (bits w3 7 0) (bits w3 13 8))
  let s := setRecWord s vd r 3 (setBits (setBits w3 7 0 (pierX p)) 13 8 (pierY p))
  let w2 := recWord s vd r 2
  let s := setRecWord s vd r 2 (setBits w2 31 0 (if bits w2 31 0 == 0 then 0 else m.id (bits w2 31 0)))
  let s :=
    if recState s vd r == stWaiting then
      let o := bits (recWord s vd r 4) 63 32
      let o := if o / 2 ^ 30 < 2 then
          let q := m.pier (pierAt (bits o 29 22) (bits o 21 16))
          waitJob (o / 2 ^ 30) q (o % 65536)
        else o / 2 ^ 30 * 2 ^ 30 + m.deck (bits o 29 26) * 2 ^ 26 + o % 2 ^ 26
      setRecWord s vd r 4 (setBits (recWord s vd r 4) 63 32 o)
    else s
  let f := recWord s vd r 1
  if f == 0 then s
  else
    (List.range 8).foldl (fun s i =>
      let e := leNat (sysRead s vd (f + 0x1620 + 8 * i) 8)
      if !bit e 63 then s
      else
        let q := m.pier (pierAt (bits e 15 8) (bits e 21 16))
        sysWrite s vd (f + 0x1620 + 8 * i) (leBytes 8 (setBits (setBits e 15 8 (pierX q)) 21 16 (pierY q)))) s

/-- A dictionary is loaded as DINST loads it, with the version that the slot had (R224, R225, R395). One that DINST would refuse leaves
its slot EMPTY (log 78). -/
def reloadDict (s : State) (p : Nat) (x : Nat × Bytes × Bytes) (old : DSlot) : State :=
  let d : DSlot := ⟨.ready, leAt x.2.1 8 2, old.ver, leAt x.2.1 12 2, leAt x.2.1 14 2, old.descr, old.atomArr⟩
  let s := setDslot s p x.1 dslotEmpty
  let atom (i : Nat) : Bytes := (x.2.2.drop (64 * i)).take 64
  let is := List.range d.n
  if leAt x.2.1 16 16 != 0 || leAt x.2.1 10 2 == 0xFFFF || leAt x.2.1 0 8 % 64 != 0 || d.n == 0 || d.n > 2048 || d.row % 32 != 0
      || d.row + d.n > 4096 || d.row < 32 * bSlots s p || rowsKept s p x.1 d.row (d.row + d.n) || is.any (fun i => atomBad (atom i)) then s
  else setDslot (putAtoms s p x.1 d.row d.n (is.map (fun i => (i, atom i)))) p x.1 d

/-- The state of a pier and its cores takes its place. -/
def placePier (s : State) (m : Move) (p : Nat) (x : PierImage) : State :=
  let q := m.pier p
  let s := s.setPier q (m.pierState (s.pier q) x.pier)
  let empty : State := s.setPier q { s.pier q with dslots := [] }
  let s : State := x.dicts.foldl (fun t d => reloadDict t q d (dslotAt s q d.1)) empty
  (x.cores.zip (List.range 8)).foldl (fun s c =>
    let k := q * 8 + c.2
    let s := s.setCore k { s.core k with stream := c.1.1.stream, ingress := c.1.1.ingress.map m.msg }
    let s := { s with spad := c.1.2.1.foldl (fun t b => memPut (k * 131072 + b.1) b.2 t)
                                (memClear s.spad (k * 131072) (k * 131072 + 131072)) }
    let s := setGranules s true ((List.range 8192).map (fun g => k * 8192 + g) |>.filter (fun g => s.granEmpty.contains g))
    setGranules s false (c.1.2.2.map (fun g => k * 8192 + g))) s

/-- May this image be taken: the mapping, numbers that are free, and system memory that firmware has prepared? -/
def imageFits (s : State) (m : Move) (img : VdImage) : Bool :=
  m.ok && img.counters.all (fun c => (kget? s.counters (m.id c.1)).isNone)
    && img.jobs.all (fun j => (s.job? (m.id j.1)).isNone) && img.queues.all (fun q => (s.queue? q.1).isNone)
    && img.launches.all (fun l => (s.launch? (m.id l.1)).isNone)
    && (peerOf s m.toVd img.fromPrefix).isSome
    && img.areas.all (fun a => (List.range (a.2.length / 64)).all (fun i => (sysPa s m.toVd (a.1 + 64 * i)).isSome))
    && img.queues.all (fun q => (sysPa s m.toVd q.2.regPa).isSome)

/-- A completion record that a carried copy has written, with its pier fields still those of the source (R393). One in a scratchpad is
rewritten at once, one on a page when the page is here. -/
def recordFix (s : State) (m : Move) (p : Nat) (j : Job) : State :=
  match (if j.cmd == .copy || j.cmd == .copyg then j.ring else none) with
  | none => s
  | some a =>
    let x : RecFix := ⟨a, j.id, p, m.pier p⟩
    match window j.who.core j.who.stk a with
    | some (_, .spad c o) =>
      let at_ := m.core c * 131072 + o
      { s with spad := memWrite s.spad at_ (leBytes 8 (fixWord x (leNat (memRead s.spad at_ 8)))) }
    | some (_, .stack va) => addFix s m.toVd { x with slot := va }
    | some (_, .glob va) => addFix s m.toVd { x with slot := va }
    | none => s
where
  addFix (s : State) (vd : Nat) (x : RecFix) : State :=
    match s.vdev? vd with | some v => s.setVdev vd { v with recFixes := v.recFixes ++ [x] } | none => s

/-- Accept the state: the virtual device goes on here. -/
def acceptImage (s : State) (m : Move) (img : VdImage) : State :=
  let vd := m.toVd
  match s.vdev? vd with
  | none => s
  | some v =>
    let s : State := img.areas.foldl (fun s a => areaWrite s vd a.1 a.2) s
    let s := s.setVdev vd { v with recPool := img.recPool, framePool := img.framePool, stackPool := img.stackPool
                                   reserving := img.reserving.map m.id, coresQ := img.coresQ.map m.id
                                   movedFrom := some img.fromPrefix, jobs := img.jobs.map (fun j => m.id j.1) }
    let s : State := img.counters.foldl (fun s c => setCounter s (m.id c.1) (m.counter c.2)) s
    let s : State := img.jobs.foldl (fun s j => s.setJob (m.id j.1) { j.2 with vd := vd }) s
    let s : State := img.launches.foldl (fun s l => s.setLaunch (m.id l.1) (m.launch l.2)) s
    let s : State := img.queues.foldl (fun s q => s.setQueue q.1 (m.queue q.2 ((sysPa s vd q.2.regPa).getD 0))) s
    let s : State := (img.piers.zip img.states).foldl (fun s x => placePier s m x.1 x.2) s
    let places : List (Nat × Nat × Nat) := img.places.map (fun x => (vd, x.2.1, m.pier x.2.2))
    let s := { s with walkers := s.walkers ++ img.walkers.map (fun w => { w with vd := vd, pier := m.pier w.pier })
                      notices := s.notices ++ img.notices.map (fun n =>
                        { n with vd := vd, jobid := m.id n.jobid, pier := m.pier n.pier })
                      places := s.places ++ places, taints := s.taints ++ img.taints.map (fun x => (vd, x.2))
                      sliceFaults := s.sliceFaults ++ img.sliceFaults.map (fun f => { f with vd := vd, ctx := m.ctx f.ctx })
                      dupRanges := s.dupRanges ++ img.dupRanges.map (fun d =>
                        { d.1 with vd := vd, master := match d.2 with | some pre => (peerOf s vd pre).getD 0 | none => 0 }) }
    let s : State := img.reserved.foldl (fun s r =>
      let c := m.ctx r.1
      s.setCtx c { s.ctx c with vd := vd, reserved := r.2.1.map m.id, heldUnit := r.2.2, freed := false }) s
    let s : State := (liveRecords s vd).foldl (fun s r => mapRecord s m r) s
    let s : State := (img.piers.zip img.states).foldl (fun s x => x.2.pier.jobs.foldl (fun s j => recordFix s m x.1 j) s) s
    readyParked (pullsOver (fixRecords s vd) vd) vd

/-! ### RELOC (R398) -/

/-- The peer's prefix and virtual device from a descriptor; none when a reserved bit is set. -/
def relocPeer (d : Bytes) : Option (Nat × Nat) :=
  let w := leAt d 0 8
  if w % 2 ^ 44 != 0 || (d.drop 10).any (fun b => b != 0) then none else some (w / 2 ^ 44, leAt d 8 2)

/-- A RELOC form: its operands, system level, and its descriptor. -/
def relocForm (s : State) (o : E3) (body : State → Nat → Nat → Nat → Verdict) : Out :=
  conclude s (gateE s [waits o.a, waits o.b] [.s o.d] fun x =>
    let a := (x.getS o.a).toNat
    let b := (x.getS o.b).toNat
    if a / 65536 != 0 then trapFree s .illegal
    else
      atLevel s 3 <|
        if b % 8 != 0 then accessTrap s (addressFault b)
        else
          got (operand s b 32) (fun s d =>
            match relocPeer d with
            | none => trapFree s .illegal
            | some (pre, n) => body s a pre n) s)

/-- d takes a cause. -/
def relocSays (s : State) (d : SReg) (c : Cause) : Verdict := .ok (setD s d (BitVec.ofNat 64 c.code))

/-- RELOC.out: quiesce, send the state, wait for the acknowledgement. -/
def execRelocOut (o : E3) (s : State) : Out :=
  relocForm s o fun s vd pre n =>
    match s.relocs.find? (fun r => r.vd == vd) with
    | none =>
      (match s.vdev? vd with
      | none => relocSays s o.d .illegal
      | some v =>
        if v.movedTo.isSome || pre == s.ownPrefix then relocSays s o.d .illegal
        else .wait { beginQuiesce s vd with relocs := s.relocs ++ [⟨vd, pre, n, false, false, false⟩] })
    | some r =>
      let rest (s : State) : State := { s with relocs := s.relocs.erase r }
      if r.acked then
        if r.failed then relocSays (resumeHere (rest s) vd) o.d .illegal
        else relocSays (dropMoved (rest s) vd r.toPrefix) o.d .none
      else if (healthyPorts s r.toPrefix).isEmpty then relocSays (resumeHere (rest s) vd) o.d .fabricUnknown
      else if r.sent then .wait s
      else if calm s vd then
        match relocDicts s vd ((s.vdev? vd).elim [] (fun v => v.piers)) with
        | .ok s ds =>
          let s := dropArrived s (relocAgent vd)
          .wait ({ s with relocs := s.relocs.map (fun q => if q == r then { r with sent := true } else q) }.emit
            (.system r.toPrefix (.relocState (imageOf s vd r.toVd ds))))
        | .wait s => .wait s
        | .fault s _ => .wait s
      else .wait (parkCopies s vd)

/-- RELOC.in: the state that has arrived is accepted, or refused. -/
def execRelocIn (o : E3) (s : State) : Out :=
  relocForm s o fun s vd pre n =>
    match s.images.find? (fun i => i.toVd == vd && i.fromPrefix == pre && i.fromVd == n) with
    | none => .wait s
    | some img =>
      let s := { s with images := s.images.erase img }
      match s.vdev? vd with
      | none => relocSays (s.emit (.system pre (.relocAck n false []))) o.d .illegal
      | some v =>
        let m : Move := ⟨n, vd, img.piers, v.piers⟩
        let kept := keptParts s vd img
        let t := mapLeaves s vd img
        if imageFits s m img && img.leaves.all (fun l => (leafAt t vd l.1).isSome) then
          relocSays ((acceptImage t m img).emit (.system pre (.relocAck n true kept))) o.d .none
        else relocSays (s.emit (.system pre (.relocAck n false []))) o.d .illegal

/-- Parts of a virtual device that are still at this module. -/
def partsLeft (s : State) (vd : Nat) : Bool :=
  (allLeaves s vd).any (fun l => match leafLoc s vd l.2 l.1 with
    | .here pa => (List.range (leafPages l.2 / 65536)).any (fun i =>
        !s.transfers.any (fun t => t.handed && t.pa ≤ pa + 65536 * i && pa + 65536 * i < t.pa + t.size))
    | _ => false)

/-- RELOC.drain: the target is told to pull what is left; the instruction waits until nothing is. -/
def execRelocDrain (o : E3) (s : State) : Out :=
  relocForm s o fun s vd _ _ =>
    match (s.vdev? vd).bind (fun v => v.movedTo) with
    | none => relocSays s o.d .illegal
    | some dest =>
      if !partsLeft s vd then relocSays s o.d .none
      else if s.me.asked then .wait s
      else .wait ((s.setMe { s.me with asked := true }).emit (.system dest (.relocDrain vd)))

/-- RELOC_PAGE_PULL: the target's pager asks the source for a part of a page, for a frame here and with tables for the split. -/
def execRelocPagePull (vd va frame : Nat) (tables : List Nat) (s : State) : Out :=
  let part := va / 65536 * 65536
  match s.vdev? vd, leafAt s vd va with
  | some v, some (_, x, lvl) =>
    (match leafLoc s vd x part with
    | .there pre pa _ =>
      let busy := s.remote.any (fun r => match r.who with | .page n a _ _ => n == vd && a == part | _ => false)
      if v.movedFrom != some pre || busy || frame % 65536 != 0 || tables.length + lvl < 4 || tables.any (fun t => t % 4096 != 0)
      then .next s
      else (sendRemote s pre .pull pa 65536 [] (BitVec.ofNat 64 frame) (BitVec.ofNat 64 part) (.page vd part frame tables) part none).done
    | _ => .next s)
  | _, _ => .next s

end Sys2Proof.Machine
end

