-- ==== Sys2Proof/Machine/Edges.lean ====
section
/-!
DEFINITION. The edges of the module: the management path (R302, R401 to R403, R408, R409, R412), host memory (R400), Ultra
Ethernet (R399), boot and reset (R154, R184, R187, R208, R407), grant and admission (R24, R186, R237, R257, R263), temperature
(R411), scrubbing (R388 to R390) and frequency (R11, R69).
-/
namespace Sys2Proof.Machine

/-! ### The management endpoint (R402) -/

/-- Is a host enrolled? -/
def enrolled (s : State) (host : Nat) : Bool := s.hosts.contains host

/-- Has any deck's boot succeeded, so that firmware serves the endpoint? -/
def served (s : State) : Bool := (List.range 16).any (fun d => (s.deck d).booted)

/-- The answer to a host. -/
def tell (s : State) (host : Nat) (ok : Bool) (bs : Bytes) : State := s.emit (.hostAnswer host ok bs)

/-- A command of an enrolled host; while no controller has booted, the boot ROM answers it with an error. -/
def command (s : State) (host : Nat) (body : State → State) : Out :=
  if !enrolled s host then .next s
  else if served s then (body s).done
  else (tell s host false []).done

/-- MGMT_UNKNOWN_COMMAND: a code that is none of the seven. -/
def execMgmtUnknownCommand (host code : Nat) (s : State) : Out :=
  if !enrolled s host || (1 ≤ code && code ≤ 7) then .next s else (tell s host false []).done

/-! ### Launch queues (R302, R303) -/

/-- May firmware make this queue? -/
def queueFits (s : State) (q : QueueCfg) : Bool :=
  let inVd : Bool := match s.job? q.jobid with | some j => j.vd == q.vd | none => false
  let sizeOk := 4 ≤ q.logSize && q.logSize ≤ 16
  let homed := sizeOk && (List.range (2 ^ q.logSize)).all (fun i =>
    match sysPa s q.vd (q.ring + 64 * i) with | some pa => homeDeck pa == q.deck | none => false)
  let strong : Bool := match pageOf s q.regPa with | some (vd, _, leaf) => vd == q.vd && bit leaf 9 | none => false
  q.num < 4096 && (s.queue? q.num).isNone && inVd && q.ring % 64 == 0 && homed && q.regPa % 64 == 0 && strong

/-- A queue as it is created: indices zero, enabled. -/
def newQueue (q : QueueCfg) : Queue :=
  { vd := q.vd, jobid := q.jobid, ring := q.ring, logSize := q.logSize, regPa := q.regPa, deck := q.deck, widx := 0, ridx := 0
    error := false, enabled := true, host := q.host, pkt := none, wait := .check, info := noInfo, pending := [], drops := [] }

/-- MGMT_QUEUE_CREATE: command 1. A queue with a packet in a processor's hands is not destroyed. -/
def execMgmtQueueCreate (host : Nat) (cfg : QueueCfg) (create : Bool) (s : State) : Out :=
  command s host fun s =>
    if create then
      if queueFits s cfg then tell (s.setQueue cfg.num (newQueue cfg)) host true [] else tell s host false []
    else
      match s.queue? cfg.num with
      | none => tell s host false []
      | some q =>
        if q.pkt.isSome || q.vd != cfg.vd then tell s host false []
        else jobSettle (tell { s with queues := kdel cfg.num s.queues } host true []) q.jobid

/-- MGMT_PREEMPT: command 2. -/
def execMgmtPreempt (host : Nat) (t : PreTarget) (s : State) : Out :=
  command s host fun s =>
    let q := preRequest s none t
    tell (if q.todo.isEmpty then s else { s with preempts := s.preempts ++ [q] }) host true []

/-! ### Exchange pages (R254, R400, R401) -/

/-- The requests for one page, in arrival order. -/
def pageRequests (s : State) (vd page : Nat) : List (Nat × Nat × Nat × Bool) :=
  s.exchanges.filter (fun e => e.1 == vd && e.2.1 == page)

/-- The owner of a page changes. -/
def setHostPage (s : State) (vd page : Nat) (host : Option Nat) : State :=
  let rest := s.hostPages.filter (fun h => !(h.1 == vd && h.2.1 == page))
  { s with hostPages := match host with | some h => rest ++ [(vd, page, h)] | none => rest }

/-- Set or clear H of a page, with the shoot-down that the change needs. -/
def setH (s : State) (vd page : Nat) (on : Bool) : State :=
  match leafAt s vd page with
  | none => s
  | some (a, x, _) => shootNow (pagerStore s a (setBits x 11 11 (if on then 1 else 0))) vd page (leafPages x / 65536)

/-- Once a request for a page is over, a reclaim that comes next goes to the host. -/
def nextRequest (s : State) (vd page : Nat) : State :=
  match pageRequests s vd page with
  | (_, _, _, false) :: _ => s.emit (.hostReclaim vd page)
  | _ => s

/-- Serve grants at the head of a page's requests, as long as no lease and no relayout pins the page (R280, R401). -/
def serveGrants : Nat → State → Nat → Nat → State
  | 0, s, _, _ => s
  | n + 1, s, vd, page =>
    match pageRequests s vd page, leafAt s vd page with
    | e :: _, some (_, x, _) =>
      if !e.2.2.2 || bit x 12 || convPins s vd page (leafPages x) then s
      else
        let s := setHostPage (setH s vd page true) vd page (some e.2.2.1)
        serveGrants n (nextRequest (tell { s with exchanges := s.exchanges.erase e } e.2.2.1 true []) vd page) vd page
    | _, _ => s

/-- MGMT_EXCHANGE_GRANT: command 3, a host's request to own a page. One that waits for a lease to end is served when the
command is looked at again. -/
def execMgmtExchangeGrant (host vd va : Nat) (s : State) : Out :=
  command s host fun s =>
    match leafAt s vd va with
    | none => tell s host false []
    | some (_, x, _) =>
      let page := va / leafPages x * leafPages x
      let own : Bool := match leafLoc s vd x page with | .here _ => true | _ => false
      if !own then tell s host false []
      else
        let e : Nat × Nat × Nat × Bool := (vd, page, host, true)
        let s := if s.exchanges.contains e then s else { s with exchanges := s.exchanges ++ [e] }
        serveGrants s.exchanges.length s vd page

/-- Accesses that wait for a page go on (R401). -/
def retryPage (s : State) (vd page size : Nat) : State :=
  let hit (a : Nat) : Bool := page ≤ a && a < page + size
  let s : State := (liveRecords s vd).foldl (fun s r =>
    let f := frameNat (readFrame s vd (recWord s vd r 1)) (0x1400 + 8 * 14) 8
    if waitsPager s vd r && hit f && !framePending s vd r then readyWith s vd r 0 else s) s
  let s : State := { s with ctxs := s.ctxs.map (fun c =>
    (c.1, match c.2.stop with
      | some st => if c.2.pageWait && c.2.vd == vd && hit st.faddr.toNat then { c.2 with pageWait := false, stop := none } else c.2
      | none => c.2)) }
  mapJobs s (fun _ j =>
    if j.who.vd == vd && j.status == .faulted && j.cause == .page && hit j.faddr.toNat then
      if j.eng == Engine.copy then { j with released := true } else { j with status := .running, cause := .none, faddr := 0 }
    else j)

/-- EXCHANGE_RECLAIM_ACK: command 3, the host gives the page back: H is cleared and the access retries. A page of which no reclaim
by this host waits for its answer ends the command with an error (log 80). -/
def execExchangeReclaimAck (host vd va : Nat) (s : State) : Out :=
  command s host fun s =>
    match leafAt s vd va with
    | none => tell s host false []
    | some (_, x, _) =>
      let page := va / leafPages x * leafPages x
      match pageRequests s vd page with
      | e :: _ =>
        if e.2.2.2 || !(e.2.2.1 == host || e.2.2.1 == 0) then tell s host false []
        else
          let s := setHostPage (setH { s with exchanges := s.exchanges.erase e } vd page false) vd page none
          let s := nextRequest (tell (retryPage s vd page (leafPages x)) host true []) vd page
          serveGrants s.exchanges.length s vd page
      | [] => tell s host false []

/-- Does a page hold the ring or register block of a queue that is assigned to a host? -/
def queuePage (s : State) (host vd va size : Nat) : Bool :=
  s.queues.any (fun q => q.2.vd == vd && q.2.host == some host
    && ((q.2.ring < va + size && va < q.2.ring + 64 * 2 ^ q.2.logSize)
        || (match sysPa s vd va with | some pa => pa ≤ q.2.regPa && q.2.regPa < pa + size | none => false)))

/-- The place of a byte that a host may reach: a global virtual address (R151, R400). -/
def hostPlace (s : State) (host vd va : Nat) : Option Placed :=
  match (if 2 ^ 40 ≤ va then leafAt s vd va else none) with
  | none => none
  | some (_, x, _) =>
    let n := leafPages x
    let page := va / n * n
    let other := s.hostPages.any (fun h => h.1 == vd && h.2.1 == page && h.2.2 != host)
    if (bit x 11 && !other) || (bit x 9 && queuePage s host vd page n) then
      match leafLoc s vd x va with
      | .here pa => if pa % 2 ^ 40 < Config.stackBytes then some ⟨.here pa, bit x 9, bit x 10, 0, va⟩ else none
      | _ => none
    else none

def hostPlaces (s : State) (host vd va n : Nat) : Option (List Placed) :=
  let ps := (span va n).filterMap (hostPlace s host vd)
  if ps.length == n then some ps else none

/-- A host's write of a ROD flow comes in its turn: `some` state, in which the next one may come (R400). -/
def rodTurn (s : State) (host : Nat) : Option (Nat × Nat) → Option State
  | none => some s
  | some (flow, n) =>
    let k := host * 65536 + flow % 65536
    if kget 0 s.rodFlows k == n then some { s with rodFlows := kput k (n + 1) s.rodFlows } else none

/-- HOST_MEMORY_WRITE: translated and performed, or refused with an error. One of a ROD flow, given by flow and number, waits for those
before it; one of an RUD flow does not. One whose tile's header is not at hand waits (R255). -/
def execHostMemoryWrite (host vd va : Nat) (data : HostWrite) (s : State) : Out :=
  match rodTurn s host data.rod with
  | none => .next s
  | some u =>
    match hostPlaces s host vd va data.bytes.length with
    | none => (tell u host false []).done
    | some ps =>
      let dest := noticeTo s vd
      match trackFetch s sysAgent dest.2 vd ps with
      | (s, true) => s.done
      | (_, false) =>
        match tallyBytes u sysAgent vd .whole (ps.zip data.bytes) with
        | .error _ => .next s
        | .ok bs =>
          let s := performWrite (dropArrived u sysAgent) vd dest.1 dest.2 (ps.map (fun p => p.va)) (.operand sysAgent)
            (bs.map (fun b => (b.loc, b.b))) (bs.filterMap (fun b => b.hdr))
          (tell s host true []).done

/-- HOST_MEMORY_READ; poisoned bytes end it with an error, and one of a locked tile waits (R278). -/
def execHostMemoryRead (host vd va n : Nat) (s : State) : Out :=
  match hostPlaces s host vd va n with
  | none => (tell s host false []).done
  | some ps =>
    if ps.any (fun p => poisonedAt s p.loc) then (tell s host false []).done
    else if ps.any (fun p => heldAt s p.loc) then .next s
    else (tell s host true (ps.map (fun p => readHere s p.loc))).done

/-- UET_UNSUPPORTED_PACKET: dropped and counted (R399, R412). -/
def execUetUnsupportedPacket (deck : Nat) (s : State) : Out :=
  if 16 ≤ deck then .next s
  else
    let d := s.deck deck
    (s.setDeck deck { d with discards := d.discards + 1 }).done

/-! ### Storage (R403) -/

/-- The first byte of a range that a transfer may not touch: host-owned, read-duplicate, or outside the virtual device's global
memory. -/
def storageBad (s : State) (t : Storage) : Option Nat :=
  let first := t.base / 65536
  let n := if t.bytes == 0 then 0 else (t.base + t.bytes - 1) / 65536 + 1 - first
  ((List.range n).map (fun i => max t.base ((first + i) * 65536))).find? (fun a =>
    match (if 2 ^ 40 ≤ a then leafAt s t.vd a else none) with
    | none => true
    | some (_, x, _) => bit x 11 || bit x 8)

/-- The pages of a transfer. -/
def storageRange (t : Storage) : LeaseRange := ⟨t.base / 65536 * 65536, (t.base % 65536 + t.bytes + 65535) / 65536, true⟩

/-- The ring at this module whose descriptor is well formed (R323): slot base, count, claim index, consumer index. -/
def ringOf (s : State) (vd ring : Nat) : Option (Nat × Nat × Nat × Nat) :=
  match sysPa s vd ring with
  | none => none
  | some pa =>
    let d := memRead s.mem pa 32
    if ring % 32 != 0 then none else (ringDesc? d).map (fun r => (r.1, r.2, leAt d 16 8, leAt d 24 8))

/-- Is a transfer's ring none: not aligned, not mapped, or with a malformed descriptor at this module? -/
def ringBad (s : State) (vd ring : Nat) : Bool :=
  match sysLoc s vd ring with
  | some (.there _ _ _) => ring % 32 != 0
  | _ => (ringOf s vd ring).isNone

/-- The agent of a transfer's own accesses, and the least number that no transfer has. -/
def storageAgent (tag : Nat) : Nat := 2 ^ 42 + tag
def storageTag (s : State) : Nat :=
  ((List.range (s.storage.length + 1)).find? (fun n => !s.storage.any (fun t => t.tag == n))).getD 0

/-- Who acts for the initiator. -/
def storageWho (s : State) (vd : Nat) : Who := sysWho vd (vdCore s vd)

/-- A transfer begins: its range is pinned, and its NVMe command leaves. -/
def storageBegin (s : State) (host : Nat) (t : Storage) (data : Bytes) : State :=
  let s := pinRange { s with storage := s.storage ++ [t] } t.vd (storageRange t)
  tell (s.emit (.nvme t.nvme t.write t.bytes data)) host true []

/-- MGMT_STORAGE_TRANSFER: command 4. The range is pinned, once no page of it is on its way to another module (R256), and the NVMe
command leaves: a Write with the bytes of the range. A range that may not move gets its record with ERROR. A command that waits is
looked at again. -/
def execMgmtStorageTransfer (host : Nat) (cfg : Storage) (s : State) : Out :=
  command s host fun s =>
    let t : Storage := { cfg with refused := none, tag := storageTag s, slot := none, ended := none }
    let refuse (s : State) (c : Cause) (a : Nat) : State :=
      tell { s with storage := s.storage ++ [{ t with refused := some (c, a) }] } host false []
    if ringBad s cfg.vd cfg.ring then tell s host false []
    else
      match storageBad s cfg with
      | some a => refuse s .address a
      | none =>
        if !resident s cfg.vd (storageRange cfg) then s
        else if !cfg.write || cfg.bytes == 0 then storageBegin s host t []
        else
          let ag := storageAgent t.tag
          match engReadAt s ag (storageWho s cfg.vd) cfg.base cfg.bytes with
          | .ok s bs => storageBegin (dropArrived s ag) host t bs
          | .wait s => s
          | .fault s f => if f.cause == .page then askReclaim s cfg.vd f.faddr else refuse s f.cause f.faddr

/-- The 32 bytes of a transfer's record: job id zero. The pier and the tag of such a record are not stated: free values. -/
def storageRecord (s : State) (st : JStat) (cause bytes faddr : Nat) : Bytes :=
  leBytes 8 (2 ^ 63 + st.code * 2 ^ 48 + s.freeWord.toNat % 2 ^ 14 * 2 ^ 32 + cause * 2 ^ 16)
    ++ leBytes 8 bytes ++ leBytes 8 faddr ++ leBytes 8 (Config.openWord (s.free + 1)).toNat

/-- The sectors of 256 bytes that n bytes at an address touch: the first byte and the byte behind the last, in each. -/
def sectorsOf (va n : Nat) : List (Nat × Nat) :=
  (List.range ((va % 256 + n + 255) / 256)).map (fun i =>
    (max va (va / 256 * 256 + 256 * i), min (va + n) (va / 256 * 256 + 256 * (i + 1))))

/-- Bytes that the initiator places: writes from the fabric, one for each sector (R159); a page at another module has them as
requests to it. -/
def placeData (s : State) (ag vd va : Nat) (bs : Bytes) : State :=
  (sectorsOf va bs.length).foldl (fun s x =>
    let data := (bs.drop (x.1 - va)).take (x.2 - x.1)
    match sysLoc s vd x.1 with
    | some (.here pa) => writeFor s (homeOf s pa) pa data false
    | some l => performWrite s vd 0 (pierOfCore (vdCore s vd)) (span x.1 data.length) (.engine ag)
        ((List.range data.length).map (fun i => (match l with | .there t pa ca => .there t (pa + i) ca | l => l, data.getD i 0))) []
    | none => s) s

/-- The first sector whose tile's header cannot be reached yet. -/
def placeLost (s : State) (vd va n : Nat) : Option (Home × Nat) :=
  (sectorsOf va n).findSome? (fun x => match sysPa s vd x.1 with
    | some pa => if (homeOf s pa).lost then some (homeOf s pa, pa) else none
    | none => none)

/-- A transfer takes a slot of its ring (R323): it waits while the ring is full; a ring that cannot be used ends it without a
record. -/
inductive StorageSlot where
  | ok (s : State) (slot : Nat)
  | wait (s : State)
  | lost (s : State)

def storageSlot (s : State) (t : Storage) : StorageSlot :=
  let ag := storageAgent t.tag
  let w := storageWho s t.vd
  let failed (s : State) (f : AFault) : StorageSlot :=
    if f.cause == .page then .wait (askReclaim s t.vd f.faddr) else .lost s
  match t.slot with
  | some a => .ok s a
  | none =>
    match engReadAt s ag w t.ring 32 with
    | .fault s f => failed s f
    | .wait s => .wait s
    | .ok s d =>
      match ringDesc? d with
      | none => .lost s
      | some (base, n) =>
        let claim := leAt d 16 8
        if (claim + 2 ^ 64 - leAt d 24 8) % 2 ^ 64 ≥ n then .wait (dropArrived s ag)
        else
          match ringClaim s ag 0 w t.ring claim with
          | .fault s f => failed s f
          | .wait s => .wait s
          | .ok s false => .wait (dropArrived s ag)
          | .ok s true => .ok (dropArrived s ag) ((base + 32 * (claim % n)) % 2 ^ 64)

/-- The i-th transfer is over. -/
def storageOver (s : State) (i : Nat) (t : Storage) : State :=
  let s : State := { s with storage := s.storage.eraseIdx i }
  dropArrived (if t.refused.isSome then s else unpinRange s t.vd (storageRange t)) (storageAgent t.tag)

/-- The record of a transfer that has ended. The cause of one that fails at the controller is not stated: a free value. -/
def storageResult (s : State) (t : Storage) : Bytes :=
  match t.refused, t.ended with
  | some (c, a), _ => storageRecord s .error c.code 0 a
  | none, some (true, n) => storageRecord s .done 0 n 0
  | none, some (false, n) => storageRecord s .error ((Config.openWord (s.free + 2)).toNat % 65536) n 0
  | none, none => []

/-- STORAGE_TRANSFER_DONE: the controller has ended the i-th transfer, with the data of a Read. It takes a slot of its ring, places the
data, and once that is performed it writes its record. What waits goes on when it comes again. -/
def execStorageTransferDone (i : Nat) (ok : Bool) (data : Bytes) (s : State) : Out :=
  match s.storage[i]? with
  | none => .next s
  | some t =>
    match storageSlot s t with
    | .wait s => s.done
    | .lost s => (storageOver s i t).done
    | .ok s slot =>
      let ag := storageAgent t.tag
      let keep (s : State) (t : Storage) : State := { s with storage := s.storage.set i t }
      let t := { t with slot := some slot }
      let bs := data.take t.bytes
      let n := if t.write then (if ok then t.bytes else 0) else bs.length
      let place := !t.write && t.refused.isNone && t.ended.isNone
      match (if place then placeLost s t.vd t.base bs.length else none) with
      | some h => homeWait (keep s t) h.1 h.2
      | none =>
        let s := if place then placeData s ag t.vd t.base bs else s
        let t := { t with ended := some (t.ended.getD (ok, n)) }
        if agentBusy s ag then (keep s t).done
        else
          match engWriteAt s ag 0 (storageWho s t.vd) slot (storageResult s t) with
          | .wait s => (keep s t).done
          | .fault s f =>
            if f.cause == .page then (keep (askReclaim s t.vd f.faddr) t).done else (storageOver s i t).done
          | .ok s _ => (storageOver { s with free := s.free + 3 } i t).done

/-! ### Telemetry and attestation (R408, R412) -/

/-- A deck's block, seven words. -/
def telemetryBlock (d : Deck) : Bytes :=
  leBytes 8 d.junction.toNat ++ leBytes 8 d.power.toNat ++ leBytes 8 d.cacheCorr.toNat ++ leBytes 8 d.hbmCorr.toNat
    ++ leBytes 8 d.uncorr.toNat ++ leBytes 8 ((if d.stopped then 256 else 0) + d.throttle.toNat) ++ leBytes 8 d.discards.toNat

/-- The module's block, four words. -/
def moduleBlock (s : State) : Bytes :=
  leBytes 8 s.inlet.toNat ++ leBytes 8 s.outlet.toNat ++ leBytes 8 s.flow.toNat ++ leBytes 8 s.inPower.toNat

/-- MGMT_READ_TELEMETRY: command 5, answered also by a controller that has not booted: the deck's block, then the module's. -/
def execMgmtReadTelemetry (host deck : Nat) (s : State) : Out :=
  if !enrolled s host then .next s
  else if 16 ≤ deck then (tell s host false []).done
  else (tell s host true (telemetryBlock (s.deck deck) ++ moduleBlock s)).done

/-- MGMT_ATTESTATION: command 6, with a nonce of 64 bytes. -/
def execMgmtAttestation (host : Nat) (nonce : Bytes) (s : State) : Out :=
  command s host fun s =>
    if nonce.length != 64 then tell s host false []
    else
      let meas := (List.range 16).flatMap (fun d => (s.boot d).meas.flatten)
      let config := (s.tenantCfg.map (fun c => sha512 c.2)).flatten
      s.emit (.report nonce s.serial meas config (Config.pssSign (nonce ++ s.serial ++ meas ++ config)))

/-! ### Boot (R407, R409) -/

/-- What an image's signature covers. -/
def signedBytes (i : Image) : Bytes := i.body ++ i.next ++ leBytes 8 i.secver

/-- The check of an image by the stage before it, which holds a key hash. -/
def imageOk (s : State) (hash : Bytes) (i : Image) : Bool :=
  sha512 i.key == hash && Config.pssVerify i.key (signedBytes i) i.sig && s.fuseVer ≤ i.secver

/-- The image that a stage boots: its active slot, else the other one; with the digests measured on the way, each over the bytes of the
image's body (DESIGN CHOICE, log 95: R407 does not say which bytes of an image are measured). -/
def bootStage (s : State) (hash : Bytes) (slots : List Image) (active : Nat) : Option Image × List Bytes :=
  let tryOne (i : Nat) : Option Image := (slots[i]?).filter (imageOk s hash)
  let digest (i : Nat) : List Bytes := match slots[i]? with | some x => [sha512 x.body] | none => []
  match tryOne active with
  | some x => (some x, digest active)
  | none => (tryOne (1 - active), digest active ++ digest (1 - active))

/-- The slot that a stage runs from then on: the one whose image it booted (R409). -/
def bootSlot (s : State) (hash : Bytes) (slots : List Image) (active : Nat) : Nat :=
  let good (i : Nat) : Bool := ((slots[i]?).filter (imageOk s hash)).isSome
  if good active || !good (1 - active) then active else 1 - active

/-- The loader that a deck's controller verifies. -/
def loaderOf (s : State) (d : Nat) : Option Image := (bootStage s s.fuseKey (s.boot d).slots1 (s.boot d).active1).1

/-- One controller boots through its stages. -/
def bootDeck (s : State) (d : Nat) : State :=
  let b := s.boot d
  let one := bootStage s s.fuseKey b.slots1 b.active1
  let two := match one.1 with | some x => bootStage s x.next b.slots2 b.active2 | none => (none, [])
  let two' := match one.1 with | some x => bootSlot s x.next b.slots2 b.active2 | none => b.active2
  let s := s.setBoot d { b with meas := [Config.romDigest d] ++ one.2 ++ two.2
                                active1 := bootSlot s s.fuseKey b.slots1 b.active1, active2 := two'
                                bootedImages := (b.bootedImages ++ one.1.toList ++ two.1.toList).eraseDups }
  s.setDeck d { s.deck d with booted := b.romOk && two.1.isSome }

/-- MODULE_RESET: every item takes its reset value but the flash, the fuses and this module's place in the fabric, and each
controller boots. -/
def execModuleReset (s : State) : Out :=
  let r : State := { State.reset with
    boots := s.boots, fuseVer := s.fuseVer, fuseKey := s.fuseKey, serial := s.serial, hosts := s.hosts
    ownPrefix := s.ownPrefix, out := s.out, nextUid := s.nextUid, cur := s.cur, agenda := s.agenda, free := s.free }
  ((List.range 16).foldl bootDeck r).done

/-- Write a verified image to the slot that is not active; it is the active one from then on. -/
def flashImage (s : State) (d stage : Nat) (img : Image) : State :=
  let b := s.boot d
  let write (slots : List Image) (active : Nat) : List Image × Nat :=
    match slots with
    | [] => ([img], 0)
    | [x] => ([x, img], 1)
    | x :: y :: _ => if active == 0 then ([x, img], 1) else ([img, y], 0)
  if stage == 1 then let w := write b.slots1 b.active1; s.setBoot d { b with slots1 := w.1, active1 := w.2 }
  else let w := write b.slots2 b.active2; s.setBoot d { b with slots2 := w.1, active2 := w.2 }

/-- Does a deck's controller accept an image for a stage? -/
def acceptsImage (s : State) (d stage : Nat) (img : Image) : Bool :=
  if stage == 1 then imageOk s s.fuseKey img
  else match loaderOf s d with | some x => imageOk s x.next img | none => false

/-- MGMT_LOAD_FIRMWARE: command 7, for a deck or, with 16, for all; `raise` asks for the fused minimum to rise to the image's
version, which an image that has booted on every deck must have. -/
def execMgmtLoadFirmware (host deck stage : Nat) (img : Image) (raise : Bool) (s : State) : Out :=
  if !enrolled s host then .next s
  else
    let ds := if deck == 16 then List.range 16 else [deck]
    let can := ds.filter (fun d => acceptsImage s d stage img)
    let old := (s.boot 0).bootedImages.any (fun x => x.secver == img.secver
      && (List.range 16).all (fun d => (s.boot d).bootedImages.contains x))
    if deck > 16 || !(stage == 1 || stage == 2) || (raise && !old) then (tell s host false []).done
    else
      let t : State := can.foldl (fun s d => flashImage s d stage img) s
      let t := if raise && !can.isEmpty then { t with fuseVer := max t.fuseVer img.secver } else t
      (tell t host (can.length == ds.length) []).done

/-! ### Reset and grant of piers (R96, R154, R184, R186, R187, R208, R257) -/

/-- Poisoned accumulator rows of a pier are rewritten. -/
def clearTiles (s : State) (p : Nat) : State :=
  { s with acc := memClear s.acc (p * 2 ^ 17) (p * 2 ^ 17 + 2 ^ 17)
           poison := s.poison.filter (fun u => match u with | .acc q _ => q != p | _ => true) }

/-- PIER_RESET: full granules, watermarks 32, TRSPLIT 0, EMPTY dictionaries, no job, message or unit; the pier is granted to nobody. The
bank's bytes and its slots stay as they are (R193). -/
def execPierReset (p : Nat) (s : State) : Out :=
  let mine (c : Nat) : Bool := pierOfCore c == p
  let kept := (s.pier p).slots
  let s := { s with piers := kdel p s.piers, cores := s.cores.filter (fun k => !mine k.1)
                    ctxs := s.ctxs.filter (fun c => pierOfCtx c.1 != p)
                    granEmpty := s.granEmpty.filter (fun g => !mine (g / 8192))
                    vdevs := s.vdevs.map (fun (v : Nat × VDev) => (v.1, { v.2 with piers := v.2.piers.filter (fun q => q != p) })) }
  (if kept.isEmpty then s else s.setPier p { s.pier p with slots := kept }).done

/-- Strictly rising. -/
def rising : List Nat → Bool
  | a :: b :: r => a < b && rising (b :: r)
  | _ => true

/-- A pier as a grant leaves it: tiles zero with watermark 32, slots FREE, TRSPLIT 0, dictionaries EMPTY, no image, counters zero,
no cached translation; no receive, message, parked job, record or FIFO entry (R301). -/
def grantPier (s : State) (p vd : Nat) (tenant : Nat) (stks : List Nat) : State :=
  let x := s.pier p
  let s := s.setPier p { x with owner := some vd, trsplit := 0, split := 0, splitWait := [], slots := [], marks := []
                                dslots := [], tracked := [], images := [], tlb := [], events := [], jobs := [], recvs := []
                                recvStates := [], overflow := [], deliveries := [], held := [], fullRaised := false
                                annHeld := [], fifos := [], deque := [], dqWait := [], entries := [] }
  let s := clearTiles s p
  let s : State := (List.range 8).foldl (fun s k => s.setCore (p * 8 + k) { s.core (p * 8 + k) with utlb := [] }) s
  let d := deckOfPier p
  let s := s.setDeck d { s.deck d with walks := [] }
  (List.range 32).foldl (fun s i =>
    let c := p * 32 + i
    s.setCtx c { s.ctx c with vd := vd, tenant := BitVec.ofNat 16 tenant, stkbase := BitVec.ofNat 64 (stks.getD i 0) }) s

/-- FIRMWARE_GRANT: piers of booted decks that nobody holds go to a new virtual device; each context takes a stack area. -/
def execFirmwareGrant (cfg : GrantCfg) (s : State) : Out :=
  let free (p : Nat) : Bool :=
    p < 12800 && (s.pier p).owner.isNone && !s.unpowered p && (s.deck (deckOfPier p)).booted
      && (List.range 32).all (fun i => !(s.ctx (p * 32 + i)).busy)
  let need := 32 * cfg.piers.length
  if (s.vdev? cfg.vd).isSome || cfg.piers.isEmpty || !rising cfg.piers || !cfg.piers.all free || cfg.stackPool.length < need
      || cfg.migThresh > 65535 || cfg.root % 4096 != 0 then .next s
  else
    let v : VDev :=
      { piers := cfg.piers, root := cfg.root, peerTab := cfg.peerTab, tracking := cfg.tracking
        migThresh := if cfg.migThresh == 0 then 256 else cfg.migThresh
        tenant := cfg.tenant, recPool := cfg.recPool, framePool := cfg.framePool, stackPool := cfg.stackPool.drop need
        reuseBase := cfg.reuseBase, reuseQuota := cfg.reuseQuota
        reuseFree := (List.range cfg.reuseQuota).map (fun i => cfg.reuseBase + 8192 * i), reserving := none, coresQ := []
        quiesced := false, movedTo := none, movedFrom := none, recFixes := [], tablePool := cfg.tablePool, jobs := [] }
    let s := s.setVdev cfg.vd v
    ((cfg.piers.zip (List.range cfg.piers.length)).foldl (fun s x =>
      grantPier s x.1 cfg.vd cfg.tenant ((cfg.stackPool.drop (32 * x.2)).take 32)) s).done

/-! ### Admission of a job (R22, R24, R32, R96, R263, R290, R340) -/

/-- The entry-point table of a job and every message unit's copy of it become invalid (R290, R291). -/
def clearEntries (s : State) (vd job tab : Nat) : State :=
  let s : State := { s with piers := s.piers.map (fun p => (p.1, { p.2 with
    entries := p.2.entries.filter (fun e => e.1 / 256 != job) })) }
  if tab == 0 then s
  else (List.range 256).foldl (fun s i => sysWrite s vd (tab + 8 * i) (leBytes 8 0)) s

/-- JOB_ADMISSION: refused below a frame quota of 64; else the job has its level counter, whose id is its own, and STEALR is 4 on
every pier. -/
def execJobAdmission (cfg : JobCfg) (s : State) : Out :=
  match s.vdev? cfg.vd with
  | none => .next s
  | some v =>
    if cfg.fentry % 4 != 0 || cfg.fentry / 2 ^ 48 != 0 || cfg.deck > 15 || v.quiesced then .next s
    else if cfg.frameQuota < 64 then (s.emit (.mgmt false [])).done
    else
      match freeCounterId s cfg.deck with
      | none => (s.emit (.mgmt false [])).done
      | some id =>
        let s := s.setVdev cfg.vd { v with jobs := v.jobs ++ [id] }
        let s := { s with launches := kdel id s.launches }
        let s := s.setJob id { vd := cfg.vd, tenant := v.tenant, fentry := cfg.fentry, handlers := cfg.handlers
                               entryTab := cfg.entryTab, counterQuota := cfg.counterQuota, frameQuota := cfg.frameQuota
                               cancelled := false, cause := .none }
        let s := setCounter s id ⟨id, 0, 0, .level, false, 0, [], false⟩
        let s : State := v.piers.foldl (fun s p => s.setPier p { s.pier p with stealr := 4 }) s
        let s := clearEntries s cfg.vd id cfg.entryTab
        (s.emit (.mgmt true [BitVec.ofNat 64 id])).done

/-! ### Temperature (R411) -/

/-- The piers of a deck (R9). -/
def piersOfDeck (d : Nat) : List Nat :=
  (List.range 32).flatMap (fun j => (List.range 25).map (fun i => pierAt (d % 8 * 25 + i) (d / 8 * 32 + j)))

/-- THERMAL_THROTTLE: the sensors' reading; above 95 °C every pier of the deck goes 0.10 GHz lower, to 0.60 GHz at the least. -/
def execThermalThrottle (deck : Nat) (temp : BitVec 16) (s : State) : Out :=
  if 16 ≤ deck then .next s
  else
    let s := s.setDeck deck { s.deck deck with junction := temp }
    let ps := (piersOfDeck deck).filter (fun p => (s.pier p).freq > 600)
    if temp.toInt ≤ 760 || ps.isEmpty then s.done
    else
      let d := s.deck deck
      let s := s.setDeck deck { d with throttle := if d.throttle == 255 then 255 else d.throttle + 1 }
      (ps.foldl (fun s p => s.setPier p { s.pier p with freq := max 600 ((s.pier p).freq - 100) }) s).done

/-- THERMAL_STOP: at 105 °C every unit of the module is pre-empted; once none is left on a context, the decks power down, and with
them their piers; what a translation cache held is gone (R259). -/
def execThermalStop (deck : Nat) (temp : BitVec 16) (s : State) : Out :=
  if 16 ≤ deck then .next s
  else
    let s := s.setDeck deck { s.deck deck with junction := temp }
    if temp.toInt < 840 then s.done
    else
      let busy := s.ctxs.any (fun c => c.2.busy && c.2.role != .firmware)
      if busy then
        let new := (s.vdevs.map (fun v => preRequest s none (.vd v.1))).filter (fun q => !s.preempts.contains q)
        { s with preempts := s.preempts ++ new }.done
      else
        let s : State := (List.range 16).foldl (fun s d => s.setDeck d { s.deck d with stopped := true, walks := [] }) s
        { s with piers := s.piers.map (fun (p : Nat × Pier) => (p.1, { p.2 with poweredDown := true, tlb := [] }))
                 cores := s.cores.map (fun (k : Nat × Core) => (k.1, { k.2 with utlb := [] })) }.done

/-! ### Scrubbing (R388 to R390) -/

/-- A corrected error is counted. -/
def countCorrected (s : State) (u : ScrubUnit) : State :=
  let deckDo (d : Nat) (f : Deck → Deck) : State := s.setDeck d (f (s.deck d))
  match u with
  | .spad c _ => s.countEvent (pierOfCore c) 15 1
  | .truss p _ => s.countEvent p 15 1
  | .acc p _ => s.countEvent p 15 1
  | .norm p _ => s.countEvent p 15 1
  | .image p _ => s.countEvent p 15 1
  | .hbm pa => deckDo (homeDeck pa) (fun d => { d with hbmCorr := d.hbmCorr + 1 })
  | .cacheTag d _ => deckDo d (fun x => { x with cacheCorr := x.cacheCorr + 1 })
  | .cacheData pa => deckDo (homeDeck pa) (fun x => { x with cacheCorr := x.cacheCorr + 1 })

/-- Where a unit lies: deck, owner, pier, and FADDR of its MEMERR (R390). -/
def unitPlace (s : State) (u : ScrubUnit) : Nat × Option Nat × Nat × Nat :=
  let onPier (p f : Nat) : Nat × Option Nat × Nat × Nat := (deckOfPier p, (s.pier p).owner, p, f)
  let inMemory (pa : Nat) : Nat × Option Nat × Nat × Nat :=
    match pageOf s pa with
    | some (vd, base, leaf) => (homeDeck pa, some vd, (noticeTo s vd).2, base + pa % leafPages leaf)
    | none => (homeDeck pa, none, 0, 0)
  match u with
  | .spad c o => onPier (pierOfCore c) (1048576 + c % 8 * 131072 + o)
  | .truss p u => onPier p (locWord 1 (u / 8) p)
  | .acc p u => onPier p (locWord 2 (u / 16) p)
  | .norm p u => onPier p (locWord 3 (2 * u) p)
  | .image p u => onPier p (locWord 4 (u / 2) p)
  | .hbm pa => inMemory pa
  | .cacheData pa => inMemory pa
  | .cacheTag d i => (d, none, 0, 0xFF * 2 ^ 56 + 5 * 2 ^ 52 + i * 2 ^ 32 + d * 2 ^ 8)

/-- Is this a protection unit: aligned, and inside its memory? -/
def unitExists : ScrubUnit → Bool
  | .spad c o => c < 102400 && o % 8 == 0 && o < 98304
  | .hbm pa => pa % 32 == 0 && pa < 2 ^ 44 && pa % 2 ^ 40 < Config.stackBytes
  | .truss p u => p < 12800 && u < 32768
  | .acc p u => p < 12800 && u < 16384
  | .norm p u => p < 12800 && u < 4096
  | .image p u => p < 12800 && u < 512
  | .cacheTag d i => d < 16 && i < 2 ^ 19
  | .cacheData pa => pa % 8 == 0 && pa < 2 ^ 44 && pa % 2 ^ 40 < Config.stackBytes

/-- The unit that an uncorrectable error poisons: its own; dirty bytes of the home cache poison their bytes in HBM (R389). -/
def poisonsUnit (dirty : Bool) (u : ScrubUnit) : ScrubUnit :=
  match u with
  | .cacheData pa => if dirty then .hbm (pa / 32 * 32) else u
  | _ => u

/-- SCRUB_PASS: a unit is read; a corrected error is counted, an uncorrectable one poisons the unit, counts and raises a notice. -/
def execScrubPass (u : ScrubUnit) (r : ScrubFind) (s : State) : Out :=
  if !unitExists u then .next s
  else
    match r with
    | .clean => .next s
    | .corrected => if s.poison.contains u then .next s else (countCorrected s u).done
    | _ =>
      let w := unitPlace s u
      let v := poisonsUnit (r == .dirty) u
      let s := if s.poison.contains v then s else { s with poison := s.poison ++ [v] }
      let s := countUncorr s w.1
      (match w.2.1 with
      | some vd => memerrNotice s vd (noticeTo s vd).1 w.2.2.1 (BitVec.ofNat 64 w.2.2.2)
      | none => s).done

/-! ### Frequency (R11, R69) -/

/-- PIER_FREQUENCY_SET: in MHz, from 600 to 1,900. -/
def execPierFrequencySet (p freq : Nat) (s : State) : Out :=
  if 12800 ≤ p || freq < 600 || 1900 < freq then .next s else (s.setPier p { s.pier p with freq := freq }).done

/-- OVER_SCALED_MODE_ENABLE. -/
def execOverScaledModeEnable (p : Nat) (s : State) : Out :=
  if 12800 ≤ p then .next s else (s.setPier p { s.pier p with overScaled := true }).done

end Sys2Proof.Machine
end

