-- ==== Sys2Proof/Machine/Dispatch.lean ====
section
/-!
DEFINITION. One arm per constructor of Instr: a direct call of its meaning.
-/
namespace Sys2Proof.Machine

def exec (i : Instr) (s : State) : Host.Outcome State Fault Refusal :=
  match i with
  | .illegal x => Sys2Proof.Machine.execIllegal x s
  | .nop => Sys2Proof.Machine.execNop s
  | .add o => Sys2Proof.Machine.execAdd o s
  | .sub o => Sys2Proof.Machine.execSub o s
  | .mul o => Sys2Proof.Machine.execMul o s
  | .mulh o => Sys2Proof.Machine.execMulh o s
  | .mulhn o => Sys2Proof.Machine.execMulhn o s
  | .div o => Sys2Proof.Machine.execDiv o s
  | .divn o => Sys2Proof.Machine.execDivn o s
  | .rem o => Sys2Proof.Machine.execRem o s
  | .remn o => Sys2Proof.Machine.execRemn o s
  | .and o => Sys2Proof.Machine.execAnd o s
  | .or o => Sys2Proof.Machine.execOr o s
  | .xor o => Sys2Proof.Machine.execXor o s
  | .shl o => Sys2Proof.Machine.execShl o s
  | .shr o => Sys2Proof.Machine.execShr o s
  | .sar o => Sys2Proof.Machine.execSar o s
  | .rot o => Sys2Proof.Machine.execRot o s
  | .min o => Sys2Proof.Machine.execMin o s
  | .max o => Sys2Proof.Machine.execMax o s
  | .minn o => Sys2Proof.Machine.execMinn o s
  | .maxn o => Sys2Proof.Machine.execMaxn o s
  | .clz o => Sys2Proof.Machine.execClz o s
  | .popc o => Sys2Proof.Machine.execPopc o s
  | .bfx o => Sys2Proof.Machine.execBfx o s
  | .bfi o => Sys2Proof.Machine.execBfi o s
  | .sel o => Sys2Proof.Machine.execSel o s
  | .lea o => Sys2Proof.Machine.execLea o s
  | .mov o => Sys2Proof.Machine.execMov o s
  | .addi o => Sys2Proof.Machine.execAddi o s
  | .andi o => Sys2Proof.Machine.execAndi o s
  | .ori o => Sys2Proof.Machine.execOri o s
  | .xori o => Sys2Proof.Machine.execXori o s
  | .shli o => Sys2Proof.Machine.execShli o s
  | .shri o => Sys2Proof.Machine.execShri o s
  | .sari o => Sys2Proof.Machine.execSari o s
  | .movi o => Sys2Proof.Machine.execMovi o s
  | .muli o => Sys2Proof.Machine.execMuli o s
  | .cmp o => Sys2Proof.Machine.execCmp o s
  | .cmpn o => Sys2Proof.Machine.execCmpn o s
  | .cmpi o => Sys2Proof.Machine.execCmpi o s
  | .cmpni o => Sys2Proof.Machine.execCmpni o s
  | .kand o => Sys2Proof.Machine.execKand o s
  | .kor o => Sys2Proof.Machine.execKor o s
  | .kxor o => Sys2Proof.Machine.execKxor o s
  | .knot o => Sys2Proof.Machine.execKnot o s
  | .kmov o => Sys2Proof.Machine.execKmov o s
  | .kget o => Sys2Proof.Machine.execKget o s
  | .kclr o => Sys2Proof.Machine.execKclr o s
  | .fadd o => Sys2Proof.Machine.execFadd o s
  | .fsub o => Sys2Proof.Machine.execFsub o s
  | .fmul o => Sys2Proof.Machine.execFmul o s
  | .ffma o => Sys2Proof.Machine.execFfma o s
  | .fdiv o => Sys2Proof.Machine.execFdiv o s
  | .fsqrt o => Sys2Proof.Machine.execFsqrt o s
  | .fcmp o => Sys2Proof.Machine.execFcmp o s
  | .fcvtTo o => Sys2Proof.Machine.execFcvtTo o s
  | .fcvtFrom o => Sys2Proof.Machine.execFcvtFrom o s
  | .fmin o => Sys2Proof.Machine.execFmin o s
  | .fmax o => Sys2Proof.Machine.execFmax o s
  | .br o => Sys2Proof.Machine.execBr o s
  | .brl o => Sys2Proof.Machine.execBrl o s
  | .jr o => Sys2Proof.Machine.execJr o s
  | .jrl o => Sys2Proof.Machine.execJrl o s
  | .loop o => Sys2Proof.Machine.execLoop o s
  | .trap code => Sys2Proof.Machine.execTrap code s
  | .susp o => Sys2Proof.Machine.execSusp o s
  | .yieldUnit => Sys2Proof.Machine.execYieldUnit s
  | .endUnit => Sys2Proof.Machine.execEndUnit s
  | .getc o => Sys2Proof.Machine.execGetc o s
  | .setc o => Sys2Proof.Machine.execSetc o s
  | .rdcyc o => Sys2Proof.Machine.execRdcyc o s
  | .vadd o => Sys2Proof.Machine.execVadd o s
  | .vsub o => Sys2Proof.Machine.execVsub o s
  | .vmul o => Sys2Proof.Machine.execVmul o s
  | .vfma o => Sys2Proof.Machine.execVfma o s
  | .vmin o => Sys2Proof.Machine.execVmin o s
  | .vmax o => Sys2Proof.Machine.execVmax o s
  | .vdiv o => Sys2Proof.Machine.execVdiv o s
  | .vsqrt o => Sys2Proof.Machine.execVsqrt o s
  | .vrcp o => Sys2Proof.Machine.execVrcp o s
  | .vrsq o => Sys2Proof.Machine.execVrsq o s
  | .vexp2 o => Sys2Proof.Machine.execVexp2 o s
  | .vlog2 o => Sys2Proof.Machine.execVlog2 o s
  | .vcmp o => Sys2Proof.Machine.execVcmp o s
  | .viadd o => Sys2Proof.Machine.execViadd o s
  | .visub o => Sys2Proof.Machine.execVisub o s
  | .vimul o => Sys2Proof.Machine.execVimul o s
  | .vand o => Sys2Proof.Machine.execVand o s
  | .vor o => Sys2Proof.Machine.execVor o s
  | .vxor o => Sys2Proof.Machine.execVxor o s
  | .vshl o => Sys2Proof.Machine.execVshl o s
  | .vshr o => Sys2Proof.Machine.execVshr o s
  | .vsar o => Sys2Proof.Machine.execVsar o s
  | .vimin o => Sys2Proof.Machine.execVimin o s
  | .vimax o => Sys2Proof.Machine.execVimax o s
  | .vicmp o => Sys2Proof.Machine.execVicmp o s
  | .vmov o => Sys2Proof.Machine.execVmov o s
  | .vbcast o => Sys2Proof.Machine.execVbcast o s
  | .vextr o => Sys2Proof.Machine.execVextr o s
  | .vins o => Sys2Proof.Machine.execVins o s
  | .vperm o => Sys2Proof.Machine.execVperm o s
  | .vslide o => Sys2Proof.Machine.execVslide o s
  | .vsel o => Sys2Proof.Machine.execVsel o s
  | .vcomp o => Sys2Proof.Machine.execVcomp o s
  | .vexpd o => Sys2Proof.Machine.execVexpd o s
  | .vnz o => Sys2Proof.Machine.execVnz o s
  | .viota o => Sys2Proof.Machine.execViota o s
  | .vrsum o => Sys2Proof.Machine.execVrsum o s
  | .vrmax o => Sys2Proof.Machine.execVrmax o s
  | .vrmin o => Sys2Proof.Machine.execVrmin o s
  | .vdot o => Sys2Proof.Machine.execVdot o s
  | .vcvt o => Sys2Proof.Machine.execVcvt o s
  | .vpack o => Sys2Proof.Machine.execVpack o s
  | .vunpk o => Sys2Proof.Machine.execVunpk o s
  | .vtag o => Sys2Proof.Machine.execVtag o s
  | .vsideGet o => Sys2Proof.Machine.execVsideGet o s
  | .vsideSet o => Sys2Proof.Machine.execVsideSet o s
  | .vzero o => Sys2Proof.Machine.execVzero o s
  | .ldb o => Sys2Proof.Machine.execLdb o s
  | .ldh o => Sys2Proof.Machine.execLdh o s
  | .ldw o => Sys2Proof.Machine.execLdw o s
  | .ldd o => Sys2Proof.Machine.execLdd o s
  | .ldbn o => Sys2Proof.Machine.execLdbn o s
  | .ldhn o => Sys2Proof.Machine.execLdhn o s
  | .ldwn o => Sys2Proof.Machine.execLdwn o s
  | .stb o => Sys2Proof.Machine.execStb o s
  | .sth o => Sys2Proof.Machine.execSth o s
  | .stw o => Sys2Proof.Machine.execStw o s
  | .std o => Sys2Proof.Machine.execStd o s
  | .ldv o => Sys2Proof.Machine.execLdv o s
  | .stv o => Sys2Proof.Machine.execStv o s
  | .ldx o => Sys2Proof.Machine.execLdx o s
  | .stx o => Sys2Proof.Machine.execStx o s
  | .tld o => Sys2Proof.Machine.execTld o s
  | .tst o => Sys2Proof.Machine.execTst o s
  | .atom o => Sys2Proof.Machine.execAtom o s
  | .cas o => Sys2Proof.Machine.execCas o s
  | .fence o => Sys2Proof.Machine.execFence o s
  | .feset o => Sys2Proof.Machine.execFeset o s
  | .copy o => Sys2Proof.Machine.execCopy o s
  | .copyg o => Sys2Proof.Machine.execCopyg o s
  | .jwait o => Sys2Proof.Machine.execJwait o s
  | .pref o => Sys2Proof.Machine.execPref o s
  | .zscan o => Sys2Proof.Machine.execZscan o s
  | .zscanIb o => Sys2Proof.Machine.execZscanIb o s
  | .cgath o => Sys2Proof.Machine.execCgath o s
  | .cscat o => Sys2Proof.Machine.execCscat o s
  | .trld o => Sys2Proof.Machine.execTrld o s
  | .trfree o => Sys2Proof.Machine.execTrfree o s
  | .mma o => Sys2Proof.Machine.execMma o s
  | .acrd o => Sys2Proof.Machine.execAcrd o s
  | .acwr o => Sys2Proof.Machine.execAcwr o s
  | .acz o => Sys2Proof.Machine.execAcz o s
  | .wmark o => Sys2Proof.Machine.execWmark o s
  | .accvt o => Sys2Proof.Machine.execAccvt o s
  | .dinst o => Sys2Proof.Machine.execDinst o s
  | .datom o => Sys2Proof.Machine.execDatom o s
  | .dver o => Sys2Proof.Machine.execDver o s
  | .dret o => Sys2Proof.Machine.execDret o s
  | .dqry o => Sys2Proof.Machine.execDqry o s
  | .enc o => Sys2Proof.Machine.execEnc o s
  | .dec o => Sys2Proof.Machine.execDec o s
  | .acci o => Sys2Proof.Machine.execAcci o s
  | .imgbld o => Sys2Proof.Machine.execImgbld o s
  | .imginv o => Sys2Proof.Machine.execImginv o s
  | .imgld o => Sys2Proof.Machine.execImgld o s
  | .send o => Sys2Proof.Machine.execSend o s
  | .sendc o => Sys2Proof.Machine.execSendc o s
  | .sendcM o => Sys2Proof.Machine.execSendcM o s
  | .post o => Sys2Proof.Machine.execPost o s
  | .recv o => Sys2Proof.Machine.execRecv o s
  | .rcancel o => Sys2Proof.Machine.execRcancel o s
  | .ovpop o => Sys2Proof.Machine.execOvpop o s
  | .fork o => Sys2Proof.Machine.execFork o s
  | .join o => Sys2Proof.Machine.execJoin o s
  | .spawn o => Sys2Proof.Machine.execSpawn o s
  | .launch o => Sys2Proof.Machine.execLaunch o s
  | .qpush o => Sys2Proof.Machine.execQpush o s
  | .qpop o => Sys2Proof.Machine.execQpop o s
  | .crwait o => Sys2Proof.Machine.execCrwait o s
  | .cnew o => Sys2Proof.Machine.execCnew o s
  | .cnewPhase o => Sys2Proof.Machine.execCnewPhase o s
  | .cnewFree o => Sys2Proof.Machine.execCnewFree o s
  | .cadd o => Sys2Proof.Machine.execCadd o s
  | .cwait o => Sys2Proof.Machine.execCwait o s
  | .cwaitPh o => Sys2Proof.Machine.execCwaitPh o s
  | .expect o => Sys2Proof.Machine.execExpect o s
  | .arrive o => Sys2Proof.Machine.execArrive o s
  | .cancelUnit o => Sys2Proof.Machine.execCancelUnit o s
  | .cancelLaunch o => Sys2Proof.Machine.execCancelLaunch o s
  | .cancelGraph o => Sys2Proof.Machine.execCancelGraph o s
  | .cancelPhase o => Sys2Proof.Machine.execCancelPhase o s
  | .cancelJob o => Sys2Proof.Machine.execCancelJob o s
  | .perfrd o => Sys2Proof.Machine.execPerfrd o s
  | .accnt o => Sys2Proof.Machine.execAccnt o s
  | .tlbinv o => Sys2Proof.Machine.execTlbinv o s
  | .tlbinvAll o => Sys2Proof.Machine.execTlbinvAll o s
  | .lease o => Sys2Proof.Machine.execLease o s
  | .unlease o => Sys2Proof.Machine.execUnlease o s
  | .pgadv o => Sys2Proof.Machine.execPgadv o s
  | .pgqry o => Sys2Proof.Machine.execPgqry o s
  | .pgqryRes o => Sys2Proof.Machine.execPgqryRes o s
  | .hset o => Sys2Proof.Machine.execHset o s
  | .hget o => Sys2Proof.Machine.execHget o s
  | .relayout o => Sys2Proof.Machine.execRelayout o s
  | .rlwait o => Sys2Proof.Machine.execRlwait o s
  | .rprobe o => Sys2Proof.Machine.execRprobe o s
  | .rinv o => Sys2Proof.Machine.execRinv o s
  | .chash o => Sys2Proof.Machine.execChash o s
  | .entset o => Sys2Proof.Machine.execEntset o s
  | .eretResume o => Sys2Proof.Machine.execEretResume o s
  | .eretEnd o => Sys2Proof.Machine.execEretEnd o s
  | .eretPark => Sys2Proof.Machine.execEretPark s
  | .preempt o => Sys2Proof.Machine.execPreempt o s
  | .relocOut o => Sys2Proof.Machine.execRelocOut o s
  | .relocIn o => Sys2Proof.Machine.execRelocIn o s
  | .relocDrain o => Sys2Proof.Machine.execRelocDrain o s
  | .dbghalt o => Sys2Proof.Machine.execDbghalt o s
  | .dbghaltResume o => Sys2Proof.Machine.execDbghaltResume o s
  | .dbghaltStep o => Sys2Proof.Machine.execDbghaltStep o s
  | .ximm n => Sys2Proof.Machine.execXimm n s
  | .modPfx f => Sys2Proof.Machine.execModPfx f s
  | .hint f => Sys2Proof.Machine.execHint f s
  | .widxWrite q v => Sys2Proof.Machine.execWidxWrite q v s
  | .queueRegisterWrite q off v => Sys2Proof.Machine.execQueueRegisterWrite q off v s
  | .packetAdmit q => Sys2Proof.Machine.execPacketAdmit q s
  | .admissionNotice q ans => Sys2Proof.Machine.execAdmissionNotice q ans s
  | .unitGenerate l => Sys2Proof.Machine.execUnitGenerate l s
  | .reuseCopyDone l => Sys2Proof.Machine.execReuseCopyDone l s
  | .launchComplete l => Sys2Proof.Machine.execLaunchComplete l s
  | .recordOffer ix c => Sys2Proof.Machine.execRecordOffer ix c s
  | .dequeEntryResume p => Sys2Proof.Machine.execDequeEntryResume p s
  | .contextFreePop c => Sys2Proof.Machine.execContextFreePop c s
  | .stolenRecordArrive c => Sys2Proof.Machine.execStolenRecordArrive c s
  | .budgetExhausted c => Sys2Proof.Machine.execBudgetExhausted c s
  | .handlerOverrun c => Sys2Proof.Machine.execHandlerOverrun c s
  | .preemptArrive core => Sys2Proof.Machine.execPreemptArrive core s
  | .frameSave c => Sys2Proof.Machine.execFrameSave c s
  | .framePoolSupply c => Sys2Proof.Machine.execFramePoolSupply c s
  | .noticeRaise ix => Sys2Proof.Machine.execNoticeRaise ix s
  | .pagerResolve t ans => Sys2Proof.Machine.execPagerResolve t ans s
  | .unitRelease vd r p => Sys2Proof.Machine.execUnitRelease vd r p s
  | .loadComplete c ix => Sys2Proof.Machine.execLoadComplete c ix s
  | .granuleWaitIssue c => Sys2Proof.Machine.execGranuleWaitIssue c s
  | .storeBufferDrain core => Sys2Proof.Machine.execStoreBufferDrain core s
  | .remoteRetryTimeout u => Sys2Proof.Machine.execRemoteRetryTimeout u s
  | .linkDown p => Sys2Proof.Machine.execLinkDown p s
  | .fabricRead f => Sys2Proof.Machine.execFabricRead f s
  | .fabricWrite f => Sys2Proof.Machine.execFabricWrite f s
  | .fabricAtom f => Sys2Proof.Machine.execFabricAtom f s
  | .fabricCas f => Sys2Proof.Machine.execFabricCas f s
  | .fabricReply f => Sys2Proof.Machine.execFabricReply f s
  | .fabricAck f => Sys2Proof.Machine.execFabricAck f s
  | .fabricFwd f => Sys2Proof.Machine.execFabricFwd f s
  | .fabricPagePull f => Sys2Proof.Machine.execFabricPagePull f s
  | .fabricSystem f m table => Sys2Proof.Machine.execFabricSystem f m table s
  | .flitReservedDiscard deck kind => Sys2Proof.Machine.execFlitReservedDiscard deck kind s
  | .migrateThreshold pa toPa => Sys2Proof.Machine.execMigrateThreshold pa toPa s
  | .migrateHandover pa => Sys2Proof.Machine.execMigrateHandover pa s
  | .collapseRequest vd va writer frame table master => Sys2Proof.Machine.execCollapseRequest vd va writer frame table master s
  | .shootdownPier ix p => Sys2Proof.Machine.execShootdownPier ix p s
  | .shootdownAck ix p => Sys2Proof.Machine.execShootdownAck ix p s
  | .relayoutStart ix ans => Sys2Proof.Machine.execRelayoutStart ix ans s
  | .relayoutTileConvert ix t => Sys2Proof.Machine.execRelayoutTileConvert ix t s
  | .relayoutDrainAck ix p => Sys2Proof.Machine.execRelayoutDrainAck ix p s
  | .relayoutFinish ix => Sys2Proof.Machine.execRelayoutFinish ix s
  | .copyJobStart p core => Sys2Proof.Machine.execCopyJobStart p core s
  | .ringClaimRetry p core => Sys2Proof.Machine.execRingClaimRetry p core s
  | .copySector p => Sys2Proof.Machine.execCopySector p s
  | .copyResume p id => Sys2Proof.Machine.execCopyResume p id s
  | .zscanTile p core => Sys2Proof.Machine.execZscanTile p core s
  | .cgathRowArrive p core row => Sys2Proof.Machine.execCgathRowArrive p core row s
  | .cscatRowApply p core row => Sys2Proof.Machine.execCscatRowApply p core row s
  | .matrixAccept p => Sys2Proof.Machine.execMatrixAccept p s
  | .mmaBlock p => Sys2Proof.Machine.execMmaBlock p s
  | .mmaRowComplete p => Sys2Proof.Machine.execMmaRowComplete p s
  | .trldSlotWrite p => Sys2Proof.Machine.execTrldSlotWrite p s
  | .accPortRow p => Sys2Proof.Machine.execAccPortRow p s
  | .aczTile p => Sys2Proof.Machine.execAczTile p s
  | .trussBoundaryMove p => Sys2Proof.Machine.execTrussBoundaryMove p s
  | .spanJobStart p => Sys2Proof.Machine.execSpanJobStart p s
  | .encSpan p => Sys2Proof.Machine.execEncSpan p s
  | .decSpan p => Sys2Proof.Machine.execDecSpan p s
  | .acciSpan p => Sys2Proof.Machine.execAcciSpan p s
  | .acciStallResume p core => Sys2Proof.Machine.execAcciStallResume p core s
  | .acciRestart p => Sys2Proof.Machine.execAcciRestart p s
  | .dinstGroupWrite p => Sys2Proof.Machine.execDinstGroupWrite p s
  | .versionAnnounce src p => Sys2Proof.Machine.execVersionAnnounce src p s
  | .spanTableCommand p => Sys2Proof.Machine.execSpanTableCommand p s
  | .imgldRequest p => Sys2Proof.Machine.execImgldRequest p s
  | .imgbldRequest p => Sys2Proof.Machine.execImgbldRequest p s
  | .messageCommandStart p core => Sys2Proof.Machine.execMessageCommandStart p core s
  | .messageArrive src dst => Sys2Proof.Machine.execMessageArrive src dst s
  | .ingressRelease p => Sys2Proof.Machine.execIngressRelease p s
  | .handlerDispatch core => Sys2Proof.Machine.execHandlerDispatch core s
  | .deliveryPageResume p ix => Sys2Proof.Machine.execDeliveryPageResume p ix s
  | .counterOpArrive ix => Sys2Proof.Machine.execCounterOpArrive ix s
  | .mgmtQueueCreate host cfg create => Sys2Proof.Machine.execMgmtQueueCreate host cfg create s
  | .mgmtPreempt host t => Sys2Proof.Machine.execMgmtPreempt host t s
  | .mgmtExchangeGrant host vd va => Sys2Proof.Machine.execMgmtExchangeGrant host vd va s
  | .exchangeReclaimAck host vd va => Sys2Proof.Machine.execExchangeReclaimAck host vd va s
  | .mgmtStorageTransfer host cfg => Sys2Proof.Machine.execMgmtStorageTransfer host cfg s
  | .storageTransferDone ix ok data => Sys2Proof.Machine.execStorageTransferDone ix ok data s
  | .mgmtReadTelemetry host deck => Sys2Proof.Machine.execMgmtReadTelemetry host deck s
  | .mgmtAttestation host nonce => Sys2Proof.Machine.execMgmtAttestation host nonce s
  | .mgmtLoadFirmware host deck stage img raise => Sys2Proof.Machine.execMgmtLoadFirmware host deck stage img raise s
  | .mgmtUnknownCommand host code => Sys2Proof.Machine.execMgmtUnknownCommand host code s
  | .hostMemoryWrite host vd va data => Sys2Proof.Machine.execHostMemoryWrite host vd va data s
  | .hostMemoryRead host vd va n => Sys2Proof.Machine.execHostMemoryRead host vd va n s
  | .uetUnsupportedPacket deck => Sys2Proof.Machine.execUetUnsupportedPacket deck s
  | .moduleReset => Sys2Proof.Machine.execModuleReset s
  | .pierReset p => Sys2Proof.Machine.execPierReset p s
  | .firmwareGrant cfg => Sys2Proof.Machine.execFirmwareGrant cfg s
  | .thermalThrottle deck temp => Sys2Proof.Machine.execThermalThrottle deck temp s
  | .thermalStop deck temp => Sys2Proof.Machine.execThermalStop deck temp s
  | .scrubPass u r => Sys2Proof.Machine.execScrubPass u r s
  | .relocPagePull vd va frame tables => Sys2Proof.Machine.execRelocPagePull vd va frame tables s
  | .leaseRangeResident ix stores => Sys2Proof.Machine.execLeaseRangeResident ix stores s
  | .linkUp p => Sys2Proof.Machine.execLinkUp p s
  | .jobAdmission cfg => Sys2Proof.Machine.execJobAdmission cfg s
  | .pagerAdviceApply stores => Sys2Proof.Machine.execPagerAdviceApply stores s
  | .queueErrorReset q enabled => Sys2Proof.Machine.execQueueErrorReset q enabled s
  | .pierFrequencySet p freq => Sys2Proof.Machine.execPierFrequencySet p freq s
  | .overScaledModeEnable p => Sys2Proof.Machine.execOverScaledModeEnable p s

end Sys2Proof.Machine
end

