-- ==== Sys2Proof/Machine/Slots.lean ====
section
/-!
DEFINITION. Who moves next: the contexts that are ready and the round robin over them (R21, R157, R392, R411), the turn of the
agenda (log 1), the cycles that pass (R22, R37, R118, R352), and what comes before the instruction of an issue turn: a stop at a
boundary (R37, R46, R49), the cycle of the slot, the fetch.
-/
namespace Sys2Proof.Machine

/-! ### Readiness (R21) -/

/-- The state in which the group of context c is only tried. -/
def trial (s : State) (c : Nat) : State := s.setCtx c { s.ctx c with probe := true }

/-- Would the issue slot bring context c forward? It would not where its fetch still waits, or where the group waits without
issuing: for a register, a guard, the store buffer, an engine queue, a granule, an answer (R21, R46, R157). What an
unsuccessful try changes, such as a request that it sends, brings it forward once. -/
def slotHelps (s : State) (c : Nat) : Bool :=
  let s := { s with cur := c }
  match fetchWord s c (wordPc s.me) with
  | .fault _ _ => true
  | .wait t => t != s
  | .ok t w =>
    match decoded w with
    | none => true
    | some i =>
      let p := trial t c
      match exec i p with
      | .next v => !v.me.probe || (v != p && v != p.countEvent (pierOfCtx c) 8 1)
      | _ => true

/-- Another context of the core has begun a group: a halted core that steps finishes it first (R392). -/
def groupBegun (s : State) (c : Nat) : Bool :=
  (List.range 4).any (fun i => let d := coreOfCtx c * 4 + i; d != c && !(s.ctx d).pfx.isEmpty)

/-- A context that holds something and is not stopped, halted, fenced or without power, and that is ready: a stop at its boundary
is due, or the slot brings it forward (R21, R392, R411). -/
def mayIssue (s : State) (c : Nat) : Bool :=
  let x := s.ctx c
  let core := s.core (coreOfCtx c)
  let p := pierOfCtx c
  let due := stopDue x && !committed x
  x.busy && x.stop.isNone && !x.pageWait && !(x.fencing && remoteOf s c && !(x.pfx.isEmpty && due))
    && !(core.halted && x.pfx.isEmpty && x.role != .handler && (!core.stepping || groupBegun s c))
    && !s.unpowered p
    && (due || slotHelps s c)

/-- The context that a core's round robin comes to: the first behind the one that had the last issue slot (R21). -/
def roundRobin (s : State) (k : Nat) : Option Nat :=
  ((List.range 4).map (fun i => k * 4 + ((s.core k).lastIssue + 1 + i) % 4)).find? (mayIssue s)

/-- The turn that comes next, and the state without it: with an empty agenda the core of context `cur` issues. -/
def nextTurn (s : State) : Turn × State :=
  match s.agenda with
  | [] => (.issue ((roundRobin s (coreOfCtx s.cur)).getD s.cur), s)
  | t :: ts => (t, { s with agenda := ts })

/-! ### Cycles (R22, R37, R118, R352) -/

/-- One cycle count off a context: a unit's budget, a handler's cap. A unit that stays on its context for want of a frame occupies it
and is charged, though its record already says FAULTED or PARKED: R37 says both 'while the unit occupies a context' and not 'while
suspended' (DESIGN CHOICE, log 95). -/
def chargeCtx (n : Nat) (x : Ctx) : Ctx :=
  match x.role with
  | .unit => { x with budget := BitVec.ofNat 32 (x.budget.toNat - n) }
  | .handler => { x with handlercap := BitVec.ofNat 9 (x.handlercap.toNat - n) }
  | _ => x

/-- A handler still runs on a core: a halt waits for it (R392). -/
def handlerRuns (s : State) (k : Nat) : Bool := (s.ctx (k * 4 + 3)).role == .handler

/-- Does a load of this context wait for a granule (R157)? -/
def granuleWaits (s : State) (c : Nat) : Bool :=
  let s := { s with cur := c }
  let x := s.me
  x.busy && x.stop.isNone && !x.pageWait &&
    (match fetchWord s c (wordPc x) with
    | .ok t w =>
      (match (decoded w).bind granuleLoad with
      | none => false
      | some f => match f (trial t c) with | .next v => v == (trial t c).countEvent (pierOfCtx c) 8 1 | _ => false)
    | _ => false)

/-- n cycles of a core: its count, every context of it that holds a unit or a handler, and event 8 for each context whose load waits
for a granule; a halted core charges nobody (R392). -/
def chargeCore (s : State) (k n : Nat) : State :=
  let core := s.core k
  let waits := ((List.range 4).filter (fun i => granuleWaits s (k * 4 + i))).length
  let s := s.setCore k { core with cycles := core.cycles + BitVec.ofNat 64 n }
  if core.halted && !handlerRuns s k then s
  else
    let s : State := { s with ctxs := s.ctxs.map (fun x => if coreOfCtx x.1 == k then (x.1, chargeCtx n x.2) else x) }
    if waits == 0 then s else s.countEvent (pierOfCore k) 8 (n * waits)

/-- One cycle of a core that passes by an issue turn. Event 0 counts the pier's clock: it goes on when no other core of the pier
has seen this cycle (R118, R352). -/
def issueCycle (s : State) (c : Nat) : State :=
  let k := coreOfCtx c
  let p := pierOfCtx c
  let s := chargeCore (s.setCore k { s.core k with lastIssue := c % 4, replays := 0 }) k 1
  let n := (s.core k).cycles.toNat
  if (List.range 8).all (fun i => p * 8 + i == k || (s.core (p * 8 + i)).cycles.toNat < n) then s.countEvent p 0 1 else s

/-- n clock cycles of a pier; a pier that is powered down has no clock (R118, R411). -/
def elapse (s : State) (p n : Nat) : State :=
  if s.unpowered p then s
  else (List.range 8).foldl (fun s k => chargeCore s (p * 8 + k) n) (s.countEvent p 0 n)

/-- A core of a pier in the over-scaled mode replays the instruction that it issued last: three cycles and event 1; a second
replay of one instruction returns the pier to nominal voltage (R69, R352). -/
def replayCore (s : State) (k : Nat) : State :=
  let p := pierOfCore k
  let x := s.pier p
  if !x.overScaled then s
  else
    let n := (s.core k).replays + 1
    let s := chargeCore (s.setCore k { s.core k with replays := n }) k 3
    (s.setPier p { s.pier p with overScaled := decide (n < 2) }).countEvent p 1 1

/-! ### A step before its instruction -/

/-- A step is over, or runs an instruction. -/
inductive Prepared where
  | atEnd (o : Out)
  | run (i : Instr) (s : State)

/-- The issue turn of a context: it has an effect when the round robin of its core comes to it (R21). -/
def issueTurn (s : State) (c : Nat) : Prepared :=
  let s := { s with cur := c }
  let x := s.me
  if roundRobin s (coreOfCtx c) != some c then .atEnd (.next s)
  else if atBoundary x && stopDue x then .atEnd (takeStop s c).done
  else
    let s := fenceOver (issueCycle s c) c
    let x := s.me
    match fetchWord s c (wordPc x) with
    | .fault s f =>
      .atEnd (takeFault s c f.cause 0 (BitVec.ofNat 64 f.faddr) x.pc x.pc x.pfx f.pager).done
    | .wait s => .atEnd (if stopDue s.me && !committed s.me then (takeStop s c).done else s.done)
    | .ok s w =>
      if isPrefix (BitVec.ofNat 32 w) && stopDue s.me && !x.pfx.isEmpty then .atEnd (takeStop s c).done
      else
        match decoded w with
        | some i => .run i s
        | none => .atEnd (illegalWord s)

/-- What the next turn comes to. -/
def prepare (s : State) : Prepared :=
  match nextTurn s with
  | (.issue c, s) => issueTurn s c
  | (.event i, s) => .run i s
  | (.elapse p n, s) => .atEnd (elapse s p n).done
  | (.drop d, s) => .atEnd (dropCached s d).done
  | (.replay k, s) => .atEnd (replayCore s k).done
  | (.tables vd ws, s) => .atEnd (storeTables s vd ws).done
  | (.readings d j w a b f p, s) => .atEnd (writeReadings s d j w a b f p).done
  | (.enrol h on, s) => .atEnd (enrolHost s h on).done
  | (.tenant n c, s) => .atEnd { s with tenantCfg := kput n c s.tenantCfg }.done

end Sys2Proof.Machine
end

