-- ==== Sys2Proof/Machine/Step.lean ====
section
/-!
DEFINITION. One step of the machine: the next turn of the agenda, and for an issue turn or an event the instruction's
meaning.
-/
namespace Sys2Proof.Machine

/-- One step (log 1). -/
def step (s : State) : Host.Outcome State Fault Refusal :=
  match prepare s with
  | .atEnd o => o
  | .run i t => exec i t

/-- The state with an instruction word where the next step fetches (log 5). -/
def State.withFetchWord (s : State) (nbits w : Nat) : State := loadWord s (w % 2 ^ nbits)

end Sys2Proof.Machine
end

