-- ==== Sys2Proof/Safety.lean ====
section
/-!
DEFINITION. What counts as a safe run, the invariants of the machine, and the terms that the statements share.
-/
namespace Sys2Proof.Machine

/-- The four byte memories keep their canonical form. -/
def MemInv (s : State) : Prop :=
  Memory.wf s.mem = true ∧ Memory.wf s.spad = true ∧ Memory.wf s.truss = true ∧ Memory.wf s.acc = true

/-- A safe step ends in a next state. -/
def SafeStep (s : State) : Prop := ∃ t, step s = .next t

/-! ### What the statements about instructions say -/

/-- No system access has failed, and the prefixes of the group are ones that an instruction of this kind accepts (R75). -/
abbrev Accepts (s : State) (acc : Accept) : Prop := s.broken = none ∧ groupBad s.me.pfx acc = false

/-- The guard is full and bit 0 of its effective value is 1 (R74). -/
abbrev GuardOn (s : State) (g : Guard) : Prop := s.me.fullK g.slot = true ∧ (guardWord s.me g).getLsbD 0 = true

/-- These scalars of the executing context are full. -/
abbrev FullS (s : State) (rs : List SReg) : Prop := ∀ r ∈ rs, s.me.fullS r = true

/-- These vectors of the executing context are full. -/
abbrev FullV (s : State) (rs : List VNum) : Prop := ∀ r ∈ rs, s.me.fullV r = true

/-- Every byte of every memory reads as before, and no granule changes. -/
def SameBytes (s t : State) : Prop :=
  (∀ a, memGet t.mem a = memGet s.mem a) ∧ (∀ a, memGet t.spad a = memGet s.spad a) ∧
  (∀ a, memGet t.truss a = memGet s.truss a) ∧ (∀ a, memGet t.acc a = memGet s.acc a) ∧ t.granEmpty = s.granEmpty

/-- Outside the executing context nothing changes, but for the mark of a core that was given one group (R392), and answers
kept for the group that issued and whose they are. -/
def Elsewhere (s t : State) : Prop :=
  t = { s with ctxs := t.ctxs, cores := t.cores, arrived := t.arrived, remote := t.remote } ∧
  t.remote.map (fun r => { r with who := .operand 0 }) = s.remote.map (fun r => { r with who := .operand 0 }) ∧
  (∀ c, c ≠ s.cur → t.ctx c = s.ctx c) ∧ (∀ k, t.core k = { s.core k with stepping := (t.core k).stepping }) ∧ SameBytes s t

/-- Every register and field of the context but its scalars, guards, vectors and FLAGS is as before; the next group stands
at `pc`. -/
def SameControls (x y : Ctx) (pc : Nat) : Prop :=
  y = { x with s := y.s, sEmpty := y.sEmpty, k := y.k, kEmpty := y.kEmpty, v := y.v, vEmpty := y.vEmpty, flags := y.flags,
               pc := pc % 2 ^ 48, pfx := [], reply := none, asked := false, sbWait := false, fifoWait := none, probe := false }

def SameS (x y : Ctx) (but : List SReg) : Prop := ∀ r, r ∉ but → y.getS r = x.getS r ∧ y.fullS r = x.fullS r
def SameK (x y : Ctx) (but : List KReg) : Prop := ∀ r, r ∉ but → y.getK r = x.getK r ∧ y.fullK r = x.fullK r
def SameV (x y : Ctx) (but : List VNum) : Prop := ∀ r, r ∉ but → y.getV r = x.getV r ∧ y.fullV r = x.fullV r

/-- The group went on to `pc`, and of the registers only these and FLAGS may have changed. -/
def Goes (s t : State) (pc : Nat) (ds : List SReg) (ks : List KReg) (vs : List VNum) : Prop :=
  SameS s.me t.me ds ∧ SameK s.me t.me ks ∧ SameV s.me t.me vs ∧ SameControls s.me t.me pc ∧ Elsewhere s t

/-- d holds a value and is full, s0 still zero (R91, R92); no flag and nothing else changed; the next group follows (R72). -/
def WroteS (s : State) (d : SReg) (w : Word) (t : State) : Prop :=
  t.me.getS d = (if d = 0 then 0 else w) ∧ t.me.fullS d = true ∧ t.me.flags = s.me.flags ∧
  Goes s t (s.me.pc + 4 * s.me.pfx.length + 4) [d] [] []

/-- A guard holds a value and is full, k0 still all ones (R94); no flag and nothing else changed. -/
def WroteK (s : State) (d : KReg) (w : Word) (t : State) : Prop :=
  t.me.getK d = (if d = 0 then BitVec.allOnes 64 else w) ∧ t.me.fullK d = true ∧ t.me.flags = s.me.flags ∧
  Goes s t (s.me.pc + 4 * s.me.pfx.length + 4) [] [d] []

/-- The exact integer, narrowed to 64 bits or saturated by Sat (R55). -/
def narrow64 (sat : Bool) (z : Int) : Word :=
  BitVec.ofInt 64 (if sat then max (-(2 ^ 63)) (min (2 ^ 63 - 1) z) else z)

/-- The MOD word of the group asks for saturation (R77: bit 23). -/
def saturates (s : State) : Bool := s.me.pfx.any (fun w => isMod w && w.toNat.testBit 23)

/-- The immediate field with what XIMM words put above it (R76), as a signed 64-bit value. -/
def immediate (s : State) (imm : BitVec 11) : Word :=
  match s.me.pfx.filter isXimm with
  | [] => imm.signExtend 64
  | [x] => (x.extractLsb' 0 24 ++ imm).signExtend 64
  | x :: y :: _ => (x.extractLsb' 0 24 ++ y.extractLsb' 0 24 ++ imm).signExtend 64

/-- The integer conditions of R83: EQ, NE, LT, GE, LE, GT, BS, BC. -/
abbrev intCond (cc : BitVec 3) (a b : Int) (x y : Word) : Prop :=
  (cc = 0 ∧ a = b) ∨ (cc = 1 ∧ a ≠ b) ∨ (cc = 2 ∧ a < b) ∨ (cc = 3 ∧ b ≤ a) ∨ (cc = 4 ∧ a ≤ b) ∨ (cc = 5 ∧ b < a) ∨
  (cc = 6 ∧ x &&& y ≠ 0) ∨ (cc = 7 ∧ x &&& y = 0)

/-- exec answers a next state in which d holds a value and nothing else changed. -/
def GivesS (s : State) (i : Instr) (d : SReg) (w : Word) : Prop := ∃ t, exec i s = .next t ∧ WroteS s d w t

/-- exec answers a next state in which guard d holds a value and nothing else changed. -/
def GivesK (s : State) (i : Instr) (d : KReg) (w : Word) : Prop := ∃ t, exec i s = .next t ∧ WroteK s d w t

/-- exec answers a next state in which d holds an FP32 result, FLAGS has its flags added (R64), and nothing else changed. -/
def GivesF (s : State) (i : Instr) (d : SReg) (r : Nat × Flags) : Prop :=
  ∃ t, exec i s = .next t ∧ t.me.getS d = (if d = 0 then 0 else BitVec.ofNat 64 r.1) ∧ t.me.fullS d = true ∧
    t.me.flags = s.me.flags ||| r.2 ∧ Goes s t (s.me.pc + 4 * s.me.pfx.length + 4) [d] [] []

/-- The group goes on to `pc` and writes nothing. -/
def GoesTo (s : State) (i : Instr) (pc : Nat) : Prop :=
  ∃ t, exec i s = .next t ∧ t.me.flags = s.me.flags ∧ Goes s t pc [] [] []

/-- The group goes on to `pc` with a word in d. -/
def JumpsWith (s : State) (i : Instr) (pc : Nat) (d : SReg) (w : Word) : Prop :=
  ∃ t, exec i s = .next t ∧ t.me.getS d = (if d = 0 then 0 else w) ∧ t.me.fullS d = true ∧ t.me.flags = s.me.flags ∧
    Goes s t pc [d] [] []

/-- The group traps: the shared operation that takes an exception runs on the unchanged context, with this cause, FPC and
resume address at the group's first word and, where the spec states it, this FADDR. What the spec leaves open is a free
value. -/
def Raises (s : State) (i : Instr) (cause : Cause) (faddr : Option Word) : Prop :=
  ∃ u a, exec i s = (takeFault u s.cur cause 0 a s.me.pc s.me.pc s.me.pfx false).done ∧
    u = { s with cores := u.cores, free := u.free } ∧
    (∀ k, u.core k = { s.core k with stepping := (u.core k).stepping }) ∧ (∀ b, faddr = some b → a = b)

/-- The unit or handler waits: nothing changes but the time that passes. -/
def Waits (s : State) (i : Instr) : Prop := exec i s = .next s

/-- No stop is due, and the context may wait: it runs no handler (R22). -/
abbrev MayWait (s : State) : Prop := s.broken = none ∧ stopDue s.me = false ∧ s.me.role ≠ .handler

/-! ### Vector results -/

/-- Lane n of a register read in a format (R52, R120). -/
def laneOf (r : VReg) (f : Fmt) (n : Nat) : Nat := r.bits.toNat / 2 ^ (fmtBits f * n) % 2 ^ fmtBits f

/-- Is lane n enabled: guard bit n, for 128 lanes bit n/2 and for 256 lanes bit n/4 (R123)? -/
def LaneOn (g : Word) (f : Fmt) (n : Nat) : Bool := g.getLsbD (n * min 64 (fmtLanes f) / fmtLanes f)

/-- A register carries the tag of a format. -/
abbrev HasTag (x : Ctx) (v : VNum) (f : Fmt) : Prop := (x.getV v).tag = BitVec.ofNat 4 f.code

/-- A vector instruction may write d in format f under guard g: the guard is full with a lane enabled, d is full, and carries
f's tag unless every lane is enabled (R124). -/
abbrev MayWriteV (s : State) (g : Guard) (f : Fmt) (d : VNum) : Prop :=
  s.me.fullK g.slot = true ∧ (∃ n < fmtLanes f, LaneOn (guardWord s.me g) f n = true) ∧ s.me.fullV d = true ∧
  ((∀ n < fmtLanes f, LaneOn (guardWord s.me g) f n = true) ∨ HasTag s.me d f)

/-- exec answers a next state in which d is r, full, FLAGS has `fl` more, and nothing else changed. -/
def GivesR (s : State) (i : Instr) (d : VNum) (r : VReg) (fl : Flags) : Prop :=
  ∃ t, exec i s = .next t ∧ t.me.getV d = r ∧ t.me.fullV d = true ∧ t.me.flags = s.me.flags ||| fl ∧
    Goes s t (s.me.pc + 4 * s.me.pfx.length + 4) [] [] [d]

/-- exec answers a next state in which d carries f's tag; each enabled lane holds its value and each other lane is as before
(R124); the side word is zero, or for E2M1X as it was (R121); FLAGS has the flags of the enabled lanes more (R128); and nothing
else changed. -/
def GivesV (s : State) (i : Instr) (g : Guard) (f : Fmt) (d : VNum) (val : Nat → Nat × Flags) : Prop :=
  ∃ r fl, GivesR s i d r fl ∧ r.tag = BitVec.ofNat 4 f.code ∧
    (∀ n < fmtLanes f, laneOf r f n = if LaneOn (guardWord s.me g) f n then (val n).1 % 2 ^ fmtBits f
      else laneOf (s.me.getV d) f n) ∧
    r.side = (if f = .e2m1x then (s.me.getV d).side else 0) ∧
    (∀ b < 5, fl.getLsbD b = true ↔ ∃ n < fmtLanes f, LaneOn (guardWord s.me g) f n = true ∧ (val n).2.getLsbD b = true)

/-- The signed or unsigned integer that a lane holds by its format (R52). -/
def laneInt (f : Fmt) (x : Nat) : Int := if fmtSigned f ∧ 2 ^ (fmtBits f - 1) ≤ x then (x : Int) - 2 ^ fmtBits f else x

/-- An exact integer as a lane: its low bits, or with Sat the nearest number of the format (R55). -/
def narrowLane (f : Fmt) (sat : Bool) (z : Int) : Nat :=
  let lo : Int := if fmtSigned f then -(2 ^ (fmtBits f - 1)) else 0
  let hi : Int := if fmtSigned f then 2 ^ (fmtBits f - 1) - 1 else 2 ^ fmtBits f - 1
  ((if sat then max lo (min hi z) else z) % 2 ^ fmtBits f).toNat

/-- The group issues and a producer is in flight (R92, R93): d is empty, and nothing else of the registers and memories
changed. `u` is what the machine is once the producer has completed. -/
def InFlight (s : State) (i : Instr) (d : SReg) (t u : State) : Prop :=
  exec i s = .next t ∧ exec (.loadComplete s.cur s.me.loads.length) t = .next u ∧ (d ≠ 0 → t.me.fullS d = false) ∧
  t.me.loads.length = s.me.loads.length + 1 ∧ t.me.pc = (s.me.pc + 4 * s.me.pfx.length + 4) % 2 ^ 48 ∧ t.me.pfx = [] ∧
  SameS s.me t.me [d] ∧ SameK s.me t.me [] ∧ SameV s.me t.me [] ∧ SameBytes s t

/-- A producer in flight empties d; once it completes, d is full with w, FLAGS has `fl` more, and nothing else changed. -/
def Produces (s : State) (i : Instr) (d : SReg) (w : Word) (fl : Flags) : Prop :=
  ∃ t u, InFlight s i d t u ∧ u.me.getS d = (if d = 0 then 0 else w) ∧ u.me.fullS d = true ∧
    u.me.flags = s.me.flags ||| fl ∧ Goes s u (s.me.pc + 4 * s.me.pfx.length + 4) [d] [] []

/-! ### Memory accesses -/

/-- Address of an M or V format: base plus the displacement, which counts in `scale` bytes, or with XIMM words in bytes
(R70, R76). -/
def dataAddress {n : Nat} (s : State) (base : SReg) (disp : BitVec n) (scale : Nat) : Nat :=
  (s.me.getS base + (match s.me.pfx.filter isXimm with
    | [] => disp.signExtend 64 * BitVec.ofNat 64 scale
    | [x] => (x.extractLsb' 0 24 ++ disp).signExtend 64
    | x :: y :: _ => (x.extractLsb' 0 24 ++ y.extractLsb' 0 24 ++ disp).signExtend 64)).toNat

/-- A place of this module. -/
def nearLoc : Loc → Bool
  | .spad _ o => o < 131072
  | .here _ => true
  | .there _ _ _ => false

/-- Nothing meets the accesses of the executing context: no page in transfer, poison, launch queue or remote access; its core's
store buffer is empty; no context of the core has a stop. -/
abbrev NothingMeets (s : State) : Prop :=
  s.broken = none ∧ s.transfers = [] ∧ s.poison = [] ∧ s.queues = [] ∧ s.remote = [] ∧ s.arrived = [] ∧ s.convs = [] ∧
  (s.core (coreOfCtx s.cur)).sb = [] ∧ ∀ i < 4, (s.ctx (coreOfCtx s.cur * 4 + i)).stop = none

/-- These addresses pass the checks of R242 for an agent and stand at these places of this module, on pages that are not strongly
ordered nor, for a write, tracked. -/
def PlacedAt (s : State) (w : Who) (k : AKind) (as : List Nat) (ls : List Loc) : Prop :=
  ∃ ps, placeAll s w k true as = .ok ps ∧ ps.map (fun p => p.loc) = ls ∧
    ∀ p ∈ ps, p.strong = false ∧ (k = .write → p.trk = false) ∧ nearLoc p.loc = true

/-- The same for the executing context. -/
def Reaches (s : State) (k : AKind) (as : List Nat) (ls : List Loc) : Prop := PlacedAt s (meWho s) k as ls

/-- What an access may change besides its effect: the translations that the TLBs and the walk cache hold, with their event
counts (R257, R352), the access counts of MIGRATE pages (R248), and the step mark of a halted core (R392). -/
def AroundAccess (s t : State) : Prop :=
  t = { s with ctxs := t.ctxs, cores := t.cores, piers := t.piers, decks := t.decks, counts := t.counts
               granEmpty := t.granEmpty, mem := t.mem, spad := t.spad } ∧
  (∀ k, t.core k = { s.core k with utlb := (t.core k).utlb, stepping := (t.core k).stepping }) ∧
  (∀ p, t.pier p = { s.pier p with tlb := (t.pier p).tlb, events := (t.pier p).events }) ∧
  (∀ d, t.deck d = { s.deck d with walks := (t.deck d).walks }) ∧ (∀ c, c ≠ s.cur → t.ctx c = s.ctx c)

/-- The registers of the executing context but these, and its other fields but the PC, are as before. -/
def SameRegs (s t : State) (ds : List SReg) (vs : List VNum) : Prop :=
  SameS s.me t.me ds ∧ SameK s.me t.me [] ∧ SameV s.me t.me vs ∧ t.me.flags = s.me.flags ∧
  SameControls s.me t.me (s.me.pc + 4 * s.me.pfx.length + 4)

/-- The group issues with a load in flight that completes as `u`; no byte of memory changed, no register but the destination, and
no granule but those that qualifier 3 empties (R155). -/
def Loads (s : State) (i : Instr) (ds : List SReg) (vs : List VNum) (emptied : List Nat) (t u : State) : Prop :=
  exec i s = .next t ∧ exec (.loadComplete s.cur s.me.loads.length) t = .next u ∧
  (∀ d ∈ ds, d ≠ 0 → t.me.fullS d = false) ∧ (∀ v ∈ vs, t.me.fullV v = false) ∧
  (∀ d ∈ ds, u.me.fullS d = true) ∧ (∀ v ∈ vs, u.me.fullV v = true) ∧ SameRegs s u ds vs ∧ AroundAccess s u ∧
  u.mem = s.mem ∧ u.spad = s.spad ∧ (∀ g, g ∈ u.granEmpty ↔ g ∈ s.granEmpty ∨ g ∈ emptied)

/-- A core's store buffer is asked n times for its oldest store (R358); asked when it is empty, it changes nothing. -/
def Drains (core : Nat) : Nat → State → State → Prop
  | 0, s, u => s = u
  | n + 1, s, u => ∃ t, exec (.storeBufferDrain core) s = .next t ∧ Drains core n t u

/-- The last value that a list of cells gives a place. -/
def lastCell (cells : List (Loc × Byte)) (l : Loc) : Option Byte := (cells.reverse.find? (fun c => c.1 == l)).map Prod.snd

/-- The group issues with its bytes in the store buffer and memory as before; once the buffer has drained, each place holds the
last byte stored to it, every other byte of every memory is as before, and no register changed. The granules of the places are
full then where the qualifier says so, and every other granule is as before (R155, R358). -/
def Stores (s : State) (i : Instr) (cells : List (Loc × Byte)) (fill : Bool) : Prop :=
  ∃ t u, exec i s = .next t ∧ SameBytes s t ∧ Drains (coreOfCtx s.cur) (t.core (coreOfCtx s.cur)).sb.length t u ∧
    (∀ l, nearLoc l = true → readHere u l = (lastCell cells l).getD (readHere s l)) ∧ SameRegs s u [] [] ∧ AroundAccess s u ∧
    (∀ g, g ∈ u.granEmpty ↔ g ∈ s.granEmpty ∧ ¬ (fill = true ∧ g ∈ granulesOf (cells.map Prod.fst)))

/-- exec answers a next state in which d holds a value; nothing else changed but what an access leaves. -/
def ReadsInto (s : State) (i : Instr) (d : SReg) (w : Word) : Prop :=
  ∃ t, exec i s = .next t ∧ t.me.getS d = (if d = 0 then 0 else w) ∧ t.me.fullS d = true ∧ SameRegs s t [d] [] ∧
    AroundAccess s t ∧ SameBytes s t

/-- The group has gone on, and of its context only its handle h may have changed: it is bound to `b`. -/
def BindsHandle (s t : State) (h : HReg) (b : Option Handle) : Prop :=
  t.me.handle? h = b ∧ (∀ k, k ≠ h → t.me.handle? k = s.me.handle? k) ∧
  t.me = { s.me with h := t.me.h, pc := (s.me.pc + 4 * s.me.pfx.length + 4) % 2 ^ 48, pfx := []
                     reply := none, asked := false, sbWait := false, fifoWait := none, probe := false }

/-! ### Engine commands -/

/-- An engine command can issue: its prefixes are ones it accepts, nothing of the context is under way, its register is full, the
engine's queue of the core has a place (R371), and, for a command that writes its register itself, fewer than eight results are
pending (R47). -/
abbrev CanIssue (s : State) (e : Engine) (own : Bool) (d : SReg) : Prop :=
  Accepts s accG ∧ s.remote = [] ∧ s.arrived = [] ∧ holdsFor s s.cur = false ∧ (s.core (s.cur / 4)).sb = [] ∧ s.me.fullS d = true ∧
  (queued s (s.cur / 32) e (s.cur / 4)).length < 16 ∧ (usedIds (s.pier (s.cur / 32))).length < 60000 ∧ (s.pier (s.cur / 32)).nextJob < 65536 ∧
  (own = true → ((unitJobs s s.cur).filter (fun j => j.2.dreg.isSome && !j.2.status.final)).length < 8)

/-- The command issues as a new job of the pier, behind the others, with its own id (R84, R189): RUNNING in its core's queue; held
while its guard is empty; DISCARDED where its guard is full and false (R74). d holds the id, but for a command that writes it
itself: that one leaves d empty, or zero where discarded. LASTJOB has the id. Nothing else changed but granules that the command
empties as it issues. `s1` is the state with what the command read. -/
def IssuesJob (s s1 : State) (i : Instr) (e : Engine) (cmd : Cmd) (d : SReg) (a b : Word) (own : Bool) (seen : Bytes)
    (marked : List Nat) : Prop :=
  let x := s.me
  let p := s.cur / 32
  let g := modGuard x.pfx
  let off := x.fullK g.slot && !(guardWord x g).getLsbD 0
  ∃ t j, exec i s = .next t ∧ t.pier p = { s1.pier p with jobs := (s1.pier p).jobs ++ [j], nextJob := (j.id + 1) % 65536 } ∧
    0 < j.id ∧ j.id < 65536 ∧ j.id ∉ usedIds (s.pier p) ∧ j.eng = e ∧ j.cmd = cmd ∧ j.a = a ∧ j.b = b ∧ j.core = s.cur / 4 ∧
    j.ctx = s.cur ∧ j.unit = x.record ∧ j.jobid = x.jobid.toNat ∧ j.who = x.who (s.cur / 4) ∧ j.enck = x.enck.toNat ∧
    j.enctau = x.enctau.toNat ∧ j.enceps = x.enceps.toNat ∧ j.encdict = x.encdict.toNat ∧ j.tmpl2 = seen ∧ j.started = false ∧
    j.flags = 0 ∧ j.status = (if off then .discarded else .running) ∧ j.inq = !off ∧
    j.held = (if x.fullK g.slot then none else some g) ∧ j.dreg = (if own && !off then some d else none) ∧
    (d ≠ 0 → t.me.getS d = (if own then (if off then 0 else x.getS d) else BitVec.ofNat 64 j.id) ∧
      t.me.fullS d = !(own && !off)) ∧
    t.me.lastjob = BitVec.ofNat 16 j.id ∧ SameS x t.me [d] ∧ SameK x t.me [] ∧ SameV x t.me [] ∧ t.me.flags = x.flags ∧
    t.me = { x with s := t.me.s, sEmpty := t.me.sEmpty, lastjob := t.me.lastjob, pc := nextPc x, pfx := []
                    reply := none, asked := false, sbWait := false, fifoWait := none, probe := false } ∧
    (∀ q, q ≠ p → t.pier q = s1.pier q) ∧ (∀ c, c ≠ s.cur → t.ctx c = s1.ctx c) ∧
    (∀ k, t.core k = { s1.core k with stepping := (t.core k).stepping }) ∧
    t = { s1 with ctxs := t.ctxs, cores := t.cores, piers := t.piers, granEmpty := t.granEmpty } ∧
    (∀ h, h ∈ t.granEmpty ↔ h ∈ s.granEmpty ∨ (off = false ∧ h ∈ marked))

/-! ### Events of the engines -/

/-- Nothing is under way that the end of an event goes on with. -/
abbrev NothingWaits (s : State) : Prop := s.broken = none ∧ s.remote = [] ∧ s.arrived = [] ∧ s.dying = []

/-- A running job of a pier that can take its step: no fault, poison, transfer, relayout or launch queue meets its accesses, the
virtual device is not being moved, and its number is its own. -/
abbrev CanStep (s : State) (p : Nat) (j : Job) : Prop :=
  NothingWaits s ∧ s.transfers = [] ∧ s.poison = [] ∧ s.queues = [] ∧ s.convs = [] ∧ s.quietPier p = false ∧
  (s.pier p).jobs.filter (fun k => k.id == j.id) = [j] ∧ j.status = .running ∧ j.ctx ≠ noCtx

/-- The job with its final status (R172): out of its queue, with no register to write. -/
def ended (j : Job) (st : JStat) : Job := { j with status := st, inq := false, dreg := none, sent := false }

/-- On pier p the job has become k; the other jobs are as before. -/
def JobBecomes (s t : State) (p : Nat) (j k : Job) : Prop :=
  (t.pier p).jobs = (s.pier p).jobs.map (fun x => if x.id == j.id then k else x)

/-- What a step of an engine may change besides memory and the jobs of its pier: translations and counts as an access does, and
the rotations of R190 and R313. -/
def AroundEngine (s t : State) (p : Nat) : Prop :=
  t = { s with cores := t.cores, piers := t.piers, decks := t.decks, counts := t.counts, granEmpty := t.granEmpty
               mem := t.mem, spad := t.spad } ∧
  (∀ k, t.core k = { s.core k with utlb := (t.core k).utlb }) ∧
  (∀ q, q ≠ p → t.pier q = { s.pier q with tlb := (t.pier q).tlb, events := (t.pier q).events }) ∧
  t.pier p = { s.pier p with jobs := (t.pier p).jobs, tlb := (t.pier p).tlb, events := (t.pier p).events
                             rotM := (t.pier p).rotM, rotE := (t.pier p).rotE, rotA := (t.pier p).rotA
                             rotC := (t.pier p).rotC, rotP := (t.pier p).rotP } ∧
  (∀ d, t.deck d = { s.deck d with walks := (t.deck d).walks })

/-- These cells are written, the last value of each place; every other byte is as before; the granules of the cells are full, and
every other granule is as before (R162). -/
def BytesWritten (s t : State) (cells : List (Loc × Byte)) : Prop :=
  (∀ l, nearLoc l = true → readHere t l = (lastCell cells l).getD (readHere s l)) ∧
  (∀ g, g ∈ t.granEmpty ↔ g ∈ s.granEmpty ∧ g ∉ granulesOf (cells.map Prod.fst))

/-- Every byte of HBM and scratchpads and every granule is as before. -/
def NoBytesWritten (s t : State) : Prop := t.mem = s.mem ∧ t.spad = s.spad ∧ t.granEmpty = s.granEmpty

/-- Of the state only pier p changed. -/
def OnlyPier (s t : State) (p : Nat) : Prop := t = { s with piers := t.piers } ∧ ∀ q, q ≠ p → t.pier q = s.pier q

/-- The image rows of these atoms, each found as `acciRow` looks it up, one after the other. -/
def TermRows (p : Nat) (j : Job) (d : ImgDesc) (sn : Nat) : List Nat → State → List (List Nat) → State → Prop
  | [], s, rows, u => rows = [] ∧ u = s
  | a :: as, s, rows, u => ∃ s1 r rs, acciRow s p j d sn a = .ok s1 (some r) ∧ TermRows p j d sn as s1 rs u ∧ rows = r :: rs

/-- No accepted WMARK or TRFREE of a pier waits to complete. -/
abbrev NoneSettles (s : State) (p : Nat) : Prop :=
  ∀ k ∈ (s.pier p).jobs, k.eng = .matrix → k.released = true → k.status.final = false → k.cmd ≠ .wmark ∧ k.cmd ≠ .trfree

/-! ### Pages of the hardware's own accesses -/

/-- Addresses of the table entries that a walk reads (R241). -/
def walkReads (m : Mem) (va : Nat) : Nat → Nat → Nat → List Nat
  | 0, _, _ => []
  | fuel + 1, lvl, t =>
    let e := t + 8 * vaIndex va lvl
    let x := leNat (memRead m e 8)
    e :: (if bit x 0 && !pteBad x lvl && bits x 5 4 == 0 then walkReads m va fuel (lvl + 1) (bits x 55 24 * 4096) else [])

/-- A virtual address is mapped to a local frame at a physical address that a stack has, on a page that no host owns, and none
of the entries on its walk lies in these ranges of physical addresses (R242, R243, R254). -/
def MappedApart (s : State) (vd va pa : Nat) (ranges : List (Nat × Nat)) : Prop :=
  (∃ x, walk s.mem (rootOf s vd) va = some x ∧ leafPeer x = 0 ∧ x.testBit 11 = false ∧ absentPa pa = false ∧
    pa = leafFrame x * 65536 + va % leafPages x) ∧
  ∀ e ∈ walkReads s.mem va 4 1 (rootOf s vd), ∀ r ∈ ranges, e + 8 ≤ r.1 ∨ r.1 + r.2 ≤ e

/-- What context c runs stands at rest: no load, buffered store, remote access or write held by a page that leaves, no engine job that is held or still writes a
register, no request at a counter slice, no MEMERR, unknown outcome or stop that waits. -/
abbrev AtRest (s : State) (c : Nat) : Prop :=
  s.broken = none ∧ (s.ctx c).loads = [] ∧ (s.ctx c).memerr = none ∧ (s.ctx c).unknown = none ∧ (s.ctx c).stop = none ∧
  (s.core (coreOfCtx c)).sb = [] ∧ s.remote = [] ∧ s.arrived = [] ∧ s.ctrReqs = [] ∧ s.sliceFaults = [] ∧
  holdsFor s c = false ∧
  (s.ctx c).reply = none ∧ (s.ctx c).cancelReq = false ∧ (s.ctx c).pageWait = false ∧ (s.ctx c).fenceLines = false ∧
  ∀ j ∈ unitJobs s c, j.2.held = none ∧ j.2.dreg = none

/-- The register tables of a context list each register once, and only registers that exist (R91, R94, R120, R71). -/
abbrev RegsInRange (x : Ctx) : Prop :=
  (∀ e ∈ x.s, e.1 < 64) ∧ (∀ e ∈ x.v, e.1 < 32) ∧ (∀ e ∈ x.k, e.1 < 8) ∧ (∀ e ∈ x.h, e.1 < 16) ∧
  (x.s.map Prod.fst).Nodup ∧ (x.v.map Prod.fst).Nodup ∧ (x.k.map Prod.fst).Nodup

/-- A frame at a local address holds the registers of context c of s, with these prefixes of its group (R45). FRAME, CAUSE, FADDR
and FPC are stated where the frame is. -/
def FrameHolds (s : State) (c : Nat) (m : Mem) (f : Nat) (pfx : List IWord) : Prop :=
  let x := s.ctx c
  let at_ (off n : Nat) : Nat := leNat (memRead m (f + off) n)
  (∀ n < 64, 0 < n → at_ (8 * n) 8 = (kget 0 x.s n).toNat) ∧
  (∀ n < 32, at_ (0x200 + 128 * n) 128 = (kget VReg.zero x.v n).bits.toNat ∧
    at_ (0x1200 + 8 * n) 8 = (kget VReg.zero x.v n).side.toNat ∧
    at_ (0x1300 + n / 2) 1 / 16 ^ (n % 2) % 16 = (kget VReg.zero x.v n).tag.toNat) ∧
  (∀ n < 8, 0 < n → at_ (0x1310 + 8 * n) 8 = (kget 0 x.k n).toNat) ∧
  at_ 0x1350 8 = (~~~x.sEmpty).toNat ∧ at_ 0x1358 4 = (~~~x.vEmpty).toNat ∧ at_ 0x135C 1 = (~~~x.kEmpty).toNat ∧
  (∀ n < 26, n < 12 ∨ 15 < n → at_ (0x1400 + 8 * n) 8 = (controlReg s c n).toNat) ∧
  at_ 0x1600 1 = pfx.length % 256 ∧ ∀ n < 4, n < pfx.length → at_ (0x1604 + 4 * n) 4 = (pfx.getD n 0).toNat

/-- Memory outside the record at rpa and the frame at fpa reads as before. -/
def OnlyRecordAndFrame (s t : State) (rpa fpa : Nat) : Prop :=
  (∀ a, (a < rpa ∨ rpa + 64 ≤ a) → (a < fpa ∨ fpa + 8192 ≤ a) → memGet t.mem a = memGet s.mem a) ∧
  (∀ a, memGet t.spad a = memGet s.spad a) ∧ (∀ a, memGet t.truss a = memGet s.truss a) ∧
  (∀ a, memGet t.acc a = memGet s.acc a) ∧ t.granEmpty = s.granEmpty

/-- Context c runs the fault entry for record r and frame f (R378, R381): its registers are those of R378, and the frame, at fpa,
holds what the context was in s, with the frame's own address in FRAME, and CAUSE and FPC of the fault. -/
def EntryRuns (s t : State) (c : Nat) (k : EntryKind) (r f fpa stk fentry code : Nat) (cause : Cause) : Prop :=
  let x := s.ctx c
  let y := t.ctx c
  let w := BitVec.ofNat 64 (code * 2 ^ 16 + cause.code)
  y.role = .entry k ∧ y.level = 2 ∧ y.pc = fentry ∧ y.cause = w ∧ y.fpc = BitVec.ofNat 64 x.pc ∧ y.flags = 0 ∧ y.rmode = 0 ∧
  y.pfx = [] ∧ y.getS 1 = BitVec.ofNat 64 f ∧ y.getS 2 = BitVec.ofNat 64 (recWord t x.vd r 0) ∧
  y.getS 3 = BitVec.ofNat 64 (recWord t x.vd r 2) ∧ y.getS 4 = BitVec.ofNat 64 (recWord t x.vd r 4) ∧
  y.getS 5 = BitVec.ofNat 64 r ∧ y.stkbase = BitVec.ofNat 64 stk ∧ y.frame = BitVec.ofNat 64 f ∧ y.jobid = x.jobid ∧
  leNat (memRead t.mem (fpa + 0x1460) 8) = f % 2 ^ 64 ∧ leNat (memRead t.mem (fpa + 0x1468) 8) = w.toNat ∧
  leNat (memRead t.mem (fpa + 0x1478) 8) = x.pc % 2 ^ 64

/-- Context c of s has taken the exception of a fault in its unit (R43, R378): the fault entry runs, the unit's frame is saved, and
the record is FAULTED with the cause and the resume address; nothing else of memory and no other context changed. -/
def FaultTaken (s t : State) (c rpa f fpa stk fentry code resume : Nat) (cause : Cause) : Prop :=
  let x := s.ctx c
  let r := x.record
  EntryRuns s t c .unit r f fpa stk fentry code cause ∧ FrameHolds s c t.mem fpa x.pfx ∧ recState t x.vd r = stFaulted ∧
  recCause t x.vd r = cause.code ∧ recWord t x.vd r 0 % 2 ^ 48 = resume % 2 ^ 48 ∧ recWord t x.vd r 1 = f ∧
  OnlyRecordAndFrame s t rpa fpa ∧ ∀ d, d ≠ c → t.ctx d = s.ctx d

/-- The handler of context c of s has trapped (R22, R381): a HANDLER record r with the cause and the handler's address, its frame
saved with budget 0, and the fault entry running for it. -/
def HandlerTrapped (s t : State) (c r rpa f fpa stk fentry : Nat) (cause : Cause) : Prop :=
  let x := s.ctx c
  EntryRuns s t c .handlerRecord r f fpa stk fentry 0 cause ∧
  FrameHolds { s with ctxs := kput c { x with budget := 0 } s.ctxs } c t.mem fpa x.pfx ∧ bit (recWord t x.vd r 0) 56 = true ∧
  recState t x.vd r = stFaulted ∧ recCause t x.vd r = cause.code ∧ recWord t x.vd r 0 % 2 ^ 48 = x.pc % 2 ^ 48 ∧
  OnlyRecordAndFrame s t rpa fpa ∧ ∀ d, d ≠ c → t.ctx d = s.ctx d

/-- The unit of context c of s is PARKED by a stop (R43, R44): its frame is saved, its record has the cause and the resume address,
and the context is free, or kept for the unit of a co-resident launch (R40). -/
def UnitParked (s t : State) (c rpa f fpa : Nat) (st : Stop) : Prop :=
  let x := s.ctx c
  let r := x.record
  FrameHolds s c t.mem fpa st.pfx ∧ recState t x.vd r = stParked ∧ recCause t x.vd r = st.cause.code ∧
  recWord t x.vd r 0 % 2 ^ 48 = st.resume % 2 ^ 48 ∧ recWord t x.vd r 1 = f ∧ bit (recWord t x.vd r 0) 59 = true ∧
  OnlyRecordAndFrame s t rpa fpa ∧ (t.ctx c).role = .idle ∧ (t.ctx c).record = 0 ∧
  (t.ctx c).heldUnit = (if x.coresUnit then some r else none) ∧ (∀ d, d ≠ c → t.ctx d = s.ctx d) ∧ placeOf t x.vd r = pierOfCtx c

/-- The unit of the executing context has suspended (R41): its record has s1 to s3, urgency, budget, the state and the wait
object, and goes on at `next`; the context is free, or kept for the unit of a co-resident launch; a READY unit walks. -/
def Suspended (s t : State) (rpa st obj next : Nat) : Prop :=
  let x := s.me
  let r := x.record
  let old := recWord s x.vd r
  let new := recWord t x.vd r
  new 0 % 2 ^ 48 = next % 2 ^ 48 ∧ bits (new 0) 55 48 = st ∧ bits (new 0) 63 56 = bits (old 0) 63 56 ∧ new 1 = old 1 ∧
  new 2 = old 2 ∧ new 3 = x.urgency.toNat * 2 ^ 32 + old 3 % 2 ^ 32 ∧ new 4 = (obj * 2 ^ 32 + x.budget.toNat) % 2 ^ 64 ∧
  new 5 = (x.getS 1).toNat ∧ new 6 = (x.getS 2).toNat ∧ new 7 = (x.getS 3).toNat ∧
  OnlyRecordAndFrame s t rpa rpa ∧ t.me.role = .idle ∧ t.me.record = 0 ∧ t.me.freed = !x.coresUnit ∧
  t.me.heldUnit = (if x.coresUnit then some r else none) ∧ (∀ c, c ≠ s.cur → t.ctx c = s.ctx c) ∧
  t.walkers = s.walkers ++ (if st = stReady ∧ bit (old 0) 60 = false then [⟨r, x.vd, pierOfCtx s.cur, false⟩] else []) ∧
  t = { s with mem := t.mem, ctxs := t.ctxs, cores := t.cores, walkers := t.walkers, counters := t.counters }

/-- Record r and frame f of a virtual device are mapped, whole, at these local addresses, apart from each other and from the
tables of their walks. -/
def RecordAndFrame (s : State) (vd r rpa f fpa : Nat) : Prop :=
  MappedApart s vd r rpa [(rpa, 64), (fpa, 8192)] ∧ MappedApart s vd f fpa [(rpa, 64), (fpa, 8192)] ∧
  r % 64 = 0 ∧ f % 8192 = 0 ∧ (rpa + 64 ≤ fpa ∨ fpa + 8192 ≤ rpa)

/-- The hardware's own word at a virtual address is this one, at a local address that no walk of the next access reads. -/
def WordAt (s : State) (vd va pa w : Nat) : Prop :=
  MappedApart s vd va pa [(pa, 8)] ∧ leNat (memRead s.mem pa 8) = w

/-- Context c runs the unit of record r from its start (R23): its registers are those that the record of s gives, and the record is
RUNNING. -/
def UnitRuns (s t : State) (c vd r : Nat) : Prop :=
  let x := t.ctx c
  let w (n : Nat) : Word := BitVec.ofNat 64 (recWord s vd r n)
  x.role = .unit ∧ x.vd = vd ∧ x.record = r ∧ x.pc = recWord s vd r 0 % 2 ^ 48 / 4 * 4 ∧ x.getS 1 = w 5 ∧ x.getS 2 = w 6 ∧
  x.getS 3 = w 7 ∧ x.getS 61 = 0x1010000 ∧ (∀ n < 64, n ≠ 1 → n ≠ 2 → n ≠ 3 → n ≠ 61 → x.getS (BitVec.ofNat 6 n) = 0) ∧
  (∀ n, x.fullS n = true) ∧ x.flags = 0 ∧ x.rmode = 0 ∧ x.launchid = BitVec.ofNat 32 (recWord s vd r 2) ∧
  x.unitidx.toNat = bits (recWord s vd r 2) 63 32 ∧ x.urgency.toNat = bits (recWord s vd r 3) 63 32 ∧
  x.budget = BitVec.ofNat 32 (recWord s vd r 4) ∧ recState t vd r = stRunning ∧ ∀ d, d ≠ c → t.ctx d = s.ctx d

/-- Record r of a virtual device, mapped at rpa, is READY, without a cause and without a frame, and no notice's (R19, R23). -/
def ReadyRecord (s : State) (vd r rpa : Nat) : Prop :=
  MappedApart s vd r rpa [(rpa, 64)] ∧ r % 64 = 0 ∧ recState s vd r = stReady ∧ recCause s vd r = 0 ∧
  bit (recWord s vd r 0) 59 = false ∧ ∀ n ∈ s.notices, n.record ≠ r

/-! ### Messages -/

/-- The context has gone on with a value in d; of its registers and fields nothing else changed. -/
def WroteD (s t : State) (d : SReg) (w : Word) : Prop :=
  t.me.getS d = (if d = 0 then 0 else w) ∧ t.me.fullS d = true ∧ SameRegs s t [d] []

/-- The group issues and a producer is in flight; `u` is what the machine is once it has completed with w in d. Nothing is said of
the pier's own state. -/
def ProducesThen (s : State) (i : Instr) (d : SReg) (w : Word) (u : State) : Prop :=
  ∃ t, InFlight s i d t u ∧ WroteD s u d w ∧ SameBytes s u ∧ (∀ c, c ≠ s.cur → u.ctx c = s.ctx c) ∧
    ∀ q, q ≠ pierOfCtx s.cur → u.pier q = s.pier q

/-- Context 3 of a core runs the handler of a message from its start (R321). -/
def HandlerRuns (s t : State) (core : Nat) (m : Msg) (pc : Nat) : Prop :=
  let x := t.ctx (core * 4 + 3)
  let p := pierOfCore m.src
  x.role = .handler ∧ x.pc = pc ∧ x.vd = m.vd ∧ x.jobid = BitVec.ofNat 32 m.jobid ∧ x.record = 0 ∧ x.launchid = 0 ∧
  x.unitidx = 0 ∧ x.urgency = 0 ∧ x.flags = 0 ∧ x.rmode = 0 ∧
  x.getS 1 = BitVec.ofNat 64 (2 ^ 63 + JStat.done.code * 2 ^ 48 + pierX p * 2 ^ 40 + pierY p * 2 ^ 34 + m.src % 8 * 2 ^ 31 +
    m.kind * 2 ^ 29 + m.words.length % 2 ^ 13 * 2 ^ 16) ∧
  x.getS 2 = BitVec.ofNat 64 (m.words.headD 0).toNat ∧ x.getS 3 = BitVec.ofNat 64 (m.words.length - 1) ∧
  (∀ n < 15, x.getS (BitVec.ofNat 6 (4 + n)) = BitVec.ofNat 64 (m.words.getD (1 + n) 0).toNat) ∧ x.getS 61 = 0x1010000 ∧
  (∀ n, x.fullS n = true) ∧ t = s.setCtx (core * 4 + 3) x

/-- What a delivery still writes: words up to the capacity of the receive, then its status word (R319); v and w are the states
behind the two. -/
def DeliveryWrites (u v w : State) (p core : Nat) (d : Delivery) : Prop :=
  let r := d.recv
  let n := if r.sink then 0 else min d.avail r.cap
  let who := recvWho r core
  let ag := jobAgent p r.job
  u.remote = [] ∧ v.remote = [] ∧ u.transfers = [] ∧ v.transfers = [] ∧
  (∀ k, d.done ≤ k → k < n → elementFault u who .write ((r.buffer + 4 * k) % 2 ^ 64) 4 = none) ∧
  (if d.done < n then engWrite u ag r.jobid who ((List.range (n - d.done)).flatMap (fun i =>
      (span ((r.buffer + 4 * (d.done + i)) % 2 ^ 64) 4).zip (leBytes 4 (d.msg.words.getD (d.done + i) 0).toNat))) = .ok v ()
    else v = u) ∧
  engWriteAt v ag r.jobid who (r.descr + 16) (leBytes 8 (statusWord d.msg .done (cutShort d) r.job)) = .ok w ()

/-- A receive of pier p is over in t: the states of the pier's receives have the status word, and no unit waits for it. -/
def ReceiveOver (s t : State) (p job sw : Nat) : Prop :=
  t = { s with piers := t.piers } ∧ (∀ q, q ≠ p → t.pier q = s.pier q) ∧
  t.pier p = { s.pier p with recvStates := (s.pier p).recvStates.map (fun q =>
    if q.job == job then { q with status := some (BitVec.ofNat 64 sw) } else q) }

/-- A receive's poster is here, and does not wait. -/
def PosterRuns (s : State) (p job : Nat) : Prop :=
  ∀ q ∈ (s.pier p).recvStates, (q.unit ≠ 0 ∨ q.ctx ≠ noCtx) ∧ (q.job = job → q.unit = 0 ∨ recState s q.vd q.unit ≠ stWaiting)

/-! ### Frames and entries -/

/-- Context c of t has the registers that the frame at fpa of s gives (R48), and the record of virtual device vd gives the rest (R23). -/
def UnitRestored (s t : State) (c vd r fpa : Nat) : Prop :=
  let y := t.ctx c
  let word (off n : Nat) : Nat := leNat (memRead s.mem (fpa + off) n)
  let ctl (n : Nat) : Nat := word (0x1400 + 8 * n) 8
  y.role = .unit ∧ y.vd = vd ∧ y.record = r ∧ y.pfx = [] ∧ y.loads = [] ∧ y.stop = none ∧
  (∀ n < 64, 0 < n → (y.getS (BitVec.ofNat 6 n)).toNat = word (8 * n) 8 ∧
    y.fullS (BitVec.ofNat 6 n) = (word 0x1350 8).testBit n) ∧
  (∀ n < 32, (y.getV (BitVec.ofNat 5 n)).bits.toNat = word (0x200 + 128 * n) 128 ∧
    (y.getV (BitVec.ofNat 5 n)).tag.toNat = word (0x1300 + n / 2) 1 / 16 ^ (n % 2) % 16 ∧
    (y.getV (BitVec.ofNat 5 n)).side.toNat = word (0x1200 + 8 * n) 8 ∧
    y.fullV (BitVec.ofNat 5 n) = (word 0x1358 4).testBit n) ∧
  (∀ n < 8, 0 < n → (y.getK (BitVec.ofNat 3 n)).toNat = word (0x1310 + 8 * n) 8 ∧
    y.fullK (BitVec.ofNat 3 n) = (word 0x135C 1).testBit n) ∧
  y.flags.toNat = ctl 7 % 32 ∧ y.rmode.toNat = ctl 8 % 4 ∧ y.stkbase.toNat = ctl 11 % 2 ^ 48 / 65536 * 65536 ∧
  y.cause.toNat = ctl 13 % 2 ^ 27 ∧ y.faddr.toNat = ctl 14 ∧ y.fpc.toNat = ctl 15 % 2 ^ 48 ∧ y.lastjob.toNat = ctl 23 % 65536 ∧
  y.unitidx.toNat = bits (recWord s vd r 2) 63 32 ∧ y.urgency.toNat = bits (recWord s vd r 3) 63 32

/-- The context is idle and free: it holds no unit, but for a unit of a co-resident launch that it stays kept for (R40). -/
def CtxFreed (x y : Ctx) (kept : Option Nat) : Prop :=
  y.role = .idle ∧ y.record = 0 ∧ y.freed = kept.isNone ∧ y.heldUnit = kept ∧ y.stkbase = x.stkbase ∧ y.vd = x.vd

/-- This record of a virtual device has become READY with a cause and walks from pier p; nothing else changed but memory at rpa. -/
def BecomesReady (s t : State) (vd r rpa p cause : Nat) : Prop :=
  recState t vd r = stReady ∧ recCause t vd r = cause ∧ (∀ n < 8, 0 < n → n ≠ 4 → recWord t vd r n = recWord s vd r n) ∧
  recWord t vd r 4 % 2 ^ 32 = recWord s vd r 4 % 2 ^ 32 ∧ recWord t vd r 0 % 2 ^ 48 = recWord s vd r 0 % 2 ^ 48 ∧ OnlyRecordAndFrame s t rpa rpa ∧
  t.walkers = s.walkers ++ (if bit (recWord s vd r 0) 60 then [] else [⟨r, vd, p, false⟩]) ∧ t.ctxs = s.ctxs

end Sys2Proof.Machine
end

