-- ==== Sys2Proof/Certificates/Slice0/Obligations.lean ====
section
/-!
DEFINITION. The statements for the provers, one definition each. Every statement names the rule of the spec it comes from.
-/
open Sys2Proof Sys2Proof.Machine

/-! ### Scalar instructions -/

/-- R101: the three-register integer instructions compute F(a, b) into d, and change nothing else. -/
def Obligations.IntegerThreeRegister : Prop :=
  ∀ (s : State) (o : R3), FullS s [o.a, o.b, o.d] → GuardOn s o.g →
    let a := s.me.getS o.a
    let b := s.me.getS o.b
    let n := b.toNat % 64
    (Accepts s accIS →
      GivesS s (.add o) o.d (narrow64 (saturates s) (a.toInt + b.toInt)) ∧
      GivesS s (.sub o) o.d (narrow64 (saturates s) (a.toInt - b.toInt)) ∧
      GivesS s (.mul o) o.d (narrow64 (saturates s) (a.toInt * b.toInt))) ∧
    (Accepts s accNone →
      GivesS s (.mulh o) o.d (BitVec.ofInt 64 (a.toInt * b.toInt / 2 ^ 64)) ∧
      GivesS s (.mulhn o) o.d (BitVec.ofNat 64 (a.toNat * b.toNat / 2 ^ 64)) ∧
      GivesS s (.and o) o.d (a &&& b) ∧ GivesS s (.or o) o.d (a ||| b) ∧ GivesS s (.xor o) o.d (a ^^^ b) ∧
      GivesS s (.shl o) o.d (BitVec.ofNat 64 (a.toNat * 2 ^ n)) ∧
      GivesS s (.shr o) o.d (BitVec.ofNat 64 (a.toNat / 2 ^ n)) ∧
      GivesS s (.sar o) o.d (BitVec.ofInt 64 (a.toInt / 2 ^ n)) ∧
      GivesS s (.rot o) o.d (BitVec.ofNat 64 (a.toNat * 2 ^ n + a.toNat / 2 ^ (64 - n))) ∧
      GivesS s (.min o) o.d (BitVec.ofInt 64 (min a.toInt b.toInt)) ∧
      GivesS s (.max o) o.d (BitVec.ofInt 64 (max a.toInt b.toInt)) ∧
      GivesS s (.minn o) o.d (BitVec.ofNat 64 (min a.toNat b.toNat)) ∧
      GivesS s (.maxn o) o.d (BitVec.ofNat 64 (max a.toNat b.toNat)) ∧
      GivesS s (.lea o) o.d (BitVec.ofNat 64 (a.toNat + b.toNat * 128)))

/-- R102: division and remainder, with its two corners. -/
def Obligations.DivisionAndRemainder : Prop :=
  ∀ (s : State) (o : R3), FullS s [o.a, o.b, o.d] → GuardOn s o.g → Accepts s accNone →
    let a := s.me.getS o.a
    let b := s.me.getS o.b
    (b = 0 → GivesS s (.div o) o.d (-1) ∧ GivesS s (.divn o) o.d (-1) ∧ GivesS s (.rem o) o.d a ∧
      GivesS s (.remn o) o.d a) ∧
    (b ≠ 0 → GivesS s (.divn o) o.d (BitVec.ofNat 64 (a.toNat / b.toNat)) ∧
      GivesS s (.remn o) o.d (BitVec.ofNat 64 (a.toNat % b.toNat))) ∧
    (a.toInt = -(2 ^ 63) → b.toInt = -1 → GivesS s (.div o) o.d a ∧ GivesS s (.rem o) o.d 0) ∧
    (b ≠ 0 → ¬ (a.toInt = -(2 ^ 63) ∧ b.toInt = -1) →
      ∃ q r : Word, GivesS s (.div o) o.d q ∧ GivesS s (.rem o) o.d r ∧ q.toInt = a.toInt.tdiv b.toInt ∧
        a.toInt = q.toInt * b.toInt + r.toInt)

/-- R103: BFX, BFI and SEL. -/
def Obligations.BitFieldsAndSelect : Prop :=
  ∀ (s : State) (o : R3), FullS s [o.a, o.b, o.d] → Accepts s accNone →
    let a := s.me.getS o.a
    let b := s.me.getS o.b
    let p := b.toNat % 64
    let w := min (b.toNat / 2 ^ 8 % 128) 64
    let f : Nat := a.toNat / 2 ^ p % 2 ^ w
    (GuardOn s o.g →
      GivesS s (.bfx o) o.d (BitVec.ofInt 64 (if b.getLsbD 15 ∧ 0 < w ∧ f.testBit (w - 1) then (f : Int) - 2 ^ w else (f : Int))) ∧
      ∃ x : Word, GivesS s (.bfi o) o.d x ∧ ∀ i, i < 64 →
        x.getLsbD i = if p ≤ i ∧ i < p + w then a.getLsbD (i - p) else (s.me.getS o.d).getLsbD i) ∧
    (s.me.fullK o.g.slot = true →
      GivesS s (.sel o) o.d (if (guardWord s.me o.g).getLsbD 0 then a else b))

/-- R101: CLZ, POPC and MOV.
R104: the immediate instructions; the immediate is sign-extended and XIMM extends it (R76). -/
def Obligations.OneSourceAndImmediateInstructions : Prop :=
  (∀ (s : State) (o : R2), FullS s [o.a, o.d] → GuardOn s o.g → Accepts s accNone →
     let a := s.me.getS o.a
     (∃ n, n ≤ 64 ∧ GivesS s (.clz o) o.d (BitVec.ofNat 64 n) ∧ a.toNat < 2 ^ (64 - n) ∧
       (n < 64 → 2 ^ (63 - n) ≤ a.toNat)) ∧
     GivesS s (.popc o) o.d (BitVec.ofNat 64 ((List.range 64).countP (fun i => a.getLsbD i))) ∧
     GivesS s (.mov o) o.d a) ∧
  (∀ (s : State), GuardOn s (modGuard s.me.pfx) →
     (∀ o : I2, FullS s [o.a, o.d] →
       let a := s.me.getS o.a
       let m := immediate s o.imm
       (Accepts s accXGS →
         GivesS s (.addi o) o.d (narrow64 (saturates s) (a.toInt + m.toInt)) ∧
         GivesS s (.muli o) o.d (narrow64 (saturates s) (a.toInt * m.toInt))) ∧
       (Accepts s accXG → GivesS s (.andi o) o.d (a &&& m) ∧ GivesS s (.ori o) o.d (a ||| m) ∧
         GivesS s (.xori o) o.d (a ^^^ m))) ∧
     (∀ o : ISh, FullS s [o.a, o.d] → Accepts s accG →
       let a := s.me.getS o.a
       GivesS s (.shli o) o.d (BitVec.ofNat 64 (a.toNat * 2 ^ o.n.toNat)) ∧
       GivesS s (.shri o) o.d (BitVec.ofNat 64 (a.toNat / 2 ^ o.n.toNat)) ∧
       GivesS s (.sari o) o.d (BitVec.ofInt 64 (a.toInt / 2 ^ o.n.toNat))) ∧
     (∀ o : ID, FullS s [o.d] → Accepts s accXG → GivesS s (.movi o) o.d (immediate s o.imm)))


/-- R105, R109: the compares write all ones or all zeros to their guard and set it full. R106: the guard operations; KCLR leaves the bits. -/
def Obligations.ComparesAndGuardOperations : Prop :=
  (∀ (s : State),
    (∀ o : RCmp, FullS s [o.a, o.b] → GuardOn s o.g → Accepts s accNone →
      let a := s.me.getS o.a
      let b := s.me.getS o.b
      (intCond o.cc a.toInt b.toInt a b → GivesK s (.cmp o) o.k (BitVec.allOnes 64)) ∧
      (¬ intCond o.cc a.toInt b.toInt a b → GivesK s (.cmp o) o.k 0) ∧
      (intCond o.cc a.toNat b.toNat a b → GivesK s (.cmpn o) o.k (BitVec.allOnes 64)) ∧
      (¬ intCond o.cc a.toNat b.toNat a b → GivesK s (.cmpn o) o.k 0) ∧
      GivesK s (.fcmp o) o.k (if condFloat o.cc.toNat (decodeFloat .fp32 (a.toNat % 2 ^ 32))
        (decodeFloat .fp32 (b.toNat % 2 ^ 32)) then BitVec.allOnes 64 else 0)) ∧
    (∀ o : ICmp, FullS s [o.a] → GuardOn s (modGuard s.me.pfx) → Accepts s accXG →
      let a := s.me.getS o.a
      let m := immediate s o.imm
      (intCond o.cc a.toInt m.toInt a m → GivesK s (.cmpi o) o.k (BitVec.allOnes 64)) ∧
      (¬ intCond o.cc a.toInt m.toInt a m → GivesK s (.cmpi o) o.k 0) ∧
      (intCond o.cc a.toNat m.toNat a m → GivesK s (.cmpni o) o.k (BitVec.allOnes 64)) ∧
      (¬ intCond o.cc a.toNat m.toNat a m → GivesK s (.cmpni o) o.k 0))) ∧
  (∀ (s : State), Accepts s accNone →
    (∀ o : K3, GuardOn s o.g → s.me.fullK o.a = true → s.me.fullK o.b = true →
      GivesK s (.kand o) o.d (s.me.getK o.a &&& s.me.getK o.b) ∧
      GivesK s (.kor o) o.d (s.me.getK o.a ||| s.me.getK o.b) ∧
      GivesK s (.kxor o) o.d (s.me.getK o.a ^^^ s.me.getK o.b)) ∧
    (∀ o : K2, GuardOn s o.g → s.me.fullK o.a = true →
      GivesK s (.knot o) o.d (~~~ (s.me.getK o.a)) ∧ GivesK s (.kmov o) o.d (s.me.getK o.a)) ∧
    (∀ o : KG, GuardOn s o.g → s.me.fullK o.a = true → FullS s [o.d] → GivesS s (.kget o) o.d (s.me.getK o.a)) ∧
    (∀ o : KD, GuardOn s o.g → ∃ t, exec (.kclr o) s = .next t ∧ (o.d ≠ 0 → t.me.fullK o.d = false) ∧
      t.me.getK o.d = s.me.getK o.d ∧ t.me.flags = s.me.flags ∧
      Goes s t (s.me.pc + 4 * s.me.pfx.length + 4) [] [o.d] []))

/-- R107: the scalar FP instructions form their result by the steps of R78, write it zero-extended, and add its flags. -/
def Obligations.ScalarFloatResults : Prop :=
  ∀ (s : State),
    (∀ o : R3, FullS s [o.a, o.b, o.d] → GuardOn s o.g → Accepts s accF2 →
      let m := modsOf s.me.pfx
      let r := rmodeOf s.me
      let a := (s.me.getS o.a).toNat % 2 ^ 32
      let b := (s.me.getS o.b).toNat % 2 ^ 32
      GivesF s (.fadd o) o.d (arith2 opAdd .fp32 m r a b) ∧ GivesF s (.fsub o) o.d (arith2 opSub .fp32 m r a b) ∧
      GivesF s (.fmul o) o.d (arith2 opMul .fp32 m r a b) ∧ GivesF s (.fdiv o) o.d (arith2 opDiv .fp32 m r a b) ∧
      GivesF s (.fmin o) o.d (arith2 opMin .fp32 m r a b) ∧ GivesF s (.fmax o) o.d (arith2 opMax .fp32 m r a b) ∧
      GivesF s (.ffma o) o.d (arithFma .fp32 m r a b ((s.me.getS o.d).toNat % 2 ^ 32))) ∧
    (∀ o : R2, FullS s [o.a, o.d] → GuardOn s o.g → Accepts s accF1 →
      GivesF s (.fsqrt o) o.d (arith1 sqrtX .fp32 (modsOf s.me.pfx) (rmodeOf s.me) ((s.me.getS o.a).toNat % 2 ^ 32)))


/-- R108, for a group without MOD: the operand that is not NaN, the canonical NaN for two, else the smaller or larger in the
order that has −0 below +0, all without a flag. R107: the special values, on FP32 patterns without MOD and in mode 0: NaN and NV for ∞ − ∞, 0 × ∞, 0 / 0, ∞ / ∞ and √−1; a
signed infinity and DZ for a division by zero; √−0; the signs of zero sums in modes 0 and 2. -/
def Obligations.FloatSpecialValuesAndMinMax : Prop :=
  (let isNan (x : Nat) : Bool := 0x7F800000 < x % 2 ^ 31
  let key (x : Nat) : Int := if x < 2 ^ 31 then x else 2 ^ 31 - 1 - x
  ∀ (s : State) (o : R3), FullS s [o.a, o.b, o.d] → GuardOn s o.g → s.me.pfx.filter isMod = [] → Accepts s accF2 →
    let a := (s.me.getS o.a).toNat % 2 ^ 32
    let b := (s.me.getS o.b).toNat % 2 ^ 32
    let pick (z : Nat) : Nat :=
      if isNan a ∧ isNan b then 0x7FC00000 else if isNan a then b else if isNan b then a else z
    GivesF s (.fmin o) o.d (pick (if key a ≤ key b then a else b), 0) ∧
    GivesF s (.fmax o) o.d (pick (if key a ≤ key b then b else a), 0)) ∧
  (let m := modsOf []
  let nan := (0x7FC00000, FlagBits.nv)
  arith2 opSub .fp32 m .nearest 0x7F800000 0x7F800000 = nan ∧ arith2 opMul .fp32 m .nearest 0 0xFF800000 = nan ∧
  arith2 opDiv .fp32 m .nearest 0x80000000 0 = nan ∧ arith2 opDiv .fp32 m .nearest 0x7F800000 0xFF800000 = nan ∧
  arith1 sqrtX .fp32 m .nearest 0xBF800000 = nan ∧ arithFma .fp32 m .nearest 0 0x7F800000 0x7FC00001 = nan ∧
  arith2 opDiv .fp32 m .nearest 0xBF800000 0 = (0xFF800000, FlagBits.dz) ∧
  arith1 sqrtX .fp32 m .nearest 0x80000000 = (0x80000000, FlagBits.none) ∧
  arith2 opAdd .fp32 m .nearest 0 0x80000000 = (0, FlagBits.none) ∧
  arith2 opAdd .fp32 m .down 0 0x80000000 = (0x80000000, FlagBits.none) ∧
  arith2 opAdd .fp32 m .down 0 0 = (0, FlagBits.none) ∧ arith2 opSub .fp32 m .down 0x3F800000 0x3F800000 = (0x80000000, FlagBits.none))

/-- R110: FCVT between FP32 and a format: the operand is the low bits, an I result is sign-extended, any other
zero-extended. -/
def Obligations.ScalarConversions : Prop :=
  ∀ (s : State) (o : RCvt), FullS s [o.a, o.d] → GuardOn s o.g → Accepts s accF1 →
    let a := (s.me.getS o.a).toNat
    let out := convert .fp32 o.f (modsOf s.me.pfx) (rmodeOf s.me) (a % 2 ^ 32)
    let frm := convert o.f .fp32 (modsOf s.me.pfx) (rmodeOf s.me) (a % 2 ^ fmtBits o.f)
    (o.f ∈ [.i64, .i32, .i16, .i8] → ∃ w : Word, GivesF s (.fcvtTo o) o.d (w.toNat, out.2) ∧
      ∀ i, i < 64 → w.getLsbD i = out.1.testBit (min i (fmtBits o.f - 1))) ∧
    (o.f ∉ [.i64, .i32, .i16, .i8] → GivesF s (.fcvtTo o) o.d out) ∧
    GivesF s (.fcvtFrom o) o.d frm

/-- R72, R111, R112: where branches, calls, jumps and LOOP go, and what they write. -/
def Obligations.BranchesAndLoops : Prop :=
  ∀ (s : State),
    let word : Int := s.me.pc + 4 * s.me.pfx.length
    let follow : Nat := (s.me.pc + 4 * s.me.pfx.length + 4) % 2 ^ 48
    let target (off : Int) : Nat := ((word + 4 * off) % 2 ^ 48).toNat
    (Accepts s accNone →
      (∀ o : BOff, GuardOn s o.g → GoesTo s (.br o) (target o.off.toInt)) ∧
      (∀ o : BOff, GuardOn s o.g → FullS s [62] →
        JumpsWith s (.brl o) (target o.off.toInt) 62 (BitVec.ofNat 64 follow)) ∧
      (∀ o : RA, GuardOn s o.g → FullS s [o.a] →
        ((s.me.getS o.a).toNat % 4 = 0 → GoesTo s (.jr o) (s.me.getS o.a).toNat) ∧
        ((s.me.getS o.a).toNat % 4 ≠ 0 → Raises s (.jr o) .address (some (s.me.getS o.a)))) ∧
      (∀ o : R2, GuardOn s o.g → FullS s [o.a, o.d] →
        ((s.me.getS o.a).toNat % 4 = 0 →
          JumpsWith s (.jrl o) (s.me.getS o.a).toNat o.d (BitVec.ofNat 64 follow)) ∧
        ((s.me.getS o.a).toNat % 4 ≠ 0 → Raises s (.jrl o) .address (some (s.me.getS o.a))))) ∧
    (∀ o : ID, GuardOn s (modGuard s.me.pfx) → FullS s [o.d] → Accepts s accG →
      let d := s.me.getS o.d
      (d = 0 → GoesTo s (.loop o) follow) ∧
      (d = 1 → GivesS s (.loop o) o.d 0) ∧
      (d ≠ 0 → d ≠ 1 → JumpsWith s (.loop o) (target o.imm.toInt) o.d (d - 1)))

/-- R117, R118: GETC and RDCYC. GETC reads the register that the table of R96 names. -/
def Obligations.ReadsOfControlRegisters : Prop :=
  ∀ (s : State),
    (∀ o : IGet, GuardOn s (modGuard s.me.pfx) → FullS s [o.d] → Accepts s accG →
      let x := s.me
      let k := s.cur / 4
      let p := s.pier (s.cur / 32)
      let pier := s.cur / 32
      let table : List Nat :=
        [ s.cur % 4, (pier % 200 / 25 + 8 * (pier / 200 / 32)) * 2 ^ 24 + pier / 200 * 2 ^ 16 + pier % 200 * 2 ^ 8 + k % 8
        , x.level, x.tenant.toNat, x.jobid.toNat, x.launchid.toNat, x.unitidx.toNat, x.flags.toNat, x.rmode.toNat
        , x.urgency.toNat, x.budget.toNat, x.stkbase.toNat, x.frame.toNat, x.cause.toNat, x.faddr.toNat, x.fpc.toNat
        , (match s.job? x.jobid.toNat with | some j => j.fentry | none => 0), x.enck.toNat, x.enctau.toNat, x.enceps.toNat
        , x.encdict.toNat, p.trsplit, (s.core k).mweight.toNat, x.lastjob.toNat, p.stealr, x.handlercap.toNat]
      ∀ v, table[o.n.toNat]? = some v → GivesS s (.getc o) o.d (BitVec.ofNat 64 v)) ∧
    (∀ o : RD, GuardOn s o.g → FullS s [o.d] → Accepts s accNone → s.me.pure = false →
      GivesS s (.rdcyc o) o.d (s.core (s.cur / 4)).cycles)

/-- R96, R97, R117 (log 29 for handlers): SETC of a value that the register takes, from a level that may write it, makes GETC read that value, and
changes no other control register, no other register, no flag but by SETC FLAGS, and no byte of memory. A refused value is ILLEGAL;
else a register that the level may not write is PRIVILEGE. A register without a Write level, listed as `fixed` with its field bits
(R96, R99), gives ILLEGAL for a value with a reserved bit set and PRIVILEGE for any other. -/
def Obligations.WritesOfControlRegisters : Prop :=
  let writable : List (Nat × Nat × Nat) :=
    [ (7, 0, 2 ^ 5), (8, 0, 2 ^ 2), (9, 0, 2 ^ 32), (10, 3, 2 ^ 32), (13, 2, 2 ^ 27), (14, 2, 2 ^ 64), (15, 2, 2 ^ 48)
    , (16, 3, 2 ^ 48), (17, 0, 16), (18, 0, 2 ^ 32), (19, 0, 2 ^ 32), (20, 0, 4), (21, 0, 9), (22, 0, 16), (24, 0, 32)]
  let fixed : List (Nat × Nat) :=
    [ (0, 3), (1, 0x0F3FFF07), (2, 3), (3, 2 ^ 16 - 1), (4, 2 ^ 32 - 1), (5, 2 ^ 32 - 1), (6, 2 ^ 32 - 1), (11, 0xFFFFFFFF0000)
    , (12, 2 ^ 64 - 1), (23, 2 ^ 16 - 1), (25, 2 ^ 9 - 1)]
  ∀ (s : State) (o : ISet), GuardOn s (modGuard s.me.pfx) → FullS s [o.a] → Accepts s accG →
    let w := s.me.getS o.a
    let n := o.n.toNat
    let bad := (n = 17 ∨ n = 22) ∧ w = 0 ∨ n = 16 ∧ w.toNat % 4 ≠ 0
    (∀ e ∈ writable, e.1 = n → w.toNat < e.2.2 → ¬ bad → e.2.1 ≤ s.me.level → (n = 16 → (s.job? s.me.jobid.toNat).isSome) →
      ∃ t, exec (.setc o) s = .next t ∧ t.cur = s.cur ∧ controlReg t s.cur n = w ∧
        (∀ m, m < 26 → m ≠ n → controlReg t s.cur m = controlReg s s.cur m) ∧
        SameS s.me t.me [] ∧ SameK s.me t.me [] ∧ SameV s.me t.me [] ∧ SameBytes s t ∧
        t.me.pc = (s.me.pc + 4 * s.me.pfx.length + 4) % 2 ^ 48 ∧ t.me.pfx = [] ∧
        (∀ c, c ≠ s.cur → t.ctx c = s.ctx c)) ∧
    (∀ e ∈ writable, e.1 = n → (e.2.2 ≤ w.toNat ∨ bad) → Raises s (.setc o) .illegal none) ∧
    (∀ e ∈ writable, e.1 = n → w.toNat < e.2.2 → ¬ bad → s.me.level < e.2.1 → Raises s (.setc o) .privilege none) ∧
    (∀ e ∈ fixed, e.1 = n → (w.toNat &&& e.2 ≠ w.toNat → Raises s (.setc o) .illegal none) ∧
      (w.toNat &&& e.2 = w.toNat → Raises s (.setc o) .privilege none))

/-- R74, R92: a scalar instruction whose guard is full and false completes with no effect, whatever its sources hold; one whose
guard is empty, or a source of which is empty under the wait policy, waits; and so does a write to a register that a producer
is still to write. A register that is empty with no such producer is written at once (R92). R22: an instruction of a handler that must wait on an empty guard or source traps with HANDLER_BLOCK. -/
def Obligations.GuardsSourcesAndHandlers : Prop :=
  (∀ (s : State) (o : R3), Accepts s accNone →
    ∀ i ∈ [Instr.add o, .sub o, .mul o, .mulh o, .mulhn o, .div o, .divn o, .rem o, .remn o, .and o, .or o, .xor o, .shl o, .shr o,
      .sar o, .rot o, .min o, .max o, .minn o, .maxn o, .bfx o, .bfi o, .lea o, .fadd o, .fsub o, .fmul o, .fdiv o, .fmin o,
      .fmax o, .ffma o],
    (s.me.fullK o.g.slot = true → (guardWord s.me o.g).getLsbD 0 = false →
      GoesTo s i (s.me.pc + 4 * s.me.pfx.length + 4)) ∧
    (MayWait s → s.me.fullK o.g.slot = false → Waits s i) ∧
    (MayWait s → GuardOn s o.g → (o.ta = false ∧ s.me.fullS o.a = false ∨ o.tb = false ∧ s.me.fullS o.b = false) → Waits s i) ∧
    (MayWait s → GuardOn s o.g → FullS s [o.a, o.b] → s.me.fullS o.d = false →
      (s.me.loadsS o.d = true ∨ jobWrites s o.d = true) → Waits s i) ∧
    (GuardOn s o.g → FullS s [o.a, o.b] → s.me.fullS o.d = false → s.me.loadsS o.d = false → jobWrites s o.d = false →
      i ≠ .bfi o → i ≠ .ffma o → ∃ t, exec i s = .next t ∧ t.me.fullS o.d = true ∧
        Goes s t (s.me.pc + 4 * s.me.pfx.length + 4) [o.d] [] []) ∧
    (GuardOn s o.g → o.ta = true → s.me.fullS o.a = false → (o.tb = true ∨ s.me.fullS o.b = true) →
      s.me.fullS o.d = true → Raises s i .emptyRead none)) ∧
  (∀ (s : State) (o : R3), Accepts s accNone → s.me.role = .handler →
    ∀ i ∈ [Instr.add o, .sub o, .mul o, .div o, .and o, .or o, .xor o, .fadd o, .fmul o, .bfx o],
    (s.me.fullK o.g.slot = false → Raises s i .handlerBlock none) ∧
    (GuardOn s o.g → o.ta = false → s.me.fullS o.a = false → Raises s i .handlerBlock none))

/-- R75, R79, R88: a prefix takes its issue slot and is kept for the instruction of its group; it changes no register, no
memory and not the PC. NOP passes on to the next group; it accepts HINT only, and a word of its opcode with a bit of [23:0] set is no
instruction. -/
def Obligations.PrefixesAndNop : Prop :=
  ∀ (s : State) (f : BitVec 24), s.broken = none →
    (∀ p ∈ [(Instr.ximm f, 0xFC#8), (.modPfx f, 0xFD#8), (.hint f, 0xFE#8)],
      ∃ t, exec p.1 s = .next t ∧ t.me = { s.me with pfx := s.me.pfx ++ [p.2 ++ f] } ∧ Elsewhere s t) ∧
    (groupBad s.me.pfx accNone = false → GoesTo s .nop (s.me.pc + 4 * s.me.pfx.length + 4)) ∧
    (groupBad s.me.pfx accNone = true → Raises s .nop .illegal none) ∧
    decodeWord 0x01000000 = .ok .nop ∧ ∀ n < 2 ^ 24, n ≠ 0 → ∃ e, decodeWord (0x01000000 + n) = .error e

/-! ### Vector instructions -/

/-- R128, R129: the vector FP instructions compute every enabled lane by the steps of R78, in the format that the sources carry. -/
def Obligations.VectorFloatLanes : Prop :=
  ∀ (s : State) (p : Fmt × FloatFmt), p ∈ [(Fmt.fp32, FloatFmt.fp32), (Fmt.bf16, FloatFmt.bf16)] →
    let f := p.1
    let m := modsOf s.me.pfx
    let r := rmodeOf s.me
    let l (v : VNum) (n : Nat) : Nat := laneOf (s.me.getV v) f n
    (∀ o : V3, FullV s [o.a, o.b] → HasTag s.me o.a f → HasTag s.me o.b f → MayWriteV s o.g f o.d → Accepts s accF2 →
      GivesV s (.vadd o) o.g f o.d (fun n => arith2 opAdd p.2 m r (l o.a n) (l o.b n)) ∧
      GivesV s (.vsub o) o.g f o.d (fun n => arith2 opSub p.2 m r (l o.a n) (l o.b n)) ∧
      GivesV s (.vmul o) o.g f o.d (fun n => arith2 opMul p.2 m r (l o.a n) (l o.b n)) ∧
      GivesV s (.vdiv o) o.g f o.d (fun n => arith2 opDiv p.2 m r (l o.a n) (l o.b n)) ∧
      GivesV s (.vmin o) o.g f o.d (fun n => arith2 opMin p.2 m r (l o.a n) (l o.b n)) ∧
      GivesV s (.vmax o) o.g f o.d (fun n => arith2 opMax p.2 m r (l o.a n) (l o.b n)) ∧
      (HasTag s.me o.d f →
        GivesV s (.vfma o) o.g f o.d (fun n => arithFma p.2 m r (l o.a n) (l o.b n) (l o.d n)))) ∧
    (∀ o : V2, FullV s [o.a] → HasTag s.me o.a f → MayWriteV s o.g f o.d → Accepts s accF1 →
      GivesV s (.vsqrt o) o.g f o.d (fun n => arith1 sqrtX p.2 m r (l o.a n)) ∧
      GivesV s (.vrcp o) o.g f o.d (fun n => arith1 rcpX p.2 m r (l o.a n)) ∧
      GivesV s (.vrsq o) o.g f o.d (fun n => arith1 rsqX p.2 m r (l o.a n)) ∧
      GivesV s (.vexp2 o) o.g f o.d (fun n => arith1 exp2X p.2 m r (l o.a n)) ∧
      GivesV s (.vlog2 o) o.g f o.d (fun n => arith1 log2X p.2 m r (l o.a n)))

/-- R130, R131: the vector integer and bit instructions. That VSAR fills with the sign for I tags only is the model's reading
(log 30). -/
def Obligations.VectorIntegerLanes : Prop :=
  ∀ (s : State) (o : V3) (f : Fmt), FullV s [o.a, o.b] → HasTag s.me o.a f → HasTag s.me o.b f → MayWriteV s o.g f o.d →
    let a (n : Nat) : Nat := laneOf (s.me.getV o.a) f n
    let b (n : Nat) : Nat := laneOf (s.me.getV o.b) f n
    let sh (n : Nat) : Nat := b n % fmtBits f
    (f ∈ [.i64, .i32, .i16, .i8, .n32, .n16, .n8] → Accepts s accIS →
      GivesV s (.viadd o) o.g f o.d (fun n => (narrowLane f (saturates s) (laneInt f (a n) + laneInt f (b n)), 0)) ∧
      GivesV s (.visub o) o.g f o.d (fun n => (narrowLane f (saturates s) (laneInt f (a n) - laneInt f (b n)), 0)) ∧
      GivesV s (.vimul o) o.g f o.d (fun n => (narrowLane f (saturates s) (laneInt f (a n) * laneInt f (b n)), 0))) ∧
    (f ∈ [.i64, .i32, .i16, .i8, .n32, .n16, .n8] → Accepts s accNone →
      GivesV s (.vshl o) o.g f o.d (fun n => (a n * 2 ^ sh n, 0)) ∧
      GivesV s (.vshr o) o.g f o.d (fun n => (a n / 2 ^ sh n, 0)) ∧
      GivesV s (.vsar o) o.g f o.d (fun n => (narrowLane f false (laneInt f (a n) / 2 ^ sh n), 0)) ∧
      GivesV s (.vimin o) o.g f o.d (fun n => (narrowLane f false (min (laneInt f (a n)) (laneInt f (b n))), 0)) ∧
      GivesV s (.vimax o) o.g f o.d (fun n => (narrowLane f false (max (laneInt f (a n)) (laneInt f (b n))), 0))) ∧
    (f ≠ .e2m1x → Accepts s accNone →
      GivesV s (.vand o) o.g f o.d (fun n => (a n &&& b n, 0)) ∧ GivesV s (.vor o) o.g f o.d (fun n => (a n ||| b n, 0)) ∧
      GivesV s (.vxor o) o.g f o.d (fun n => (a n ^^^ b n, 0)))

/-- R132, R133, R109: VCMP, VICMP and VNZ set guard bit n where lane n is enabled and its condition holds, and clear every other
bit, those beyond the lanes too; no lane need be enabled. -/
def Obligations.VectorComparesWriteAGuard : Prop :=
  ∀ (s : State), Accepts s accNone →
    (∀ (o : VCmp) (f : Fmt), s.me.fullK o.g.slot = true → FullV s [o.a, o.b] → HasTag s.me o.a f → HasTag s.me o.b f →
      let a (n : Nat) : Nat := laneOf (s.me.getV o.a) f n
      let b (n : Nat) : Nat := laneOf (s.me.getV o.b) f n
      (∀ ff, (f, ff) ∈ [(Fmt.fp32, FloatFmt.fp32), (Fmt.bf16, FloatFmt.bf16)] → ∃ w, GivesK s (.vcmp o) o.k w ∧ ∀ n < 64,
        w.getLsbD n = decide (n < fmtLanes f ∧ LaneOn (guardWord s.me o.g) f n = true ∧
          condFloat o.cc.toNat (decodeFloat ff (a n)) (decodeFloat ff (b n)) = true)) ∧
      (f ∈ [.i64, .i32, .i16, .n32, .n16] → ∃ w, GivesK s (.vicmp o) o.k w ∧ ∀ n < 64,
        (w.getLsbD n = true ↔ n < fmtLanes f ∧ LaneOn (guardWord s.me o.g) f n = true ∧
          intCond o.cc (laneInt f (a n)) (laneInt f (b n)) (BitVec.ofNat 64 (a n)) (BitVec.ofNat 64 (b n))))) ∧
    (∀ (o : VNzO) (f : Fmt), s.me.fullK o.g.slot = true → FullV s [o.a] → HasTag s.me o.a f →
      f ∈ [.i64, .i32, .i16, .n32, .n16, .fp32, .bf16, .fp16] →
      let zero (x : Nat) : Bool := if f ∈ [.fp32, .bf16, .fp16] then x % 2 ^ (fmtBits f - 1) = 0 else x = 0
      ∃ w, GivesK s (.vnz o) o.k w ∧ ∀ n < 64, w.getLsbD n = decide (n < fmtLanes f ∧ LaneOn (guardWord s.me o.g) f n = true ∧
        zero (laneOf (s.me.getV o.a) f n) = false))

/-- R134, R135, R137, R142 to R145: copies, broadcasts, VIOTA, VZERO, VINS, VTAG and VSIDE.set.
R138 to R141: permutations of lanes. That VSEL and VCOMP write every lane is the model's reading (log 31). -/
def Obligations.VectorMovesAndPermutations : Prop :=
  (∀ (s : State), Accepts s accNone →
     (∀ (o : V2) (f : Fmt), FullV s [o.a] → HasTag s.me o.a f → MayWriteV s o.g f o.d →
       ∃ r, GivesR s (.vmov o) o.d r 0 ∧ r.tag = BitVec.ofNat 4 f.code ∧
         (∀ n < fmtLanes f, laneOf r f n = if LaneOn (guardWord s.me o.g) f n then laneOf (s.me.getV o.a) f n
           else laneOf (s.me.getV o.d) f n) ∧
         r.side = if ∀ n < fmtLanes f, LaneOn (guardWord s.me o.g) f n = true then (s.me.getV o.a).side
           else (s.me.getV o.d).side) ∧
     (∀ o : VSF, FullS s [o.a] → MayWriteV s o.g o.f o.d →
       GivesV s (.vbcast o) o.g o.f o.d (fun _ => ((s.me.getS o.a).toNat, 0))) ∧
     (∀ o : VF, MayWriteV s o.g o.f o.d →
       (o.f ∈ [.i64, .i32, .i16, .i8, .n32, .n16, .n8] → GivesV s (.viota o) o.g o.f o.d (fun n => (n, 0))) ∧
       (∀ p ∈ [(Fmt.fp32, FloatFmt.fp32), (Fmt.bf16, FloatFmt.bf16)], o.f = p.1 →
         GivesV s (.viota o) o.g o.f o.d (fun n => (encodeFloat p.2 (FVal.ofInt n), 0))) ∧
       (o.f ≠ .e2m1x → GivesV s (.vzero o) o.g o.f o.d (fun _ => (0, 0))) ∧
       (o.f = .e2m1x → ∃ r, GivesR s (.vzero o) o.d r 0 ∧ r.tag = 12 ∧
         (∀ n < 256, laneOf r .e2m1x n = if LaneOn (guardWord s.me o.g) .e2m1x n then 0 else laneOf (s.me.getV o.d) .e2m1x n) ∧
         ∀ b < 4, r.side.toNat / 2 ^ (16 * b) % 2 ^ 16 = if (guardWord s.me o.g).toNat / 2 ^ (16 * b) % 2 ^ 16 = 0xFFFF then 127
           else (s.me.getV o.d).side.toNat / 2 ^ (16 * b) % 2 ^ 16)) ∧
     (∀ o : VF, GuardOn s o.g → FullV s [o.d] →
       GivesR s (.vtag o) o.d { s.me.getV o.d with tag := BitVec.ofNat 4 o.f.code } 0) ∧
     (∀ o : VS, GuardOn s o.g → FullS s [o.a] → FullV s [o.d] →
       GivesR s (.vsideSet o) o.d { s.me.getV o.d with side := s.me.getS o.a } 0) ∧
     (∀ (o : VIn) (f : Fmt), FullS s [o.a, o.b] → FullV s [o.d] → HasTag s.me o.d f → f ≠ .e2m1x →
       s.me.fullK o.g.slot = true → LaneOn (guardWord s.me o.g) f ((s.me.getS o.b).toNat % fmtLanes f) = true →
       ∃ r, GivesR s (.vins o) o.d r 0 ∧ r.tag = (s.me.getV o.d).tag ∧ r.side = (s.me.getV o.d).side ∧
         ∀ n < fmtLanes f, laneOf r f n = if n = (s.me.getS o.b).toNat % fmtLanes f then (s.me.getS o.a).toNat % 2 ^ fmtBits f
           else laneOf (s.me.getV o.d) f n)) ∧
  (∀ (s : State) (f : Fmt), f ≠ .e2m1x → Accepts s accNone →
     let l (v : VNum) (n : Nat) : Nat := laneOf (s.me.getV v) f n
     (∀ (o : V3) (fb : Fmt), FullV s [o.a, o.b] → HasTag s.me o.a f → HasTag s.me o.b fb →
       fb ∈ [.i64, .i32, .i16, .i8, .n32, .n16, .n8] → fmtBits fb = fmtBits f → MayWriteV s o.g f o.d →
       GivesV s (.vperm o) o.g f o.d (fun n => (l o.a (laneOf (s.me.getV o.b) fb n % fmtLanes f), 0))) ∧
     (∀ o : VSl, FullS s [o.b] → FullV s [o.a - 1, o.a, o.a + 1] →
       HasTag s.me (o.a - 1) f → HasTag s.me o.a f → HasTag s.me (o.a + 1) f → MayWriteV s o.g f o.d →
       let k := (s.me.getS o.b).toInt
       let L : Int := fmtLanes f
       GivesV s (.vslide o) o.g f o.d (fun n =>
         let p : Int := n + k
         (if 0 ≤ p ∧ p < L then l o.a p.toNat else if L ≤ p ∧ p < 2 * L then l (o.a + 1) (p - L).toNat
          else if -L ≤ p ∧ p < 0 then l (o.a - 1) (p + L).toNat else 0, 0))) ∧
     (∀ o : V3, FullV s [o.a, o.b, o.d] → HasTag s.me o.a f → HasTag s.me o.b f → s.me.fullK o.g.slot = true →
       ∃ r, GivesR s (.vsel o) o.d r 0 ∧ r.tag = BitVec.ofNat 4 f.code ∧ r.side = 0 ∧
         ∀ n < fmtLanes f, laneOf r f n = if LaneOn (guardWord s.me o.g) f n then l o.a n else l o.b n) ∧
     (∀ o : V2, FullV s [o.a, o.d] → HasTag s.me o.a f → s.me.fullK o.g.slot = true →
       let on := (List.range (fmtLanes f)).filter (fun n => LaneOn (guardWord s.me o.g) f n)
       ∃ r, GivesR s (.vcomp o) o.d r 0 ∧ r.tag = BitVec.ofNat 4 f.code ∧ r.side = 0 ∧
         ∀ n < fmtLanes f, laneOf r f n = match on[n]? with | some m => l o.a m | none => 0) ∧
     (∀ o : V2, FullV s [o.a] → HasTag s.me o.a f → MayWriteV s o.g f o.d →
       GivesV s (.vexpd o) o.g f o.d (fun n =>
         (l o.a ((List.range n).countP (fun m => LaneOn (guardWord s.me o.g) f m)), 0))))


/-- R93, R136, R145, R146: the instructions that bring a vector down to a scalar are producers: their destination is empty from
issue until LOAD_COMPLETE, which gives it the result. -/
def Obligations.VectorToScalarProducers : Prop :=
  ∀ (s : State), Accepts s accNone → s.me.stop = none →
    (∀ (o : VEx) (f : Fmt), GuardOn s o.g → FullV s [o.a] → FullS s [o.b, o.d] → HasTag s.me o.a f → f ≠ .e2m1x →
      let x := laneOf (s.me.getV o.a) f ((s.me.getS o.b).toNat % fmtLanes f)
      Produces s (.vextr o) o.d (BitVec.ofInt 64 (laneInt f x)) 0) ∧
    (∀ o : SV, GuardOn s o.g → FullV s [o.a] → FullS s [o.d] → Produces s (.vsideGet o) o.d (s.me.getV o.a).side 0) ∧
    (∀ (o : SV) (f : Fmt), s.me.fullK o.g.slot = true → FullV s [o.a] → FullS s [o.d] → HasTag s.me o.a f →
      let g := guardWord s.me o.g
      let xs : List Int := ((List.range (fmtLanes f)).filter (LaneOn g f)).map (fun n => laneInt f (laneOf (s.me.getV o.a) f n))
      (f ∈ [.i64, .i32, .i16, .i8, .n32, .n16, .n8] →
        Produces s (.vrsum o) o.d (BitVec.ofInt 64 xs.sum) 0 ∧
        (∀ m ∈ xs, (∀ x ∈ xs, x ≤ m) → Produces s (.vrmax o) o.d (BitVec.ofInt 64 m) 0) ∧
        (∀ m ∈ xs, (∀ x ∈ xs, m ≤ x) → Produces s (.vrmin o) o.d (BitVec.ofInt 64 m) 0)) ∧
      (f ∈ [.fp32, .bf16] →
        Produces s (.vrsum o) o.d (BitVec.ofNat 64 (rsumFloat f g (s.me.getV o.a)).1) (rsumFloat f g (s.me.getV o.a)).2 ∧
        (xs = [] → Produces s (.vrmax o) o.d 0xFF800000 0 ∧ Produces s (.vrmin o) o.d 0x7F800000 0))) ∧
    (∀ (o : SV2) (f : Fmt), s.me.fullK o.g.slot = true → FullV s [o.a, o.b] → FullS s [o.d] → HasTag s.me o.a f →
      HasTag s.me o.b f →
      let g := guardWord s.me o.g
      let a := s.me.getV o.a
      let b := s.me.getV o.b
      (f ∈ [.i64, .i32, .i16, .i8, .n32, .n16, .n8] → Produces s (.vdot o) o.d (BitVec.ofInt 64
        (((List.range (fmtLanes f)).filter (LaneOn g f)).map (fun n => laneInt f (laneOf a f n) * laneInt f (laneOf b f n))).sum) 0) ∧
      (f ∈ [.fp32, .bf16] → Produces s (.vdot o) o.d (BitVec.ofNat 64 (rdotFloat f g a b).1) (rdotFloat f g a b).2))

/-- R147 to R149: VCVT, VPACK and VUNPK. A conversion to the source's own format whose MOD changes no value of the
format copies the lanes: the model's reading (log 14). -/
def Obligations.VectorConversions : Prop :=
  ∀ (s : State),
    (∀ (o : VCv) (f : Fmt), FullV s [o.a] → HasTag s.me o.a f → f ≠ .e2m1x → MayWriteV s o.g o.f o.d → Accepts s accF1 →
      (f ≠ o.f ∨ (modsOf s.me.pfx).keeps = false →
        GivesV s (.vcvt o) o.g o.f o.d (fun n => if n < fmtLanes f then
          convert f o.f (modsOf s.me.pfx) (rmodeOf s.me) (laneOf (s.me.getV o.a) f n) else (0, 0))) ∧
      (f = o.f → (modsOf s.me.pfx).keeps = true →
        GivesV s (.vcvt o) o.g o.f o.d (fun n => (laneOf (s.me.getV o.a) f n, 0)))) ∧
    (∀ o : V2, Accepts s accNone → s.me.fullK o.g.slot = true → FullV s [o.a, o.a + 1, o.a + 2, o.a + 3, o.d] →
      (∀ b : VNum, b ∈ [o.a, o.a + 1, o.a + 2, o.a + 3] → HasTag s.me b .bf16) →
      guardWord s.me o.g ≠ 0 → ((∀ b < 4, (guardWord s.me o.g).getLsbD (16 * b) = true) ∨ HasTag s.me o.d .e2m1x) →
      let pk (b : Nat) : Packed := packBlock ((List.range 64).map (fun n =>
        decodeFloat .bf16 (laneOf (s.me.getV (o.a + BitVec.ofNat 5 b)) .bf16 n)))
      ∃ r fl, GivesR s (.vpack o) o.d r fl ∧ r.tag = 12 ∧ ∀ b < 4,
        ((guardWord s.me o.g).getLsbD (16 * b) = true →
          r.side.toNat / 2 ^ (16 * b) % 2 ^ 16 = ((pk b).S + 256 * (pk b).P) % 2 ^ 16 ∧
          ∀ n < 64, laneOf r .e2m1x (64 * b + n) = (pk b).codes.getD n 0 % 16) ∧
        ((guardWord s.me o.g).getLsbD (16 * b) = false →
          r.side.toNat / 2 ^ (16 * b) % 2 ^ 16 = (s.me.getV o.d).side.toNat / 2 ^ (16 * b) % 2 ^ 16 ∧
          ∀ n < 64, laneOf r .e2m1x (64 * b + n) = laneOf (s.me.getV o.d) .e2m1x (64 * b + n))) ∧
    (∀ o : V2, Accepts s accNone → s.me.fullK o.g.slot = true → FullV s [o.a, o.d, o.d + 1, o.d + 2, o.d + 3] →
      HasTag s.me o.a .e2m1x → guardWord s.me o.g ≠ 0 →
      ∃ t, exec (.vunpk o) s = .next t ∧ Goes s t (s.me.pc + 4 * s.me.pfx.length + 4) [] [] [o.d, o.d + 1, o.d + 2, o.d + 3] ∧
        ∀ b < 4, let d := o.d + BitVec.ofNat 5 b
          ((guardWord s.me o.g).getLsbD (16 * b) = false → t.me.getV d = s.me.getV d ∧ t.me.fullV d = true) ∧
          ((guardWord s.me o.g).getLsbD (16 * b) = true → t.me.fullV d = true ∧ (t.me.getV d).tag = 8 ∧ (t.me.getV d).side = 0 ∧
            ∀ n < 64, laneOf (t.me.getV d) .bf16 n =
              (rne16 (decodeE2 ((s.me.getV o.a).side.toNat / 2 ^ (16 * b) % 256) ((s.me.getV o.a).side.toNat / 2 ^ (16 * b + 8) % 256)
                (laneOf (s.me.getV o.a) .e2m1x (64 * b + n)))).1))

/-! ### Memory instructions -/

/-- R92, R155, R163: scalar loads. The destination is empty until the load completes; then it holds the bytes, sign-extended for
LDB, LDH and LDW. Qualifiers 2 and 3 wait for full granules, and 3 leaves them empty. A misaligned address is ADDRESS (R152).
R157: a load with qualifier 2 or 3 that waits on granules issues without the core's issue slot once they are full: its context
then has the load in flight, as if it had issued itself, and the context that issues next is the same. -/
def Obligations.ScalarLoads : Prop :=
  (∀ (s : State) (o : MOp), GuardOn s (modGuard s.me.pfx) → FullS s [o.a, o.d] → Accepts s accXG →
     ∀ e ∈ [(Instr.ldb o, 1, true), (.ldh o, 2, true), (.ldw o, 4, true), (.ldd o, 8, false), (.ldbn o, 1, false),
       (.ldhn o, 2, false), (.ldwn o, 4, false)],
     let n := e.2.1
     let a := dataAddress s o.a o.disp n
     let q := o.q.toNat
     (a % n ≠ 0 → Raises s e.1 .address (some (BitVec.ofNat 64 a))) ∧
     ∀ ls, NothingMeets s → checkAccess (coreOfCtx s.cur) a n n q = none → Reaches s .read (span a n) ls →
       (q < 2 ∨ granulesFull s (granulesOf ls) = true →
         let v := leNat (ls.map (readHere s))
         ∃ t u, Loads s e.1 [o.d] [] (if q = 3 then granulesOf ls else []) t u ∧
           u.me.getS o.d = if o.d = 0 then 0 else
             BitVec.ofInt 64 (if e.2.2 ∧ 2 ^ (8 * n - 1) ≤ v then (v : Int) - 2 ^ (8 * n) else (v : Int))) ∧
       (2 ≤ q → granulesFull s (granulesOf ls) = false → stopDue s.me = false → s.me.role ≠ .handler →
         ∃ t, exec e.1 s = .next t ∧ t.me = s.me ∧ AroundAccess s t ∧ SameBytes s t)) ∧
  (∀ (s s1 : State) (c w : Nat), let x := s.ctx c
     x.busy = true → x.stop = none → x.pageWait = false → x.fencing = false → (s.core (coreOfCtx c)).halted = false →
     fetchWord s c (wordPc x) = .ok s1 w →
     (∀ (o : MOp) (n : Nat) (ls : List Loc), let u : State := { s1 with cur := c }
       (decoded w = some (.ldd o) ∧ n = 8 ∨ decoded w = some (.ldwn o) ∧ n = 4 ∨ decoded w = some (.ldhn o) ∧ n = 2 ∨
         decoded w = some (.ldbn o) ∧ n = 1) → 2 ≤ o.q.toNat → u.me = x → GuardOn u (modGuard x.pfx) → FullS u [o.a, o.d] →
       Accepts u accXG → NothingMeets u → stopDue x = false →
       checkAccess (coreOfCtx c) (dataAddress u o.a o.disp n) n n o.q.toNat = none →
       Reaches u .read (span (dataAddress u o.a o.disp n) n) ls → granulesFull u (granulesOf ls) = true →
       ∃ t, exec (.granuleWaitIssue c) s = .next t ∧ t.cur = s.cur ∧ (t.ctx c).loads.length = x.loads.length + 1 ∧
         (o.d ≠ 0 → (t.ctx c).fullS o.d = false) ∧ (t.ctx c).pc = (x.pc + 4 * x.pfx.length + 4) % 2 ^ 48 ∧
         (∀ g, g ∈ t.granEmpty ↔ g ∈ u.granEmpty ∨ (o.q.toNat = 3 ∧ g ∈ granulesOf ls)) ∧ t.mem = u.mem ∧ t.spad = u.spad ∧
         ∀ d, d ≠ c → t.ctx d = u.ctx d))

/-- R155, R163, R358: scalar stores put the low bytes of d, little-endian, into the store buffer, which drains them to memory; a
misaligned address is ADDRESS (R152).
R358, R159, R171: the oldest entry of a store buffer, that of a store of one entry, leaves: its bytes reach memory and, where it says so, its granules become
full; an entry of FESET sets or clears granules. Nothing else changes. -/
def Obligations.ScalarStores : Prop :=
  (∀ (s : State) (o : MOp), GuardOn s (modGuard s.me.pfx) → FullS s [o.a, o.d] → Accepts s accXG →
     ∀ e ∈ [(Instr.stb o, 1), (.sth o, 2), (.stw o, 4), (.std o, 8)],
     let n := e.2
     let a := dataAddress s o.a o.disp n
     (a % n ≠ 0 → Raises s e.1 .address (some (BitVec.ofNat 64 a))) ∧
     ∀ ls, NothingMeets s → checkAccess (coreOfCtx s.cur) a n n o.q.toNat = none → Reaches s .write (span a n) ls →
       Stores s e.1 (ls.zip (leBytes n (s.me.getS o.d).toNat)) (decide (2 ≤ o.q.toNat))) ∧
  (∀ (s : State) (k : Nat) (e : SbEntry) (es : List SbEntry), (s.core k).sb = e :: es → s.broken = none → s.transfers = [] →
     s.poison = [] → s.queues = [] → (∀ i < 4, (s.ctx (k * 4 + i)).stop = none) → e.place = [] → e.hdrs = [] → e.more = false →
     s.convs = [] → e.addrs.length = e.cells.length → (∀ c ∈ e.cells, nearLoc c.1 = true) →
     ∃ t, exec (.storeBufferDrain k) s = .next t ∧ t.core k = { s.core k with sb := es } ∧
       (∀ l, l ≠ k → t.core l = s.core l) ∧
       t = { s with mem := t.mem, spad := t.spad, granEmpty := t.granEmpty, cores := t.cores } ∧
       (e.feset = none → (∀ l, nearLoc l = true → readHere t l = (lastCell e.cells l).getD (readHere s l)) ∧
         ∀ g, g ∈ t.granEmpty ↔ g ∈ s.granEmpty ∧ ¬ (e.fill = true ∧ g ∈ granulesOf (e.cells.map Prod.fst))) ∧
       (∀ c g n v, e.feset = some (c, g, n, v) → t.mem = s.mem ∧ t.spad = s.spad ∧
         ∀ h, h ∈ t.granEmpty ↔ if c * 8192 + g ≤ h ∧ h < c * 8192 + g + n then v = false else h ∈ s.granEmpty))


/-- R123, R164, R166: vector loads write the enabled lanes with the bytes at their addresses; vector stores store the bytes of
enabled lanes. LDV and STV are aligned to 16 bytes (R152). -/
def Obligations.VectorLoadsAndStores : Prop :=
  ∀ (s : State), NothingMeets s →
    let g := modGuard s.me.pfx
    (∀ (o : VMem), FullS s [o.a] → Accepts s accXG →
      let a := dataAddress s o.a o.disp 128
      let js := (List.range 128).filter (fun j => LaneOn (guardWord s.me g) o.f (j * 8 / fmtBits o.f))
      (a % 16 ≠ 0 → MayWriteV s g o.f o.v → Raises s (.ldv o) .address (some (BitVec.ofNat 64 a))) ∧
      (checkVector (coreOfCtx s.cur) a js o.q.toNat = none →
        (∀ ls, MayWriteV s g o.f o.v → Reaches s .read (js.map (fun j => a + j)) ls →
          (o.q.toNat < 2 ∨ granulesFull s (granulesOf ls) = true) →
          ∃ t u, Loads s (.ldv o) [] [o.v] (if o.q.toNat = 3 then granulesOf ls else []) t u ∧
            (u.me.getV o.v).tag = BitVec.ofNat 4 o.f.code ∧
            (∀ x ∈ js.zip ls, (u.me.getV o.v).bits.toNat / 2 ^ (8 * x.1) % 256 = (readHere s x.2).toNat) ∧
            (∀ n < fmtLanes o.f, LaneOn (guardWord s.me g) o.f n = false →
              laneOf (u.me.getV o.v) o.f n = laneOf (s.me.getV o.v) o.f n)) ∧
        (∀ ls, s.me.fullK g.slot = true → FullV s [o.v] → HasTag s.me o.v o.f →
          Reaches s .write (js.map (fun j => a + j)) ls →
          Stores s (.stv o) (ls.zip (js.map (fun j => BitVec.ofNat 8 ((s.me.getV o.v).bits.toNat / 2 ^ (8 * j)))))
            (decide (2 ≤ o.q.toNat))))) ∧
    (∀ (o : XMem) (f fo : Fmt), FullS s [o.a] → FullV s [o.b, o.v] → Accepts s accG → HasTag s.me o.b fo →
      fo = (if o.o16 then Fmt.n16 else Fmt.n8) → f = [Fmt.n8, .n16, .n32, .i64].getD o.sz.toNat .n8 →
      s.me.fullK g.slot = true →
      let w := 2 ^ o.sz.toNat
      let ids := (List.range (fmtLanes f)).filter (fun n => LaneOn (guardWord s.me g) f n && n < fmtLanes fo)
      let at_ (n : Nat) : Nat := ((s.me.getS o.a).toNat + laneOf (s.me.getV o.b) fo n * w) % 2 ^ 64
      let as := ids.flatMap (fun n => (List.range w).map (fun j => at_ n + j))
      (∀ ls, MayWriteV s g f o.v → indexFault s .read w o.q.toNat (ids.map at_) = none → Reaches s .read as ls →
        (o.q.toNat < 2 ∨ granulesFull s (granulesOf ls) = true) →
        ∃ t u, Loads s (.ldx o) [] [o.v] (if o.q.toNat = 3 then granulesOf ls else []) t u ∧
          (u.me.getV o.v).tag = BitVec.ofNat 4 f.code ∧
          (∀ x ∈ ids.zip (List.range ids.length), laneOf (u.me.getV o.v) f x.1 =
            leNat (((ls.drop (x.2 * w)).take w).map (readHere s))) ∧
          (∀ n < fmtLanes f, LaneOn (guardWord s.me g) f n = false →
            laneOf (u.me.getV o.v) f n = laneOf (s.me.getV o.v) f n)) ∧
      (∀ ls (ft : Fmt), HasTag s.me o.v ft → fmtBits ft = 8 * w → indexFault s .write w o.q.toNat (ids.map at_) = none →
        Reaches s .write as ls →
        Stores s (.stx o) (ls.zip (ids.flatMap (fun n => leBytes w (laneOf (s.me.getV o.v) f n)))) (decide (2 ≤ o.q.toNat))))

/-- R167, R293: TLD and TST through a bound handle. Enabled lanes inside the tensor reach their elements; TLD gives the fill value
in enabled lanes outside, and TST writes nothing there; TST through a read-only handle is WRITE_PROTECT. The state that the
control word's read leaves is `s1`. -/
def Obligations.TensorLoadsAndStores : Prop :=
  ∀ (s s1 : State) (o : TMem) (h : Handle) (ctl : Nat) (ls : List Loc), NothingMeets s → Accepts s accG →
    let g := modGuard s.me.pfx
    let f := lFmt h.copy
    let w := lWidth h.copy
    s.me.fullK g.slot = true → s.me.handle? o.h = some h → recordOk h.copy = true → o.a.toNat + lRank h.copy ≤ 64 →
    (∀ k < lRank h.copy, s.me.fullS (BitVec.ofNat 6 (o.a.toNat + k)) = true) → f ≠ .e2m1x → s.me.pure = false →
    (∃ n < fmtLanes f, LaneOn (guardWord s.me g) f n = true) → ctlRead s h = .ok s1 ctl →
    AroundAccess s s1 → SameBytes s s1 → (ctlTag ctl ≠ 0 → lBase h.copy % 4096 = 0) →
    let all := laneElems h (ctlTag ctl) (coords s.me o.a (lRank h.copy)) (guardWord s.me g)
    let es := insideOf all
    let as := es.flatMap (fun e => (List.range w).map (fun j => e.2.va + j))
    (MayWriteV s g f o.v → indexFault s1 .read w o.q.toNat (es.map (fun e => e.2.va)) = none → Reaches s1 .read as ls →
      (o.q.toNat < 2 ∨ granulesFull s (granulesOf ls) = true) →
      ∃ t u, Loads s (.tld o) [] [o.v] (if o.q.toNat = 3 then granulesOf ls else []) t u ∧
        (u.me.getV o.v).tag = BitVec.ofNat 4 f.code ∧
        (∀ x ∈ es.zip (List.range es.length), laneOf (u.me.getV o.v) f x.1.1 =
          leNat (((ls.drop (x.2 * w)).take w).map (readHere s))) ∧
        (∀ l ∈ all, l.2 = none → laneOf (u.me.getV o.v) f l.1 = lFill h.copy % 2 ^ fmtBits f) ∧
        (∀ n < fmtLanes f, LaneOn (guardWord s.me g) f n = false →
          laneOf (u.me.getV o.v) f n = laneOf (s.me.getV o.v) f n)) ∧
    (FullV s [o.v] → HasTag s.me o.v f →
      (h.ro = true → Raises s (.tst o) .writeProtect none) ∧
      (h.ro = false → indexFault s1 .write w o.q.toNat (es.map (fun e => e.2.va)) = none → Reaches s1 .write as ls →
        Stores s (.tst o) (ls.zip (es.flatMap (fun e => leBytes w (laneOf (s.me.getV o.v) f e.1)))) (decide (2 ≤ o.q.toNat))))

/-- R168, R169: ATOM and CAS return the old word, zero-extended, and replace it in the same operation; CAS only where it equals
d. Nothing else of memory changes.
R170, R171, R177, R178: FENCE, FESET, JWAIT and PREF. A fence with nothing outstanding goes on, and at FABRIC scope an acquire
leaves no CACHE line of the pier (R247); FESET enters the store buffer; JWAIT takes the flags of a finished job and goes on for a
job it does not know; PREF changes nothing. -/
def Obligations.AtomicsAndFences : Prop :=
  (∀ (s : State) (ls : List Loc), NothingMeets s → GuardOn s (modGuard s.me.pfx) → Accepts s accG → s.me.pure = false →
     (∀ (o : EAtom), FullS s [o.a, o.b, o.d] →
       let n := if o.w32 then 4 else 8
       let a := (s.me.getS o.a).toNat
       let b := (s.me.getS o.b).toNat % 2 ^ (8 * n)
       let old := leNat (ls.map (readHere s))
       let int (x : Nat) : Int := if 2 ^ (8 * n - 1) ≤ x then (x : Int) - 2 ^ (8 * n) else x
       let new : Nat := match o.op with
         | .add => (old + b) % 2 ^ (8 * n)
         | .fadd32 => (add32 old b).1
         | .min => if int old ≤ int b then old else b
         | .max => if int old ≤ int b then b else old
         | .minn => min old b | .maxn => max old b
         | .and => old &&& b | .or => old ||| b | .xor => old ^^^ b | .swap => b
       (o.op = .fadd32 → o.w32 = true) →
       checkAccess (coreOfCtx s.cur) a n n 0 = none → Reaches s .write (span a n) ls →
       ∃ t u, exec (.atom o) s = .next t ∧ exec (.loadComplete s.cur s.me.loads.length) t = .next u ∧
         (o.d ≠ 0 → t.me.fullS o.d = false) ∧ u.me.getS o.d = (if o.d = 0 then 0 else BitVec.ofNat 64 old) ∧
         u.me.fullS o.d = true ∧ SameRegs s u [o.d] [] ∧ AroundAccess s u ∧ u.granEmpty = s.granEmpty ∧
         ∀ l, nearLoc l = true → readHere u l = (lastCell (ls.zip (leBytes n new)) l).getD (readHere s l)) ∧
     (∀ (o : ECas), FullS s [o.a, o.b, o.d] →
       let n := if o.w32 then 4 else 8
       let a := (s.me.getS o.a).toNat
       let old := leNat (ls.map (readHere s))
       let new := if old = (s.me.getS o.d).toNat % 2 ^ (8 * n) then (s.me.getS o.b).toNat else old
       checkAccess (coreOfCtx s.cur) a n n 0 = none → Reaches s .write (span a n) ls →
       placeAll s (meWho s) .read true (span a n) = placeAll s (meWho s) .write true (span a n) →
       ∃ t u, exec (.cas o) s = .next t ∧ exec (.loadComplete s.cur s.me.loads.length) t = .next u ∧
         (o.d ≠ 0 → t.me.fullS o.d = false) ∧ u.me.getS o.d = (if o.d = 0 then 0 else BitVec.ofNat 64 old) ∧
         u.me.fullS o.d = true ∧ SameRegs s u [o.d] [] ∧ AroundAccess s u ∧ u.granEmpty = s.granEmpty ∧
         ∀ l, nearLoc l = true → readHere u l = (lastCell (ls.zip (leBytes n new)) l).getD (readHere s l))) ∧
  (∀ (s : State), GuardOn s (modGuard s.me.pfx) →
     (∀ o : EFence, Accepts s accG → AtRest s s.cur →
       ∃ t, exec (.fence o) s = .next t ∧ SameRegs s t [] [] ∧ SameBytes s t ∧
         t = { s with ctxs := t.ctxs, cores := t.cores, decks := t.decks } ∧
         ∀ d, t.deck d = { s.deck d with lines := (s.deck d).lines.filter (fun l => !(o.kind != .release && o.scope == .fabric &&
           d == deckOfPier (s.cur / 32) && l.pier == s.cur / 32)) }) ∧
     (∀ o : EFence, Accepts s accG → stopDue s.me = false → (s.core (coreOfCtx s.cur)).sb = [] → remoteOf s s.cur = true →
       Waits s (.fence o)) ∧
     (∀ o : EFeset, Accepts s accG → FullS s [o.a, o.b] → (s.core (coreOfCtx s.cur)).sb = [] →
       let a := (s.me.getS o.a).toNat
       let b := (s.me.getS o.b).toNat
       let core := coreOfCtx s.cur
       (1024 < b → Raises s (.feset o) .illegal none) ∧
       (0 < b → b ≤ 1024 → a % 16 ≠ 0 → Raises s (.feset o) .address (some (BitVec.ofNat 64 a))) ∧
       (0 < b → b ≤ 1024 → a % 16 = 0 → a + 16 * b ≤ 98304 → ∃ t, exec (.feset o) s = .next t ∧ SameRegs s t [] [] ∧
         SameBytes s t ∧ (t.core core).sb = [⟨s.cur, [], [], false, some (core, a / 16, b, o.v), [], [], false⟩] ∧
         t = { s with ctxs := t.ctxs, cores := t.cores, arrived := t.arrived, remote := t.remote })) ∧
     (∀ o : EA, Accepts s accG → FullS s [o.a] →
       let id := (s.me.getS o.a).toNat % 65536
       let p := s.cur / 32
       let js := (s.pier p).jobs.filter (fun j => j.id == id && jobOf s.me s.cur j)
       (js = [] → GoesTo s (.jwait o) (s.me.pc + 4 * s.me.pfx.length + 4)) ∧
       (∀ j, js.head? = some j → (j.status = .done ∨ j.status = .discarded ∨ j.status = .stale) →
         ∃ t, exec (.jwait o) s = .next t ∧ SameS s.me t.me [] ∧ SameK s.me t.me [] ∧ SameV s.me t.me [] ∧
           t.me.flags = s.me.flags ||| j.flags ∧ SameControls s.me t.me (s.me.pc + 4 * s.me.pfx.length + 4) ∧ SameBytes s t ∧
           (t.pier p).jobs = (s.pier p).jobs.filter (fun k => k.id ≠ id)) ∧
       (∀ j, js.head? = some j → MayWait s → j.status = .running → Waits s (.jwait o))) ∧
     (∀ o : MPref, Accepts s accXG → FullS s [o.a] → GoesTo s (.pref o) (s.me.pc + 4 * s.me.pfx.length + 4)))

/-! ### Engines -/

/-- R84, R74, R189, R47, R371: an engine command issues as a job; the table of commands with their engines. CGATH empties the granules of
its destination as it issues (R180), IMGLD those of its buffers (R232). -/
def Obligations.EngineCommandsIssue : Prop :=
  ∀ (s : State),
    (∀ o : E3, FullS s [o.a, o.b] → ∀ e ∈ [(Instr.copy o, Engine.copy, Cmd.copy, true, false), (.copyg o, .copy, .copyg, true, false),
        (.zscan o, .copy, .zscan, true, false), (.zscanIb o, .copy, .zscanIb, true, false), (.trld o, .matrix, .trld, true, false),
        (.acrd o, .matrix, .acrd, true, false), (.acwr o, .matrix, .acwr, true, false), (.wmark o, .matrix, .wmark, true, true),
        (.imgbld o, .matrix, .imgbld, true, false), (.dinst o, .span, .dinst, false, false), (.datom o, .span, .datom, false, false),
        (.enc o, .span, .enc, true, false), (.dec o, .span, .dec, true, false), (.acci o, .span, .acci, true, false),
        (.dver o, .span, .dver, false, false), (.dqry o, .span, .dqry, true, true), (.imginv o, .span, .imginv, false, false),
        (.send o, .message, .send, false, false), (.sendcM o, .message, .sendcM, false, false)],
      (e.2.2.2.1 = true ∨ s.me.pure = false) → CanIssue s e.2.1 e.2.2.2.2 o.d →
      IssuesJob s s e.1 e.2.1 e.2.2.1 o.d (s.me.getS o.a) (s.me.getS o.b) e.2.2.2.2 [] []) ∧
    (∀ o : EDA, FullS s [o.a] → ∀ e ∈ [(Instr.trfree o, Engine.matrix, Cmd.trfree, true), (.acz o, .matrix, .acz, true),
        (.dret o, .span, .dret, false)],
      (e.2.2.2 = true ∨ s.me.pure = false) → CanIssue s e.2.1 false o.d →
      IssuesJob s s e.1 e.2.1 e.2.2.1 o.d (s.me.getS o.a) 0 false [] []) ∧
    (∀ o : EDB, FullS s [o.b] → s.me.pure = false → CanIssue s .message false o.d →
      IssuesJob s s (.sendc o) .message .sendc o.d 0 (s.me.getS o.b) false [] []) ∧
    (∀ o : EScat, FullS s [o.a, o.b] → CanIssue s .copy false o.d →
      IssuesJob s s (.cscat o) .copy (.cscat o.scl o.kind o.o16) o.d (s.me.getS o.a) (s.me.getS o.b) false [] []) ∧
    (∀ o : EMma, FullS s [o.a, o.b] → CanIssue s .matrix false o.d →
      IssuesJob s s (.mma o) .matrix (.mma (2 * o.trim.toNat) o.ow) o.d (s.me.getS o.a) (s.me.getS o.b) false [] []) ∧
    (∀ o : EAccvt, FullS s [o.a, o.b] → CanIssue s .matrix false o.d →
      IssuesJob s s (.accvt o) .matrix (.accvt o.sat o.f) o.d (s.me.getS o.a) (s.me.getS o.b) false [] []) ∧
    (∀ o : EGath, FullS s [o.a, o.b] → CanIssue s .copy false o.d →
      let b := (s.me.getS o.b).toNat
      let n := b / 2 ^ 32 % 2 ^ 16
      let rsz := (b / 2 ^ 24 % 64 + 1) * 64
      let dst := b % 2 ^ 24
      b / 2 ^ 48 = 0 → b / 2 ^ 30 % 4 = 0 → 1 ≤ n → n ≤ 4096 → dst % 16 = 0 → dst + n * rsz ≤ 98304 →
      IssuesJob s s (.cgath o) .copy (.cgath o.o16) o.d (s.me.getS o.a) (s.me.getS o.b) false []
        ((List.range (n * rsz / 16)).map (fun i => s.cur / 4 * 8192 + dst / 16 + i))) ∧
    (∀ (o : E3) (seen : Bytes) (d : ImgDesc) (ws : List Nat), FullS s [o.a, o.b] → CanIssue s .copy false o.d →
      imgldRead s (s.me.getS o.a) (s.me.getS o.b) = .ok s seen →
      imgldParse (s.cur / 4) (s.me.getS o.a).toNat (s.me.getS o.b).toNat seen = .ok (d, ws) →
      (s.me.fullK (modGuard s.me.pfx).slot = true → (guardWord s.me (modGuard s.me.pfx)).getLsbD 0 = true) →
      IssuesJob s s (.imgld o) .copy .imgld o.d (s.me.getS o.a) (s.me.getS o.b) false seen
        (ws.flatMap (fun w => granuleKeys (s.cur / 4) (w % 2 ^ 24) d.rowBytes)))

/-- R162, R242, R370: an engine read gives the bytes at its places and changes nothing but what a translation leaves; an engine write
puts its bytes at their places and sets the granules it touches full. -/
def Obligations.EngineAccesses : Prop :=
  ∀ (s : State) (ag : Nat) (w : Who) (a n : Nat) (ls : List Loc), NothingWaits s → s.transfers = [] → s.poison = [] →
    s.queues = [] → (∀ c ∈ s.convs, c.locked = []) → oneWindow w.core a n = true →
    (PlacedAt s w .read (span a n) ls →
      ∃ t, engReadAt s ag w a n = .ok t (ls.map (readHere s)) ∧ AroundEngine s t (w.core / 8) ∧ NoBytesWritten s t ∧
        ∀ q, (t.pier q).jobs = (s.pier q).jobs) ∧
    (∀ (jobid : Nat) (bs : Bytes), bs.length = n → PlacedAt s w .write (span a n) ls →
      ∃ t, engWriteAt s ag jobid w a bs = .ok t () ∧ AroundEngine s t (w.core / 8) ∧ BytesWritten s t (ls.zip bs) ∧
        ∀ q, (t.pier q).jobs = (s.pier q).jobs)

/-- R173 to R176, R323: the events of COPY. The start reads the template and claims a slot of the ring; a sector moves its bytes from
source to destination and sets the granules of a scratchpad destination full; a parked job resumes. R172, R174: a parked job of the copy unit whose fault is resolved is RUNNING again, with no cause. -/
def Obligations.CopyEvents : Prop :=
  (∀ (s s1 : State) (p : Nat) (j : Job), CanStep s p j → (j.cmd = .copy ∨ j.cmd = .copyg) →
    let ag := jobAgent p j.id
    (∀ core tb, copyJobOf s p core = none → headOf s p .copy core = (s, some j) →
      engReadAt s ag j.who j.a.toNat 128 = .ok s1 tb → NothingWaits s1 → tRing tb = 0 →
      templateBad s1 j.who.vd (j.cmd == .copyg) tb = false → tTotal tb ≠ 0 →
      ∃ t, exec (.copyJobStart p core) s = .next t ∧ t = { s1 with piers := t.piers } ∧
        JobBecomes s1 t p j { j with started := true, inq := false, tmpl := tb, ring := none }) ∧
    (∀ (core : Nat) (tb d : Bytes) (s2 s3 : State), copyJobOf s p core = none → headOf s p .copy core = (s, some j) →
      engReadAt s ag j.who j.a.toNat 128 = .ok s1 tb → tRing tb ≠ 0 → tRing tb % 32 = 0 →
      engReadAt s1 ag j.who (tRing tb) 32 = .ok s2 d →
      let base := leAt d 0 8
      let cnt := leAt d 8 4
      let n := leAt d 16 8
      base % 32 = 0 → leAt d 12 4 = 0 → (∃ k ≤ 16, cnt = 2 ^ k) → (n + 2 ^ 64 - leAt d 24 8) % 2 ^ 64 < cnt →
      engWriteAt s2 ag j.jobid j.who (tRing tb + 16) (leBytes 8 (n + 1)) = .ok s3 () → NothingWaits s3 →
      templateBad s3 j.who.vd (j.cmd == .copyg) tb = false → tTotal tb ≠ 0 →
      ∃ t, exec (.ringClaimRetry p core) s = .next t ∧ t = { s3 with piers := t.piers } ∧
        JobBecomes s3 t p j { j with started := true, inq := false, tmpl := tb, ring := some ((base + 32 * (n % cnt)) % 2 ^ 64) }) ∧
    (∀ (k : Nat) (rot : Nat × Nat) (bs : Bytes) (wls : List Loc), j.cmd = .copy → j.work = [] → j.ring = none → j.prog2 = 0 →
      tRemote j.tmpl = false → pickRot (s.pier p).rotC (weightOf s p) (canGrant s p) = some (k, rot) →
      copyJobOf s p (p * 8 + k) = some j →
      let n := tElem j.tmpl
      let es := sectorFrom j.tmpl (elemAt j.tmpl false (fun _ => 0)) (tTotal j.tmpl) 64 j.prog []
      let srcs := es.filterMap (fun e => e.src)
      let dsts := es.map (fun e => e.dst)
      let s0 := s.setPier p { s.pier p with rotC := rot }
      es ≠ [] → firstFault s0 j.who .read n srcs = none → engRead s0 ag j.who (srcs.flatMap (fun a => span a n)) = .ok s1 bs →
      NothingWaits s1 → s1.poison = [] → s1.transfers = [] → s1.queues = [] → (s1.pier p).jobs = (s.pier p).jobs →
      firstFault s1 j.who .write n dsts = none →
      PlacedAt s1 j.who .write (dsts.flatMap (fun a => span a n)) wls →
      let done := { j with prog := j.prog + es.length, bytesDone := j.bytesDone + es.length * n }
      (done.prog < tTotal j.tmpl ∨ j.unit = 0) →
      ∃ t k, exec (.copySector p) s = .next t ∧ AroundEngine s1 t p ∧ BytesWritten s1 t (wls.zip bs) ∧ JobBecomes s1 t p j k ∧
        k.prog = done.prog ∧ k.bytesDone = done.bytesDone ∧
        k.status = if done.prog = tTotal j.tmpl then .done else .running)) ∧
  (∀ (s : State) (p : Nat) (j : Job), NothingWaits s → s.quietPier p = false → jobOn? s p j.id = some j → j.eng = .copy →
    j.status = .faulted → j.released = true → (j.work ≠ [] ∨ j.ring = none) →
    ∃ t, exec (.copyResume p j.id) s = .next t ∧ t = { s with piers := t.piers } ∧
      JobBecomes s t p j { j with status := .running, released := false, cause := .none, faddr := 0 })

/-- R179 to R181, R232, R313: the steps of ZSCAN, ZSCAN.ib, CGATH, CSCAT without scaling and IMGLD. A tile of zeros gets Z set in its header;
ZSCAN.ib writes the index base and advances the generation; a gathered row lands in scratchpad with its granules full; a scattered row is
stored to or added at its target; a valid row of an image lands in its buffer with an entry of the image table. -/
def Obligations.CaissonAndImageSteps : Prop :=
  ∀ (s s1 : State) (p : Nat) (j : Job), CanStep s p j →
    let ag := jobAgent p j.id
    let w := j.who
    (∀ (core : Nat) (q : Placed) (h n : Nat), copyJobOf s p core = some j → j.cmd = .zscan → n = j.b.toNat →
      trackedAt s w ((j.a.toNat + 4096 * j.prog) % 2 ^ 64) = .ok q → nearLoc q.loc = true → headerOf s ag w.vd q.va = .ok h →
      engRead s ag w (span ((j.a.toNat + 4096 * j.prog) % 2 ^ 64) 4096) = .ok s1 (List.replicate 4096 0) →
      NothingWaits s1 → (s1.pier p).jobs = (s.pier p).jobs → (j.prog + 1 ≠ n ∨ j.unit = 0) →
      ∃ t, exec (.zscanTile p core) s = .next t ∧ AroundEngine s1 t p ∧ t.spad = s1.spad ∧ t.granEmpty = s1.granEmpty ∧
        JobBecomes s1 t p j (if j.prog + 1 = n then ended { j with prog := j.prog + 1, list := [] } .done
          else { j with prog := j.prog + 1, list := [] }) ∧
        (∀ b < 64, (leNat (memRead t.mem h 8)).testBit b = ((leNat (memRead s1.mem h 8)).testBit b || b == 32)) ∧
        ∀ a, (a < h ∨ h + 8 ≤ a) → memGet t.mem a = memGet s1.mem a) ∧
    (∀ (core : Nat) (q : Placed) (h : Nat), copyJobOf s p core = some j → j.cmd = .zscanIb →
      trackedAt s w ((j.a.toNat + 4096 * j.prog) % 2 ^ 64) = .ok q → nearLoc q.loc = true → headerOf s ag w.vd q.va = .ok h →
      j.prog = 0 → j.unit = 0 →
      ∃ t, exec (.zscanTile p core) s = .next t ∧ AroundEngine s t p ∧ t.spad = s.spad ∧ t.granEmpty = s.granEmpty ∧
        JobBecomes s t p j (ended { j with prog := 1, list := [] } .done) ∧ leNat (memRead t.mem (h + 8) 8) = j.b.toNat ∧
        (let old := leNat (memRead s.mem h 8)
         leNat (memRead t.mem h 8) = old / 2 ^ 33 * 2 ^ 33 + (old + 1) % 2 ^ 32) ∧
        ∀ a, (a < h ∨ h + 16 ≤ a) → memGet t.mem a = memGet s.mem a) ∧
    (∀ (k row : Nat) (rot : Nat × Nat) (bs : Bytes) (wls : List Loc) (o16 : Bool),
      pickRot (s.pier p).rotC (weightOf s p) (canGrant s p) = some (k, rot) → copyJobOf s p (p * 8 + k) = some j →
      j.cmd = .cgath o16 → row < j.list.length → row ∉ j.work →
      let rsz := (rowsOf j.b.toNat).2.1
      let dst := (rowsOf j.b.toNat).2.2 + row * rsz
      engReadAt (s.setPier p { s.pier p with rotC := rot }) ag w (j.list.getD row 0) rsz = .ok s1 bs → NothingWaits s1 → s1.poison = [] → s1.transfers = [] → s1.queues = [] →
      (s1.pier p).jobs = (s.pier p).jobs → oneWindow w.core dst rsz = true → PlacedAt s1 w .write (span dst rsz) wls →
      let x := { j with work := j.work ++ [row] }
      (x.work.length ≠ j.list.length ∨ j.unit = 0) →
      ∃ t, exec (.cgathRowArrive p (p * 8 + k) row) s = .next t ∧ AroundEngine s1 t p ∧ BytesWritten s1 t (wls.zip bs) ∧
        JobBecomes s1 t p j (if x.work.length = j.list.length then ended x .done else x)) ∧
    (∀ (k row : Nat) (rot : Nat × Nat) (kind : ScatKind) (o16 : Bool) (delta y : Bytes) (s2 : State) (wls : List Loc),
      pickRot (s.pier p).rotC (weightOf s p) (canGrant s p) = some (k, rot) → copyJobOf s p (p * 8 + k) = some j →
      j.cmd = .cscat false kind o16 → j.use = none → row < j.list.length → row ∉ j.work → (∀ i < row, i ∈ j.work) →
      let rsz := (rowsOf j.b.toNat).2.1
      let a := j.list.getD row 0
      engReadAt (s.setPier p { s.pier p with rotC := rot }) ag w ((rowsOf j.b.toNat).2.2 + row * rsz) rsz = .ok s1 delta →
      (if kind = .store then s2 = s1 else engReadAt s1 ag w a rsz = .ok s2 y) →
      NothingWaits s2 → s2.poison = [] → s2.transfers = [] → s2.queues = [] → (s2.pier p).jobs = (s.pier p).jobs →
      oneWindow w.core a rsz = true → PlacedAt s2 w .write (span a rsz) wls → delta.length = rsz → (kind ≠ .store → y.length = rsz) →
      let new := match kind with
        | .store => delta
        | .add32 => addRow .fp32 4 0x3F800000 delta y
        | .add16 => addRow .bf16 2 0x3F80 delta y
      let x := { j with work := j.work ++ [row] }
      (x.work.length ≠ j.list.length ∨ j.unit = 0) →
      ∃ t, exec (.cscatRowApply p (p * 8 + k) row) s = .next t ∧ AroundEngine s2 t p ∧ BytesWritten s2 t (wls.zip new) ∧
        JobBecomes s2 t p j (if x.work.length = j.list.length then ended x .done else x)) ∧
    (∀ (k : Nat) (rot : Nat × Nat) (d : ImgDesc) (ws : List Nat) (req : Nat) (tg row : Bytes) (s2 s3 : State) (wls : List Loc),
      j.cmd = .imgld → pickRot (s.pier p).rotC (weightOf s p) (canGrant s p) = some (k, rot) → copyJobOf s p (p * 8 + k) = some j →
      imgldParse j.core j.a.toNat j.b.toNat j.tmpl2 = .ok (d, ws) → j.list[j.prog]? = some req →
      let r := imgReq req
      let n := d.row r.s r.j r.e
      engReadAt (s.setPier p { s.pier p with rotC := rot }) ag w (d.tagAddr n) 8 = .ok s1 tg →
      tagValid (leNat tg) = true → tagId (leNat tg) = d.id → engReadAt s1 ag w (d.rowAddr n) d.rowBytes = .ok s2 row →
      NothingWaits s2 → s2.poison = [] → s2.transfers = [] → s2.queues = [] → (s2.pier p).jobs = (s.pier p).jobs →
      oneWindow w.core r.buf row.length = true → PlacedAt s2 w .write (span r.buf row.length) wls →
      s3 = s2 → (j.prog + 1 ≠ j.list.length ∨ j.unit = 0) →
      ∃ t e, exec (.imgldRequest p) s = .next t ∧ BytesWritten s3 t (wls.zip row) ∧
        kget? (t.pier p).images e = some ⟨d.id, r.s, r.j, tagLo (leNat tg), tagHi (leNat tg), r.buf, 0⟩ ∧
        JobBecomes s3 t p j (if j.prog + 1 = j.list.length then ended { j with prog := j.prog + 1 } .done
          else { j with prog := j.prog + 1 }))

/-- R188, R196, R201: acceptance numbers a command behind every one accepted before. An accepted WMARK whose watermark is reached writes
it to its register; an accepted TRFREE frees its slots.
R187, R191, R197, R67: a block of MMA forms, for each of 32 rows and each column, the block sum added to the partial result;
MMA_ROW_COMPLETE writes the next row of each tile and moves its watermark; after row 31 the watermark is 32 and the job DONE. -/
def Obligations.MatrixCommandsAndProducts : Prop :=
  (∀ (s : State) (p : Nat) (j : Job), CanStep s p j → NoneSettles s p → settleHeads s p .matrix = s →
     (List.range 8).findSome? (acceptable s p) = some j → j.eng = .matrix →
     (j.cmd ≠ .wmark → j.cmd ≠ .trfree → ∃ t n, exec (.matrixAccept p) s = .next t ∧ t = { s with piers := t.piers } ∧
       (∀ k ∈ (s.pier p).jobs, k.eng = .matrix → k.released = true → k.dictId < n) ∧
       JobBecomes s t p j { j with released := true, dictId := n, started := false
                                   inq := (match j.cmd with | .mma _ _ => true | .trld => true | .imgbld => true | _ => false) }) ∧
     (∀ (c : Nat) (x : Ctx) (d : SReg), j.cmd = .wmark → j.dreg = some d → j.unit = 0 → j.a.toNat < 32 → j.b.toNat ≤ 32 →
       j.b.toNat ≤ markOf s p j.a.toNat →
       (j.ver = 1 → (s.pier p).split = (s.pier p).trsplit) →
       (∀ k ∈ (s.pier p).jobs, k.eng = .matrix → k.released = true → k.status.final = false → k.core = j.core → k.started = true) →
       s.ctxs.find? (fun y => y.2.busy && y.2.record == j.unit && y.2.vd == j.who.vd && y.2.level == j.who.level && y.1 == j.ctx) =
         some (c, x) →
       ∃ t k, exec (.matrixAccept p) s = .next t ∧ JobBecomes s t p j k ∧ k.status = .done ∧ k.dreg = none ∧
         t.ctx c = x.setS d (BitVec.ofNat 64 (markOf s p j.a.toNat)) ∧ (∀ e, e ≠ c → t.ctx e = s.ctx e) ∧
         t = { s with piers := t.piers, ctxs := t.ctxs }) ∧
     (j.cmd = .trfree → (∀ k ∈ (s.pier p).jobs, k.eng = .matrix → k.released = true → k.status.final = true) →
       (j.ver = 1 → (s.pier p).split = (s.pier p).trsplit) → j.a.toNat / 2 ^ 15 = 0 → bit j.a.toNat 7 = false → bits j.a.toNat 6 0 + bits j.a.toNat 14 8 < bSlots s p → j.unit = 0 →
       ∃ t k, exec (.matrixAccept p) s = .next t ∧ JobBecomes s t p j k ∧ k.status = .done ∧ t = { s with piers := t.piers } ∧
         ∀ n, slotAt t p n = if bits j.a.toNat 6 0 ≤ n ∧ n ≤ bits j.a.toNat 6 0 + bits j.a.toNat 14 8 then
           { slotAt s p n with loaded := false } else slotAt s p n)) ∧
  (∀ (s s1 : State) (p : Nat) (j : Job) (trim : Nat) (ow : Bool), CanStep s p j → NoneSettles s p → j.cmd = .mma trim ow →
     (∀ (rot : Nat × Nat) (af bf : Fmt) (bytes : Bytes), arrayPick s p = some (j, rot) → j.started = false →
       let s0 := s.setPier p { s.pier p with rotM := rot }
       let o := mmaOp j.a.toNat
       let cols := bCols bf
       let tiles := if cols = 64 then [o.tile, o.tile + 1] else [o.tile]
       let len := aRowLen af o.n
       mmaCheck s0 p j = .ok (af, bf) → j.prog = 0 →
       engRead (tiles.foldl (fun s t => setMark s p t 0) s0) (jobAgent p j.id) j.who
         ((List.range 32).flatMap (fun i => span (j.b.toNat + i * o.stride) len)) = .ok s1 bytes →
       NothingWaits s1 → (s1.pier p).jobs = (s.pier p).jobs → s1.truss = s.truss → (s1.pier p).slots = (s.pier p).slots →
       ∃ t k, exec (.mmaBlock p) s = .next t ∧ t = { s1 with piers := t.piers } ∧ JobBecomes s1 t p j k ∧ k.prog = 1 ∧
         k.started = true ∧ k.inq = decide (1 < o.n) ∧ k.list = tiles ∧ (∀ n ∈ tiles, markOf t p n = markOf s1 p n) ∧
         ∀ i < 32, ∀ c < cols, k.work[i * cols + c]? = some
           (blockAdd (if ow then 0 else leAt (accRow s p (o.tile + c / 32) i) (4 * (c % 32)) 4)
             (blockSum (aBlock af trim o.n 0 ((bytes.drop (i * len)).take len)) (bColumn s p o.slot bf c))).1) ∧
     (arrayBusy s p = some j → j.prog2 < 32 → (j.prog2 < 31 ∨ j.unit = 0) → ∀ t0, (j.list = [t0] ∨ j.list = [t0, t0 + 1]) → t0 < 32 →
       (j.list.length = 2 → t0 < 31) → j.work.length = 32 * (32 * j.list.length) →
       let r := j.prog2
       ∃ t k, exec (.mmaRowComplete p) s = .next t ∧ JobBecomes s t p j k ∧ k.prog2 = r + 1 ∧
         k.status = (if r = 31 then .done else .running) ∧ t = { s with piers := t.piers, acc := t.acc } ∧
         (∀ x ∈ j.list, ∀ c < 32, leAt (accRow t p x r) (4 * c) 4 = j.work.getD (r * (32 * j.list.length) + 32 * (x - t0) + c) 0 % 2 ^ 32) ∧
         (∀ a, (∀ x ∈ j.list, a < p * 2 ^ 17 + x * 4096 + r * 128 ∨ p * 2 ^ 17 + x * 4096 + r * 128 + 128 ≤ a) →
           memGet t.acc a = memGet s.acc a) ∧
         (∀ x ∈ j.list, markOf t p x = if r = 31 then 32 else if markOf s p x = r then r + 1 else markOf s p x) ∧
         (∀ x, x ∉ j.list → markOf t p x = markOf s p x)))


/-- R195, R198 to R200, R202: a row that the accumulator port serves, a tile of ACZ, and the first slot write of TRLD. R184: the truss bank moves its boundary to TRSPLIT when no slot it takes is LOADED or in use and no dictionary lies in rows
that it gives up; slots that join the B region are FREE. -/
def Obligations.AccumulatorAndTrussSteps : Prop :=
  (∀ (s s1 : State) (p : Nat) (j : Job) (k : Nat) (rot : Nat × Nat), CanStep s p j → NoneSettles s p →
    let r := rowOp j.b.toNat
    let row := r.first + j.prog
    let a := (j.a.toNat + j.prog * r.stride) % 2 ^ 64
    let ag := jobAgent p j.id
    (portPick s p = some (k, rot) → portJob s p k = some j → j.started = true → j.prog < r.count →
      (j.prog + 1 < r.count ∨ j.unit = 0) →
      (∀ wls, j.cmd = .acrd → row < markOf s p r.tile → oneWindow j.who.core a 128 = true → PlacedAt s j.who .write (span a 128) wls →
        ∃ t x, exec (.accPortRow p) s = .next t ∧ AroundEngine s t p ∧ BytesWritten s t (wls.zip (accRow s p r.tile row)) ∧
          JobBecomes s t p j x ∧ x.prog = j.prog + 1 ∧ x.status = if j.prog + 1 = r.count then .done else .running) ∧
      (∀ sat fc f wls, j.cmd = .accvt sat fc → accvtFmt fc = some f → row < markOf s p r.tile →
        let n := fmtBits f / 8
        let es := (List.range 32).map (fun i => accvtElem f sat (leAt (accRow s p r.tile row) (4 * i) 4))
        oneWindow j.who.core a (32 * n) = true → PlacedAt s j.who .write (span a (32 * n)) wls →
        ∃ t x, exec (.accPortRow p) s = .next t ∧ AroundEngine s t p ∧
          BytesWritten s t (wls.zip (es.flatMap (fun e => leBytes n e.1))) ∧ JobBecomes s t p j x ∧ x.prog = j.prog + 1 ∧
          x.flags = j.flags ||| orFlags (es.map Prod.snd) ∧ x.status = if j.prog + 1 = r.count then .done else .running) ∧
      (∀ bs, j.cmd = .acwr → engReadAt (s.setPier p { s.pier p with rotA := rot }) ag j.who a 128 = .ok s1 bs → NothingWaits s1 →
        (s1.pier p).jobs = (s.pier p).jobs → s1.acc = s.acc → row < 32 → r.tile < 32 → bs.length = 128 →
        ∃ t x, exec (.accPortRow p) s = .next t ∧ t = { s1 with piers := t.piers, acc := t.acc } ∧ JobBecomes s1 t p j x ∧
          x.prog = j.prog + 1 ∧ accRow t p r.tile row = bs ∧
          ∀ b, (b < p * 2 ^ 17 + r.tile * 4096 + row * 128 ∨ p * 2 ^ 17 + r.tile * 4096 + row * 128 + 128 ≤ b) →
            memGet t.acc b = memGet s.acc b)) ∧
    (∀ x, portPick s p = some (k, rot) → portJob s p k = some j → j.cmd = .acz → Memory.wf s.acc = true → j.a.toNat < 2 ^ 32 →
      (aczTiles j)[j.prog]? = some x → (j.prog + 1 ≠ (aczTiles j).length ∨ j.unit = 0) →
      ∃ t y, exec (.aczTile p) s = .next t ∧ t = { s with piers := t.piers, acc := t.acc } ∧ JobBecomes s t p j y ∧
        y.prog = j.prog + 1 ∧ y.status = (if j.prog + 1 = (aczTiles j).length then .done else .running) ∧
        (∀ b, memGet t.acc b = if p * 2 ^ 17 + x * 4096 ≤ b ∧ b < p * 2 ^ 17 + x * 4096 + 4096 then 0 else memGet s.acc b) ∧
        markOf t p x = 32 ∧ ∀ y, y ≠ x → markOf t p y = markOf s p y) ∧
    (∀ (f : Fmt) (data : Bytes), arrayPick s p = some (j, rot) → j.cmd = .trld → j.started = false → j.prog = 0 → j.tmpl = [] →
      let b := j.b.toNat
      let s0 := s.setPier p { s.pier p with rotM := rot }
      let at_ (c : Nat) : Nat := (j.a.toNat + c * bits b 47 32) % 2 ^ 64
      trldBad s0 p b = false → matFmt (bits b 11 8) = some f → firstFault s0 j.who .read (bRecord f) ((List.range (bCols f)).map at_) = none →
      engRead s0 ag j.who ((List.range (bCols f)).flatMap (fun c => span (at_ c) (bRecord f))) = .ok s1 data → NothingWaits s1 →
      (s1.pier p).jobs = (s.pier p).jobs → s1.truss = s.truss → data.length = bCols f * bRecord f → j.unit = 0 →
      let codes := (List.range (bCols f)).flatMap (fun c => (data.drop (c * bRecord f)).take (if f = .e2m1x then 32 else bRecord f))
      ∃ t x, exec (.trldSlotWrite p) s = .next t ∧ t = { s1 with piers := t.piers, truss := t.truss } ∧ JobBecomes s1 t p j x ∧
        x.prog = 1 ∧ x.status = (if f = .bf16 then .running else .done) ∧
        (f ≠ .bf16 → (slotAt t p (bits b 6 0)).loaded = true ∧ (slotAt t p (bits b 6 0)).fmt = BitVec.ofNat 4 f.code) ∧
        ∀ y, memGet t.truss y = if p * 2 ^ 18 + bits b 6 0 * 2048 ≤ y ∧ y < p * 2 ^ 18 + bits b 6 0 * 2048 + 2048 then
          codes.getD (y - (p * 2 ^ 18 + bits b 6 0 * 2048)) 0 else memGet s.truss y)) ∧
  (∀ (s : State) (p : Nat), NothingWaits s → NoneSettles s p →
    let e := (s.pier p).split
    let t := (s.pier p).trsplit
    t ≤ 8 → e ≤ 8 → t ≠ e →
    (∀ n, 128 - 16 * t ≤ n → n < 128 - 16 * e → (slotAt s p n).loaded = false ∧
      ∀ j ∈ (s.pier p).jobs, j.eng = .matrix → j.released = true → j.status.final = false → n ∉ slotsUsed s p j) →
    (∀ n, 128 - 16 * e ≤ n → n < 128 - 16 * t →
      let clear (d : DSlot) : Prop := n * 32 + 32 ≤ d.row ∨ d.row + d.n ≤ n * 32
      (∀ d ∈ (s.pier p).dslots, clear d.2) ∧ ∀ j ∈ (s.pier p).jobs, j.cmd = .dinst → j.started = true → j.status.final = false →
        j.tmpl ≠ [] → clear (dinstSlot j)) →
    ∃ u, exec (.trussBoundaryMove p) s = .next u ∧ u = { s with piers := u.piers } ∧ (u.pier p).split = t ∧
      (u.pier p).trsplit = t ∧ (u.pier p).splitWait = [] ∧ (∀ q, q ≠ p → u.pier q = s.pier q) ∧
      ∀ n, slotAt u p n = if 128 - 16 * e ≤ n ∧ n < 128 - 16 * t then { slotAt s p n with loaded := false } else slotAt s p n)

/-! ### Contexts: exceptions, suspension, stops -/

/-- R37, R43, R45, R71, R87, R113, R378: a fault in a unit. The context saves the unit's frame and runs the job's fault entry at entry
level with the registers of R378; the record is FAULTED with the cause and the resume address: the next group for TRAP, the group
itself for ILLEGAL and BUDGET. To take this exception is what these three do. FADDR is not stated for these causes: nothing is said
of it.
R22, R381: a handler that has used its cycles, or that would suspend, traps: it gets a HANDLER record from the record area, its
frame is saved, and the fault entry runs with HANDLER_OVERRUN or HANDLER_BLOCK. -/
def Obligations.FaultsRunTheFaultEntry : Prop :=
  (∀ (s : State) (c : Nat) (v : VDev) (f rpa fpa stk : Nat) (fs ss : List Nat) (j : JobRec),
     let x := s.ctx c
     let r := x.record
     x.role = .unit → AtRest s c → s.preempts = [] → Memory.wf s.mem = true → RegsInRange x → x.frame = 0 → s.vdev? x.vd = some v →
     v.framePool = f :: fs → v.stackPool = stk :: ss →
     RecordAndFrame s x.vd r rpa f fpa → s.job? x.jobid.toNat = some j → f < 2 ^ 48 → f ≠ 0 →
     let taken (t : State) (cause : Cause) (code resume : Nat) : Prop := FaultTaken s t c rpa f fpa stk j.fentry code resume cause ∧
       t.vdev? x.vd = some { v with framePool := fs, stackPool := ss }
     (∀ code : BitVec 11, c = s.cur → Accepts s accG → GuardOn s (modGuard x.pfx) →
       ∃ t, exec (.trap code) s = .next t ∧ taken t .trap code.toNat (x.pc + 4 * x.pfx.length + 4)) ∧
     (∀ w : BitVec 24, c = s.cur → ∃ t, exec (.illegal w) s = .next t ∧ taken t .illegal 0 x.pc) ∧
     (x.pfx = [] → x.budget = 0 → ∃ t, exec (.budgetExhausted c) s = .next t ∧ taken t .budget 0 x.pc)) ∧
  (∀ (s : State) (c : Nat) (v : VDev) (r f rpa fpa stk : Nat) (rs fs ss : List Nat) (j : JobRec),
     let x := s.ctx c
     x.role = .handler → x.record = 0 → AtRest s c → s.preempts = [] → Memory.wf s.mem = true → RegsInRange x → x.frame = 0 → s.vdev? x.vd = some v →
     v.recPool = r :: rs → v.framePool = f :: fs → v.stackPool = stk :: ss → unitJobs s c = [] →
     RecordAndFrame s x.vd r rpa f fpa → s.job? x.jobid.toNat = some j → f < 2 ^ 48 → f ≠ 0 → r ≠ 0 →
     (x.pfx = [] → x.handlercap = 0 →
       ∃ t, exec (.handlerOverrun c) s = .next t ∧ HandlerTrapped s t c r rpa f fpa stk j.fentry .handlerOverrun) ∧
     (c = s.cur → Accepts s accG → GuardOn s (modGuard x.pfx) →
       ∃ t, exec .yieldUnit s = .next t ∧ HandlerTrapped s t c r rpa f fpa stk j.fentry .handlerBlock))


/-- R41, R114 to R116, R20: SUSP waits for its job, or goes on where the job is over; YIELD is READY at once; END makes the unit
DONE, decrements the counter of its launch and frees its record and its context. A handler's END frees its context only.
R43, R44, R49, R391: a request that reaches a core stops its unit, and an older stop goes on when its loads are over or when
the pools supply a frame: the frame is saved, the record is PARKED with the cause, the context is free. -/
def Obligations.UnitsSuspendEndAndPark : Prop :=
  (∀ (s : State) (v : VDev) (rpa : Nat),
     let x := s.me
     let r := x.record
     let next := x.pc + 4 * x.pfx.length + 4
     AtRest s s.cur → s.preempts = [] → s.vdev? x.vd = some v →
     (x.role = .unit → MappedApart s x.vd r rpa [(rpa, 64)] → r % 64 = 0 → r ≠ 0 →
       (∀ o : EA, Accepts s accG → GuardOn s (modGuard x.pfx) → FullS s [o.a] →
         let id := (x.getS o.a).toNat % 65536
         let p := pierOfCtx s.cur
         let w := match (s.pier p).jobs.find? (fun j => j.id == id && jobOf x s.cur j) with
           | some j => if j.status.final then (stReady, 0) else (stWaiting, waitJob 0 p id)
           | none => (stReady, 0)
         ∃ t, exec (.susp o) s = .next t ∧ Suspended s t rpa w.1 w.2 next ∧ t.counters = s.counters) ∧
       (Accepts s accG → GuardOn s (modGuard x.pfx) → ∃ t, exec .yieldUnit s = .next t ∧ Suspended s t rpa stReady 0 next ∧
         t.counters = s.counters) ∧
       (∀ (y : Launch) (k : Counter), Accepts s accNone → x.pure = false → s.launch? x.launchid.toNat = some y →
         kget? s.counters x.launchid.toNat = some k → k.waiters = [] → -(2 ^ 47) < k.value → k.value < 2 ^ 47 →
         (∀ j ∈ unitJobs s s.cur, j.2.status.final = true ∧ j.2.status ≠ .error) →
         ∃ t, exec .endUnit s = .next t ∧ recState t x.vd r = stDone ∧ recCause t x.vd r = 0 ∧ t.me.role = .idle ∧ t.me.record = 0 ∧
           t.me.freed = true ∧ kget? t.counters x.launchid.toNat = some { k with value := k.value - 1 } ∧
           (∀ n, n ≠ x.launchid.toNat → kget? t.counters n = kget? s.counters n) ∧
           t.launch? x.launchid.toNat = some { y with live := y.live.filter (fun q => q != r) } ∧
           t.vdev? x.vd = some { v with recPool := v.recPool ++ [r] } ∧ OnlyRecordAndFrame s t rpa rpa ∧
           (∀ c, c ≠ s.cur → t.ctx c = s.ctx c) ∧
           ∀ p, (t.pier p).jobs = (s.pier p).jobs.filter (fun j => !(j.unit == r && j.who.vd == x.vd)))) ∧
     (x.role = .handler → x.record = 0 → Accepts s accNone →
       (∀ j ∈ unitJobs s s.cur, j.2.status.final = true ∧ j.2.status ≠ .error) →
       ∃ t, exec .endUnit s = .next t ∧ t.me.role = .idle ∧ t.counters = s.counters ∧ SameBytes s t ∧
         ∀ c, c ≠ s.cur → t.ctx c = s.ctx c)) ∧
  (∀ (s : State) (c : Nat) (v : VDev) (f rpa fpa stk : Nat) (fs ss : List Nat),
     let x := s.ctx c
     let r := x.record
     let y : State := s.setCtx c { x with stop := none }
     x.role = .unit → AtRest y c → Memory.wf s.mem = true → RegsInRange x → x.frame = 0 → s.vdev? x.vd = some v →
     v.framePool = f :: fs → v.stackPool = stk :: ss → RecordAndFrame s x.vd r rpa f fpa → f < 2 ^ 48 → f ≠ 0 →
     let parked (t : State) (st : Stop) : Prop := UnitParked s t c rpa f fpa st ∧
       t.vdev? x.vd = some { v with framePool := fs, stackPool := ss }
     (∀ st : Stop, st.kind = .park → x.stop = some st → s.preempts = [] →
       (st.held = false → ∃ t, exec (.frameSave c) s = .next t ∧ parked t st) ∧
       (st.held = true → ∃ t, exec (.framePoolSupply c) s = .next t ∧ parked t st)) ∧
     (∀ q : PreReq, s.preempts = [q] → q.todo.contains (c / 4) = true → q.waiting = [] → x.stop = none → x.pfx = [] →
       x.budget ≠ 0 → x.preemptReq = false → (q.job = none ∨ q.job = some x.jobid.toNat) →
       (∀ n < 4, c / 4 * 4 + n ≠ c → (s.ctx (c / 4 * 4 + n)).role = .idle) →
       ∃ t, exec (.preemptArrive (c / 4)) s = .next t ∧ parked t ⟨.park, .preempted, 0, 0, 0, x.pc, [], false⟩ ∧
         (q.ctx.isSome = true →
           t.preempts = [{ q with todo := q.todo.filter (fun k => k != c / 4), parked := q.parked ++ [(c, x.vd, r)] }])))

/-! ### The span engine -/

/-- R203 to R205, R208, R225, R227: a start of DINST reads its descriptor and atoms into a slot that is INSTALLING; a descriptor
without atoms empties the slot; a start of ENC in stream mode begins a message with its two header words. DINST_GROUP_WRITE
writes up to 32 atoms with their norm factors; the last group gives the slot its id, version, N and p and makes it READY. -/
def Obligations.DictionaryInstalls : Prop :=
  ∀ (s : State) (p : Nat) (j : Job), CanStep s p j →
    let b := j.b.toNat
    let ag := jobAgent p j.id
    let q := startJob s p j
    (settleHeads s p .span = s → (s.pier p).jobs.filter startWaits = [] → (List.range 8).findSome? (startable s p) = some j →
      (∀ (s1 s2 : State) (d bs : Bytes), j.cmd = .dinst → b < 4 → j.a.toNat % 32 = 0 → engReadAt q.1 ag j.who j.a.toNat 32 = .ok s1 d →
        NothingWaits s1 → (s1.pier p).jobs = (q.1.pier p).jobs → leAt d 16 16 = 0 → leAt d 10 2 ≠ 0xFFFF →
        let n := leAt d 12 2
        let row := leAt d 14 2
        let arr := leAt d 0 8
        (n = 0 → j.unit = 0 → ∃ t, exec (.spanJobStart p) s = .next t ∧ OnlyPier s1 t p ∧ dslotAt t p b = dslotEmpty ∧
          (∀ m, m ≠ b → dslotAt t p m = dslotAt s1 p m) ∧ JobBecomes s t p j (ended { j with started := true } .done)) ∧
        (0 < n → n ≤ 2048 → row % 32 = 0 → row + n ≤ 4096 → 32 * bSlots s1 p ≤ row → arr % 64 = 0 →
          (∀ x ∈ (s1.pier p).dslots, x.1 ≠ b → row + n ≤ x.2.row ∨ x.2.row + x.2.n ≤ row) →
          (∀ k ∈ (s1.pier p).jobs, k.cmd = .dinst → k.started = true → k.status.final = false → k.tmpl ≠ [] → k.b.toNat % 4 ≠ b →
            row + n ≤ (dinstSlot k).row ∨ (dinstSlot k).row + (dinstSlot k).n ≤ row) →
          engReadAt s1 ag j.who arr (64 * n) = .ok s2 bs → NothingWaits s2 → (s2.pier p).jobs = (q.1.pier p).jobs →
          (∀ i < n, atomBad ((bs.drop (64 * i)).take 64) = false) →
          ∃ t, exec (.spanJobStart p) s = .next t ∧ OnlyPier s2 t p ∧
            dslotAt t p b = { dslotAt s2 p b with state := .installing } ∧
            (∀ m, m ≠ b → dslotAt t p m = dslotAt s2 p m) ∧
            JobBecomes s t p j { j with started := true, inq := false, tmpl := d, tmpl2 := bs })) ∧
      (j.cmd = .enc → bit b 31 = false → bits j.a.toNat 31 24 = 0 → bits j.a.toNat 63 32 = 0 → bits b 30 28 = 0 → bits b 63 44 = 0 →
        (bits b 27 24 = 7 ∨ bits b 27 24 = 8) → 1 ≤ encCount b → encCount b ≤ 124 → bits b 23 0 + encCount b ≤ 2 ^ 24 →
        (dslotAt s p j.encdict).state = .ready → bits j.a.toNat 23 0 % 16 = 0 → inSpad j.core (bits j.a.toNat 23 0) 1 = true →
        (∀ e ∈ (s.core j.core).stream, e.1 ≠ j.id) → streamUsed (s.core j.core) ≤ 510 → j.work = [] → j.prog = 0 →
        let x := dslotAt s p j.encdict
        ∃ t, exec (.spanJobStart p) s = .next t ∧ t = { s with piers := t.piers, cores := t.cores } ∧
          t.core j.core = { s.core j.core with stream := (s.core j.core).stream ++
            [(j.id, [BitVec.ofNat 32 (2 * 2 ^ 30 + encCount b), BitVec.ofNat 32 (x.id * 65536 + x.ver)], false, false)] } ∧
          (∀ k, k ≠ j.core → t.core k = s.core k) ∧ (∀ r, r ≠ p → t.pier r = s.pier r) ∧
          JobBecomes s t p j { j with started := true, inq := false, ver := x.ver, dictId := x.id, work := [] })) ∧
    (∀ (k : Nat) (rot : Nat × Nat), pickRot (s.pier p).rotE (weightOf s p) (encReady s p) = some (k, rot) →
      encJob s p (p * 8 + k) = some j → j.cmd = .dinst →
      let x := dinstSlot j
      let lo := 32 * j.prog
      let hi := min (lo + 32) x.n
      let base := p * 2 ^ 18 + x.row * 64
      lo < x.n → x.n ≤ 2048 → x.row + x.n ≤ 4096 → j.tmpl2.length = 64 * x.n → (hi < x.n ∨ j.unit = 0) →
      ∃ t y, exec (.dinstGroupWrite p) s = .next t ∧ t = { s with piers := t.piers, truss := t.truss, norms := t.norms } ∧
        (∀ i, lo ≤ i → i < hi → trussRead t p ((x.row + i) * 64) 64 = (j.tmpl2.drop (64 * i)).take 64 ∧
          normAt t p (b % 4) i = (normOf ((j.tmpl2.drop (64 * i)).take 64)).toNat) ∧
        (∀ a, a < base + 64 * lo ∨ base + 64 * hi ≤ a → memGet t.truss a = memGet s.truss a) ∧
        dslotAt t p (b % 4) = (if hi = x.n then x else dslotAt s p (b % 4)) ∧
        (∀ m, m ≠ b % 4 → dslotAt t p m = dslotAt s p m) ∧ JobBecomes s t p j y ∧ y.prog = j.prog + 1 ∧
        y.status = if hi = x.n then .done else .running)

/-- R210 to R212, R216, R228: a grant of the encoder performs one span: ENC encodes 64 lanes with the atoms and factors of its slot and
adds the words of the span to the core's code stream; DEC writes the 64 FP32 lanes of a coded span. -/
def Obligations.SpansAreCodedAndDecoded : Prop :=
  ∀ (s : State) (p : Nat) (j : Job) (k : Nat) (rot : Nat × Nat), CanStep s p j →
    pickRot (s.pier p).rotE (weightOf s p) (encReady s p) = some (k, rot) → encJob s p (p * 8 + k) = some j →
    let su := encShared s p j
    let s0 := su.setPier p { su.pier p with rotE := rot }
    let b := j.b.toNat
    let ag := jobAgent p j.id
    (∀ (s1 : State) (bs : Bytes) (pre : List (Nat × List (BitVec 32) × Bool × Bool)) (ws0 : List (BitVec 32)),
      j.cmd = .enc → bit b 31 = false →
      let wide := bits b 27 24 = 7
      let len := if wide then 256 else 128
      let at_ := bits j.a.toNat 23 0 + j.prog * len
      let x := dslotAt s p j.encdict
      let lanes := (List.range 64).map (fun i => if wide then leAt bs (4 * i) 4 else leAt bs (2 * i) 2 * 65536)
      let c := encodeSpan j.enck j.enctau j.enceps ((List.range x.n).map (atomAt s p x))
        ((List.range x.n).map (normAt s p j.encdict)) lanes
      let ws := spanWords (bits b 23 0 + j.prog) lanes c
      inSpad j.core at_ len = true → engReadAt s0 ag j.who at_ len = .ok s1 bs → NothingWaits s1 → s1.poison = [] →
      s1 = { s0 with cores := s1.cores, piers := s1.piers, decks := s1.decks, counts := s1.counts } →
      (s1.pier p).jobs = (s.pier p).jobs → (s1.pier p).dslots = (s.pier p).dslots →
      (s1.core j.core).stream = pre ++ [(j.id, ws0, false, false)] → (∀ e ∈ pre, e.1 ≠ j.id) →
      streamUsed (s1.core j.core) + ws.1.length ≤ 512 → j.prog + 1 < encCount b →
      ∃ t, exec (.encSpan p) s = .next t ∧ t = { s1 with piers := t.piers, cores := t.cores } ∧
        t.core j.core = { s1.core j.core with stream := pre ++ [(j.id, ws0 ++ ws.1.map (BitVec.ofNat 32), false, false)] } ∧
        (∀ n, n ≠ j.core → t.core n = s1.core n) ∧ (∀ r, r ≠ p → t.pier r = s1.pier r) ∧
        JobBecomes s t p j { j with prog := j.prog + 1, flags := j.flags ||| ws.2 }) ∧
    (∀ (wls : List Loc), j.cmd = .dec →
      let x := dslotAt s p (bits b 33 32)
      let r := decodeSpan (atomAt s p x) (spanAt j.prog (j.list.drop 2))
      let at_ := bits b 23 0 + 256 * j.prog
      let last := j.prog + 1 = msgSpans (j.list.headD 0)
      inSpad j.core at_ 256 = true → oneWindow j.who.core at_ 256 = true → PlacedAt s j.who .write (span at_ 256) wls →
      (¬ last ∨ j.unit = 0) →
      ∃ t y, exec (.decSpan p) s = .next t ∧ AroundEngine s t p ∧ BytesWritten s t (wls.zip (words32 r.1)) ∧ JobBecomes s t p j y ∧
        y.prog = j.prog + 1 ∧ y.flags = j.flags ||| r.2 ∧ (last → y.status = .done) ∧ (¬ last → y.status = .running))

/-- R221, R235, R236: ACCI adds each term of a coded span to its sums in order, each with one rounding; the span is done when its last
term is. A stalled ACCI does the same once an entry serves the term at which it stalls. A released one starts again: it reads its
template and descriptor, the class of its version is known, and its output granules are empty. -/
def Obligations.AcciSteps : Prop :=
  ∀ (s : State) (p : Nat) (j : Job) (d : ImgDesc),
    let sp := spanAt j.prog (j.list.drop 2)
    let sn := bits (sp.headD 0) 23 0
    let terms := (spanTerms sp).drop j.prog2
    (∀ (s0 u : State) (rows : List (List Nat)), acciDesc j = some d → CanStep s p j → j.prog + 1 < msgSpans (j.list.headD 0) → sn < d.spans → bits (sp.headD 0) 31 28 = 0 →
      TermRows p j d sn (terms.map Prod.fst) s0 rows u → NothingWaits u → (u.pier p).jobs = (s.pier p).jobs →
      let sum := (terms.zip rows).foldl (fun (acc : List Nat × Flags) x =>
        let q := axpy (x.1.2 * 65536) x.2 acc.1
        (q.1, acc.2 ||| q.2)) (j.work, j.flags)
      let spanDone (t : State) : Prop := OnlyPier u t p ∧
        JobBecomes s t p j { j with work := sum.1, flags := sum.2, prog := j.prog + 1, prog2 := 0, ring := none }
      (∀ (k : Nat) (rot : Nat × Nat), (s.pier p).jobs.filter (fun x => x.cmd == .acci && x.status == .running && x.bytesDone != 0 && !acciWaits x) = [] →
        pickRot (s.pier p).rotP (weightOf s p) (accReady s p) = some (k, rot) → accJob s p (p * 8 + k) = some j →
        s0 = s.setPier p { s.pier p with rotP := rot } → ∃ t, exec (.acciSpan p) s = .next t ∧ spanDone t) ∧
      (∀ core : Nat, accJob s p core = some j → j.ring.isSome = true → terms ≠ [] → s0 = s →
        (imgLookup (s.pier p) d.id sn (terms.headD (0, 0)).1 j.ver).isSome = true →
        ∃ t, exec (.acciStallResume p core) s = .next t ∧ spanDone t)) ∧
    (∀ (m : Msg) (s1 s2 s3 : State) (tb db rb ys : Bytes), NothingWaits s → s.quietPier p = false →
      (List.range 8).findSome? (fun k => if s.quietPier p || (accJob s p (p * 8 + k)).isSome then none
        else leastBy (fun x => x.prog2) (releasedJobs s p (p * 8 + k))) = some j →
      (s.pier p).jobs.filter (fun x => x.id == j.id) = [j] → j.msg = some m →
      let j1 : Job := { j with started := true, status := .running, released := false, prog := 0, prog2 := 0, tmpl2 := [] }
      let rd (a : State) (x n : Nat) : Got Bytes := engReadAt a (jobAgent p j.id) j.who x n
      let ws := m.words.map BitVec.toNat
      let w0 := ws.getD 0 0
      let w1 := ws.getD 1 0
      let bias := leAt tb 0x10 8
      let out := leAt tb 0x18 8
      j.a.toNat % 64 = 0 → rd (setJobOn s p j1) j.a.toNat 64 = .ok s1 tb → leAt tb 0x28 8 % 8 = 0 → leAt tb 0x30 16 = 0 →
      leAt tb 0 8 % 64 = 0 → leAt tb 8 8 % 64 = 0 → readImgDesc rd s1 (leAt tb 0 8) = .ok s2 (db, rb) → imgDesc? db rb = some d →
      bias % 16 = 0 → out % 16 = 0 → inSpad j.core out (4 * d.o) = true → leAt tb 0x20 8 % 64 = 0 →
      inSpad j.core (leAt tb 0x20 8) d.rowBytes = true → 2 ≤ ws.length → headOk w0 w1 d.id = true →
      classify (s2.pier p) d.id (w1 % 65536) = .known → spansOk d.n (msgSpans w0) (ws.drop 2) = true →
      rd s2 (if bias = 0 then out else bias) (4 * d.o) = .ok s3 ys → NothingWaits s3 →
      (s3.pier p).jobs = ((setJobOn s p j1).pier p).jobs →
      ∃ t, exec (.acciRestart p) s = .next t ∧ t = { s3 with piers := t.piers, granEmpty := t.granEmpty } ∧
        (∀ g, g ∈ t.granEmpty ↔ g ∈ s3.granEmpty ∨ g ∈ granuleKeys j.core out (4 * d.o)) ∧
        JobBecomes s t p j { j1 with tmpl := tb, tmpl2 := db ++ rb, ver := w1 % 65536, dictId := d.id, list := w0 :: w1 :: ws.drop 2
                                     ring := none, work := (List.range d.o).map (fun i => leAt ys (4 * i) 4) })

/-- R219, R220, R221, R229, R230, R231, R234: an announcement of the next version becomes the newest, closes the image entries of the atoms
it names, and releases the messages that wait for it; DRET raises the oldest version and clears entries below it; DQRY writes its
answer; IMGINV of mode 2 clears every entry; DVER sends its announcement.
R217, R218, R222, R223, R233: a request of IMGBLD whose sums the array has computed: its row is written in the format of the image, then
its tag with an open interval from the slot's version; with the install bit the row also goes to the buffer and a table entry. -/
def Obligations.VersionsTablesAndImageBuilds : Prop :=
  ((∀ (s : State) (src p : Nat) (a : Announce) (tr : Tracked), NothingWaits s → meshHead s src p = some (.ann a) →
     srcBlocked s src a.seq = false → (s.pier p).annHeld = [] → trackedAt? (s.pier p) a.id = some tr → tr.held = [] →
     a.ver = tr.newest + 1 → a.job = none →
     ∃ t, exec (.versionAnnounce src p) s = .next t ∧ t.mesh = s.mesh.erase (.ann a) ∧
       t = { s with mesh := t.mesh, piers := t.piers } ∧ (∀ q, q ≠ p → t.pier q = s.pier q) ∧
       trackedAt? (t.pier p) a.id = some { tr with newest := a.ver } ∧
       (t.pier p).images = (s.pier p).images.map (fun e => if e.2.id = a.id ∧ e.2.j ∈ a.atoms ∧ e.2.vhi = 0xFFFF ∧ e.2.vlo < a.ver then
         (e.1, { e.2 with vhi := a.ver - 1 }) else e) ∧
       ∀ (n : Nat) (x : Job), (s.pier p).jobs[n]? = some x → ∃ y, (t.pier p).jobs[n]? = some y ∧
         if x.status = .parkedVersion ∧ x.released = false ∧ x.dictId = a.id ∧ x.ver ≤ a.ver then
           ∃ m, y = { x with released := true, sent := false, prog2 := m } else y = x) ∧
   (∀ (s : State) (p : Nat) (j : Job), CanStep s p j → settleHeads s p .span = s →
     (s.pier p).jobs.find? (fun j => j.cmd == .dver && j.started && j.status == .running && j.prog == 0) = none →
     (List.range 8).findSome? (fun k => headReady s p k onTable) = some j → j.unit = 0 →
     let a := j.a.toNat
     let b := j.b.toNat
     (∀ tr, j.cmd = .dret → a < 2 ^ 32 → trackedAt? (s.pier p) (a / 2 ^ 16) = some tr → a % 2 ^ 16 ≤ tr.newest →
       ∃ t, exec (.spanTableCommand p) s = .next t ∧ OnlyPier s t p ∧ JobBecomes s t p j (ended { j with started := true } .done) ∧
         trackedAt? (t.pier p) (a / 2 ^ 16) = some { tr with oldest := max tr.oldest (a % 2 ^ 16) } ∧
         (t.pier p).images = (s.pier p).images.filter (fun e => !(e.2.id == a / 2 ^ 16 && e.2.vhi != 0xFFFF &&
           decide (e.2.vhi < max tr.oldest (a % 2 ^ 16))))) ∧
     (∀ (c : Nat) (x : Ctx) (d : SReg) (v : Nat), j.cmd = .dqry → j.dreg = some d → dqryAns (startJob s p j).1 p a b = some v →
       s.ctxs.find? (fun y => y.2.busy && y.2.record == j.unit && y.2.vd == j.who.vd && y.2.level == j.who.level && y.1 == j.ctx) =
         some (c, x) →
       ∃ t, exec (.spanTableCommand p) s = .next t ∧ JobBecomes s t p j (ended { j with started := true } .done) ∧
         t.ctx c = x.setS d (BitVec.ofNat 64 v) ∧ (∀ e, e ≠ c → t.ctx e = s.ctx e) ∧
         t = { s with piers := t.piers, ctxs := t.ctxs } ∧ ∀ q, q ≠ p → t.pier q = s.pier q) ∧
     (j.cmd = .imginv → b = 2 → bits a 27 16 = 0 → (s.pier p).annHeld = [] →
       ∃ t, exec (.spanTableCommand p) s = .next t ∧ OnlyPier s t p ∧ (t.pier p).images = [] ∧ (t.pier p).tracked = (s.pier p).tracked ∧
         JobBecomes s t p j (ended { j with started := true } .done)) ∧
     (∀ (s1 : State) (bs : Bytes) (v : VDev), j.cmd = .dver →
       let n := bits a 43 32
       let dest := pierAt (bits b 39 32) (bits b 45 40)
       let q := startJob s p j
       bits a 31 24 = 0 → bits a 63 44 = 0 → bits b 63 46 = 0 → n ≤ 2048 → b % 65536 ≠ 0xFFFF → bits b 39 32 < 200 →
       s.vdev? j.who.vd = some v → dest ∈ v.piers → bits a 23 0 % 2 = 0 → 0 < n → inSpad j.core (bits a 23 0) (2 * n) = true →
       engReadAt q.1 (jobAgent p j.id) j.who (bits a 23 0) (2 * n) = .ok s1 bs → NothingWaits s1 → (s1.pier p).jobs = (q.1.pier p).jobs →
       ∃ t seq, exec (.spanTableCommand p) s = .next t ∧
         t.mesh = s1.mesh ++ [.ann ⟨j.core, dest, bits b 31 16, b % 65536, (List.range n).map (fun i => leAt bs (2 * i) 2),
           some (p, j.id), seq⟩] ∧ t = { s1 with mesh := t.mesh, piers := t.piers, nextUid := t.nextUid } ∧
         JobBecomes s t p j { j with started := true, inq := false, prog := 1 }))) ∧
  (∀ (s : State) (p : Nat) (j : Job) (d : ImgDesc) (w : Nat), CanStep s p j → NoneSettles s p → imgbldDue s p = some j →
     imgDesc? j.tmpl (j.tmpl2.drop 64) = some d → j.list[j.prog2]? = some w →
     let r := imgReq w
     let k := d.row r.s r.j r.e
     let ag := jobAgent p j.id
     let atom := trussRead s p (((dslotAt s p (bits j.b.toNat 33 32)).row + r.j) * 64) 64
     let ys := (imgbldSums s p j d atom).map (imgbldElem d.fmt)
     let row := ys.flatMap (fun y => leBytes (fmtBytes d.fmt) y.1)
     let last := j.prog2 + 1 = j.list.length
     (¬ last ∨ j.unit = 0) →
     (∀ (s1 s2 s3 : State) (ts : Bytes), j.work = [] → d.v = 1 → r.e = 0 → r.ins = false →
       let j1 : Job := { j with flags := j.flags ||| orFlags (ys.map Prod.snd), work := [1] }
       engWriteAt s ag j.jobid j.who (d.rowAddr k) row = .ok s1 () → NothingWaits s1 → (s1.pier p).jobs = (s.pier p).jobs →
       engReadAt (setJobOn s1 p j1) ag j.who (d.tagAddr k) 8 = .ok s2 ts → NothingWaits s2 →
       (s2.pier p).jobs = ((setJobOn s1 p j1).pier p).jobs →
       let u := setJobOn s2 p { j1 with work := [2] }
       engWriteAt u ag j.jobid j.who (d.tagAddr k) (leBytes 8 (2 ^ 63 + d.id * 2 ^ 32 + 0xFFFF * 2 ^ 16 + j.bytesDone)) = .ok s3 () →
       NothingWaits s3 → (s3.pier p).jobs = (u.pier p).jobs → NoneSettles s3 p →
       ∃ t y, exec (.imgbldRequest p) s = .next t ∧ OnlyPier s3 t p ∧ JobBecomes s t p j y ∧ y.prog2 = j.prog2 + 1 ∧ y.work = [] ∧
         (last → y.status = .done) ∧ (¬ last → y.status = .running)) ∧
     (∀ (s1 : State), j.work = [3] → r.ins = true → engWriteAt s ag j.jobid j.who r.buf row = .ok s1 () → NothingWaits s1 →
       (s1.pier p).jobs = (s.pier p).jobs → NoneSettles s1 p → s1.poison = [] →
       ∃ t y e, exec (.imgbldRequest p) s = .next t ∧ OnlyPier s1 t p ∧ JobBecomes s t p j y ∧ y.prog2 = j.prog2 + 1 ∧
         kget? (t.pier p).images e = some ⟨d.id, r.s, r.j, j.bytesDone, 0xFFFF, r.buf, 0⟩ ∧
         (∀ x ∈ (t.pier p).images, x.2.buf = r.buf → x.1 = e) ∧ (last → y.status = .done) ∧ (¬ last → y.status = .running)))

/-! ### Handles, relayouts, the reuse table -/

/-- R292, R293: HSET binds a handle to a copy of the record at an address, or unbinds it; HGET gives the fields of the copy, the control
word anew, the number of tiles, and the record's address, or 0 of an unbound handle.
R277, R278, R280, R294, R295: RELAYOUT answers 1 while a conversion runs, 2 when the record has the tag already and 3 when sixteen
conversions run, and otherwise writes Target and Converting and starts a conversion; RLWAIT gives control bits [14:12]. The conversion
passes to its tiles once the pages are there; it locks a tile by header bit L, moves its elements to the places of the new tag,
sets C and clears L;
the piers acknowledge; at the end the control word has neither Converting nor Target, and C is clear. -/
def Obligations.HandlesAndRelayouts : Prop :=
  (∀ (s : State), Accepts s accG → GuardOn s (modGuard s.me.pfx) →
     (∀ o : EHset, FullS s [o.a, o.b] → s.me.pure = false →
       let a := (s.me.getS o.a).toNat
       let b := (s.me.getS o.b).toNat
       (2 ≤ b → Raises s (.hset o) .illegal none) ∧
       (b < 2 → a = 0 → ∃ t, exec (.hset o) s = .next t ∧ BindsHandle s t o.h none ∧ Elsewhere s t) ∧
       (b < 2 → a ≠ 0 → a % 64 ≠ 0 → Raises s (.hset o) .address (some (BitVec.ofNat 64 a))) ∧
       (∀ ls, b < 2 → a ≠ 0 → a % 64 = 0 → NothingMeets s → oneWindow (coreOfCtx s.cur) a 64 = true → Reaches s .read (span a 64) ls →
         (recordOk (ls.map (readHere s)) = true → ∃ t, exec (.hset o) s = .next t ∧
           BindsHandle s t o.h (some ⟨a, bit b 0, ls.map (readHere s)⟩) ∧ AroundAccess s t ∧ SameBytes s t))) ∧
     (∀ o : EHget, FullS s [o.b, o.d] →
       let n := (s.me.getS o.b).toNat
       (13 < n → Raises s (.hget o) .illegal none) ∧
       (s.me.handle? o.h = none → n < 13 → Raises s (.hget o) .address (some 0)) ∧
       (s.me.handle? o.h = none → n = 13 → GivesS s (.hget o) o.d 0) ∧
       (∀ h : Handle, s.me.handle? o.h = some h →
         (∀ e ∈ [(0, leAt h.copy 0 8), (1, leAt h.copy 8 8), (3, leAt h.copy 0x30 8), (4, leAt h.copy 0x38 8), (5, leAt h.copy 0x10 4),
             (6, leAt h.copy 0x14 4), (7, leAt h.copy 0x18 4), (8, leAt h.copy 0x1C 4), (9, leAt h.copy 0x20 4), (10, leAt h.copy 0x24 4),
             (11, leAt h.copy 0x28 4), (12, lTiles h.copy), (13, h.addr)],
           n = e.1 → GivesS s (.hget o) o.d (BitVec.ofNat 64 e.2)) ∧
         (∀ ls, n = 2 → s.me.pure = false → NothingMeets s → oneWindow (coreOfCtx s.cur) (h.addr + 0x2C) 4 = true →
           Reaches s .read (span (h.addr + 0x2C) 4) ls →
           ReadsInto s (.hget o) o.d (BitVec.ofNat 64 (leNat (ls.map (readHere s)))))))) ∧
  ((∀ (s : State) (o : EHget) (h : Handle) (ls : List Loc), Accepts s accG → GuardOn s (modGuard s.me.pfx) → FullS s [o.b, o.d] →
     NothingMeets { s with convs := [] } → (∀ c ∈ s.convs, c.locked = []) → s.me.handle? o.h = some h → s.me.reply = none →
     oneWindow (coreOfCtx s.cur) (h.addr + 0x2C) 4 = true →
     let a := h.addr + 0x2C
     let b := (s.me.getS o.b).toNat
     let c := leNat (ls.map (readHere s))
     (b = 1 ∨ b = 0 ∧ bit c 12 = false → Reaches s .read (span a 4) ls → ReadsInto s (.rlwait o) o.d (BitVec.ofNat 64 (bits c 14 12))) ∧
     (1 ≤ b → b ≤ 3 → s.me.pure = false → s.me.strict = false → bits (leAt h.copy 0x2C 4) 9 8 ≠ 0 → a % 4 = 0 →
       Reaches s .write (span a 4) ls → Reaches s .read (span a 4) ls →
       (bit c 12 = true → ReadsInto s (.relayout o) o.d 1) ∧
       (bit c 12 = false → bits c 9 8 = b → ReadsInto s (.relayout o) o.d 2) ∧
       (bit c 12 = false → bits c 9 8 ≠ b → 16 ≤ s.convs.length → ReadsInto s (.relayout o) o.d 3) ∧
       (bit c 12 = false → bits c 9 8 ≠ b → s.convs.length < 16 →
         ∃ t new, exec (.relayout o) s = .next t ∧ t.me.getS o.d = 0 ∧ t.me.fullS o.d = true ∧ SameRegs s t [o.d] [] ∧
           AroundAccess { s with convs := t.convs } t ∧
           t.convs = s.convs ++ [⟨s.me.vd, h.addr, lBase h.copy, lShadow h.copy, lTiles h.copy, lWidth h.copy, bits c 9 8, b, 1, [], [], [], []⟩] ∧
           (∀ l, nearLoc l = true → readHere t l = (lastCell (ls.zip (leBytes 4 new)) l).getD (readHere s l)) ∧
           ∀ k < 32, new.testBit k = if k = 12 then true else if k = 13 ∨ k = 14 then false
             else if k = 10 ∨ k = 11 then b.testBit (k - 10) else c.testBit k))) ∧
   (∀ (s : State) (ix : Nat) (c : Conv), s.broken = none → s.convs[ix]? = some c →
     let onDone (a : State) (c : Conv) : List Conv := (a.convs.eraseIdx ix).map (fun k =>
       if k.vd == c.vd && k.base < c.base + 4096 * c.tiles && c.base < k.base + 4096 * k.tiles then
         { k with others := k.others ++ [c.record] } else k)
     (∀ ws : List (Nat × Word), let s1 := pagerMaps s c.vd none ws
       c.step = 1 → s1.broken = none → (∀ l ∈ convLeaves s1 c, ∃ x, l = some x ∧ leafConverts x = true ∧ bit x 11 = false) →
       convMoving s1 c = false → exec (.relayoutStart ix (.resolved ws)) s = .next { s1 with convs := s1.convs.set ix { c with step := 3 } }) ∧
     (∀ (t pa hp : Nat), c.step = 3 → t < c.tiles → t ∉ c.done → c.done.length + 1 < c.tiles → 1 ≤ c.tag → c.tag ≤ 3 → 1 ≤ c.target →
       c.target ≤ 3 → (c.w = 1 ∨ c.w = 2 ∨ c.w = 4 ∨ c.w = 8) →
       MappedApart s c.vd (c.base + 4096 * t) pa [(pa, 4096), (hp, 8)] → pa % 4096 = 0 →
       MappedApart s c.vd (c.shadow + 16 * t) hp [(pa, 4096), (hp, 8)] → hp % 8 = 0 → (hp + 8 ≤ pa ∨ pa + 4096 ≤ hp) → lockedAt s pa = none →
       ∃ v u, exec (.relayoutTileConvert ix t) s = .next v ∧ exec (.relayoutTileConvert ix t) v = .next u ∧
         v = { s with mem := v.mem, convs := s.convs.set ix { c with locked := c.locked ++ [t] } } ∧
         (∀ k < 64, (leNat (memRead v.mem hp 8)).testBit k = ((leNat (memRead s.mem hp 8)).testBit k || k == 34)) ∧
         (∀ a, (a < hp ∨ hp + 8 ≤ a) → memGet v.mem a = memGet s.mem a) ∧ u = { s with mem := u.mem, convs := u.convs } ∧
         u.convs = s.convs.set ix { c with done := c.done ++ [t] } ∧
         (∀ i < blockRows c.w, ∀ j < blockCols c.w, ∀ b < c.w,
           memGet u.mem (pa + tileOffset c.w c.target i j + b) = memGet s.mem (pa + tileOffset c.w c.tag i j + b)) ∧
         (∀ k < 64, (leNat (memRead u.mem hp 8)).testBit k = (k != 34 && ((leNat (memRead s.mem hp 8)).testBit k || k == 33))) ∧
         ∀ a, (a < pa ∨ pa + 4096 ≤ a) → (a < hp ∨ hp + 8 ≤ a) → memGet u.mem a = memGet s.mem a) ∧
     (∀ (p : Nat) (v : VDev), c.step = 5 → s.vdev? c.vd = some v → p ∈ v.piers → p ∉ c.acks → oldPlace s p c = false →
       let k : Conv := { c with acks := c.acks ++ [p], step := if ∀ q ∈ v.piers, q ∈ c.acks ∨ q = p then 6 else 5 }
       exec (.relayoutDrainAck ix p) s = .next { s with convs := s.convs.set ix k }) ∧
     (∀ s1 : State, c.step = 6 → c.tiles = 0 → convControl s c (fun w => setBits w 14 10 0) = (s1, true) → s1.broken = none →
       exec (.relayoutFinish ix) s = .next { s1 with convs := onDone s1 c }) ∧
     (∀ (s1 : State) (hp : Nat), c.step = 6 → c.tiles = 1 → convControl s c (fun w => setBits w 14 10 0) = (s1, true) →
       s1.broken = none → MappedApart s1 c.vd c.shadow hp [(hp, 8)] → hp % 8 = 0 →
       ∃ u, exec (.relayoutFinish ix) s = .next u ∧ u = { s1 with mem := u.mem, convs := onDone s1 c } ∧
         (∀ k < 64, (leNat (memRead u.mem hp 8)).testBit k = ((leNat (memRead s1.mem hp 8)).testBit k && k != 33)) ∧
         ∀ a, (a < hp ∨ hp + 8 ≤ a) → memGet u.mem a = memGet s1.mem a)))


/-- R282, R296 to R299: CHASH stores the SHA-512/256 digest of its bytes; ENTSET, at system level, writes an entry of a job's table and
gives the old one; RPROBE finds the entry of a key and the tenant and changes none; RINV clears the entries of its tenant that it names
and counts them; another tenant's is PRIVILEGE. -/
def Obligations.HashesEntriesAndReuse : Prop :=
  ∀ (s : State), Accepts s accG → GuardOn s (modGuard s.me.pfx) → NothingMeets s →
    (∀ (o : E3) (s1 : State) (bs : Bytes) (ls : List Loc), FullS s [o.a, o.b, o.d] → s.me.asked = false →
      let a := (s.me.getS o.a).toNat
      let b := (s.me.getS o.b).toNat
      let d := (s.me.getS o.d).toNat
      ((a % 4 ≠ 0 ∨ b % 4 ≠ 0 ∨ b < 4 ∨ 2 ^ 20 < b) → Raises s (.chash o) .illegal none) ∧
      (a % 4 = 0 → b % 4 = 0 → 4 ≤ b → b ≤ 2 ^ 20 → d % 8 = 0 → operand s a b = .ok s1 bs → oneWindow (coreOfCtx s.cur) d 32 = true →
        Reaches s1 .write (span d 32) ls → AroundAccess s s1 → NothingMeets s1 → SameBytes s s1 →
        ∃ t, exec (.chash o) s = .next t ∧ SameRegs s t [] [] ∧ AroundAccess s t ∧
          ∀ l, nearLoc l = true → readHere t l = (lastCell (ls.zip (sha256of512 bs)) l).getD (readHere s l))) ∧
    (∀ (o : E3) (j : JobRec) (v : VDev) (old pa : Nat), FullS s [o.a, o.b, o.d] →
      let a := (s.me.getS o.a).toNat
      let b := (s.me.getS o.b).toNat
      let n := a % 256
      s.job? (a / 2 ^ 32) = some j → bits a 31 8 = 0 → bits b 62 48 = 0 → b % 4 = 0 →
      (s.me.level < 3 → Raises s (.entset o) .privilege none) ∧
      (s.me.level = 3 → s.vdev? j.vd = some v → WordAt s j.vd (j.entryTab + 8 * n) pa old → j.entryTab % 8 = 0 →
        ∃ t, exec (.entset o) s = .next t ∧ t.me.getS o.d = (if o.d = 0 then 0 else BitVec.ofNat 64 old) ∧ t.me.fullS o.d = true ∧
          SameRegs s t [o.d] [] ∧ leNat (memRead t.mem pa 8) = b ∧
          (∀ x, (x < pa ∨ pa + 8 ≤ x) → memGet t.mem x = memGet s.mem x) ∧
          (∀ p ∈ v.piers, kget? (t.pier p).entries (a / 2 ^ 32 * 256 + n) = some b) ∧
          t = { s with mem := t.mem, ctxs := t.ctxs, piers := t.piers, cores := t.cores })) ∧
    (∀ (o : EDA) (ls : List Loc), FullS s [o.a, o.d] →
      let a := (s.me.getS o.a).toNat
      (a % 8 ≠ 0 → Raises s (.rprobe o) .address (some (BitVec.ofNat 64 a))) ∧
      (a % 8 = 0 → oneWindow (coreOfCtx s.cur) a 16 = true → Reaches s .read (span a 16) ls →
        let key := ls.map (readHere s)
        let hit := s.reuse.find? (fun e => e.1 / 16 == reuseSet key && e.2.key == key && e.2.tenant == s.me.tenant.toNat)
        ReadsInto s (.rprobe o) o.d (match hit with
          | some (i, e) => BitVec.ofNat 64 (2 ^ 63 + i % 16 * 2 ^ 48 + e.summary % 2 ^ 48)
          | none => 0))) ∧
    (∀ o : E3, FullS s [o.a, o.b, o.d] →
      let b := (s.me.getS o.b).toNat
      let tenant := bits b 31 16
      b / 2 ^ 32 = 0 → bits b 15 2 = 0 → b % 4 ≠ 3 →
      (tenant ≠ s.me.tenant.toNat → s.me.level < 3 → Raises s (.rinv o) .privilege none) ∧
      (tenant = s.me.tenant.toNat ∨ s.me.level = 3 → b % 4 = 0 →
        (∀ e ∈ s.reuse, s.reuse.filter (fun x => x.1 == e.1) = [e]) →
        ∃ t, exec (.rinv o) s = .next t ∧ t.reuse = s.reuse.filter (fun e => e.2.tenant != tenant) ∧
          t.me.getS o.d = (if o.d = 0 then 0 else
            BitVec.ofNat 64 (s.reuse.filter (fun e => e.2.tenant == tenant)).length) ∧
          t.me.fullS o.d = true ∧ SameRegs s t [o.d] [] ∧
          t = { s with ctxs := t.ctxs, cores := t.cores, reuse := t.reuse, vdevs := t.vdevs }))

/-! ### Units: creation and placement -/

/-- R19, R20, R23, R27 to R35: a record that is offered to a pier with an idle context starts there; at its hint pier it enters the deque, by
urgency and then by arrival; elsewhere it moves on. A context that frees pops the bottom of its pier's deque, or steals the top of the
first deque of R33 that is not empty; a stolen record starts on it. A record that waits for a place in a deque enters when there is
one. -/
def Obligations.RecordsArePlaced : Prop :=
  ∀ (s : State) (vd r rpa : Nat), s.broken = none → ReadyRecord s vd r rpa →
    (∀ (i c : Nat) (w : Walk), s.walkers[i]? = some w → w.record = r → w.vd = vd →
      let w3 := recWord s vd r 3
      let x := bits w3 7 0
      let y := bits w3 13 8
      let q := if w.offered then hopTo w.pier x y else withinRadius x y (bits w3 18 14) 512 w.pier
      let e : DqEntry := ⟨bits w3 63 32, r, vd⟩
      (∀ d ds, idleCtxs s q vd = d :: ds → ∃ t, exec (.recordOffer i c) s = .next t ∧
        UnitRuns s t (if c ∈ d :: ds then c else d) vd r ∧ t.walkers = s.walkers.eraseIdx i ∧
        (∀ a, (a < rpa ∨ rpa + 64 ≤ a) → memGet t.mem a = memGet s.mem a)) ∧
      (idleCtxs s q vd = [] → q = pierAt x y → (s.pier q).deque.length < 4096 → ∃ t, exec (.recordOffer i c) s = .next t ∧
        t = { s with walkers := s.walkers.eraseIdx i, piers := t.piers } ∧ (∀ p, p ≠ q → t.pier p = s.pier p) ∧
        t.pier q = { s.pier q with deque := (s.pier q).deque.takeWhile (fun z => decide (z.urgency ≤ e.urgency)) ++
          e :: (s.pier q).deque.dropWhile (fun z => decide (z.urgency ≤ e.urgency)) }) ∧
      (idleCtxs s q vd = [] → q ≠ pierAt x y →
        exec (.recordOffer i c) s = .next { s with walkers := s.walkers.set i { w with pier := q, offered := true } })) ∧
    (∀ (c : Nat) (v : VDev), let p := pierOfCtx c
      let x := s.ctx c
      (s.pier p).owner = some vd → s.vdev? vd = some v → v.reserving = none → vacant s vd c = true → x.heldUnit = none →
      (∀ es u, (s.pier p).deque = ⟨u, r, vd⟩ :: es → ∃ t, exec (.contextFreePop c) s = .next t ∧ UnitRuns s t c vd r ∧
        t.pier p = { s.pier p with deque := es } ∧ ∀ a, (a < rpa ∨ rpa + 64 ≤ a) → memGet t.mem a = memGet s.mem a) ∧
      (∀ (q : Nat) (ds : List DqEntry) (u : Nat), (s.pier p).deque = [] → x.freed = true → (s.pier p).stealr ≠ 0 →
        (victims p (s.pier p).stealr).find? (fun q => (s.pier q).owner == some vd && !(s.pier q).deque.isEmpty) = some q →
        (s.pier q).deque = ds ++ [⟨u, r, vd⟩] → q ≠ p →
        ∃ t, exec (.contextFreePop c) s = .next t ∧ t.stolen = s.stolen ++ [(c, r, vd)] ∧ (t.pier q).deque = ds ∧
          t.ctx c = { x with freed := false, stealing := true } ∧ t = { s with ctxs := t.ctxs, piers := t.piers, stolen := t.stolen } ∧
          kget 0 (t.pier p).events 3 = kget 0 (s.pier p).events 3 + 1)) ∧
    (∀ (c : Nat), (s.ctx c).stealing = true → s.stolen.find? (fun t => t.1 == c) = some (c, r, vd) → s.quiet vd = false →
      ∃ t, exec (.stolenRecordArrive c) s = .next t ∧ UnitRuns s t c vd r ∧ t.stolen = s.stolen.erase (c, r, vd) ∧
        ∀ a, (a < rpa ∨ rpa + 64 ≤ a) → memGet t.mem a = memGet s.mem a) ∧
    (∀ (p : Nat) (e : DqEntry) (es : List DqEntry), (s.pier p).dqWait = e :: es → (s.pier p).deque.length < 4096 →
      ∃ t, exec (.dequeEntryResume p) s = .next t ∧ OnlyPier s t p ∧
        t.pier p = { s.pier p with dqWait := es, deque := (s.pier p).deque.takeWhile (fun z => decide (z.urgency ≤ e.urgency)) ++
          e :: (s.pier p).deque.dropWhile (fun z => decide (z.urgency ≤ e.urgency)) })

/-- R27, R332 to R334: FORK and SPAWN create a unit of the launch with the next index, its record filled, the launch's counter one up; FORK
adds one to counter b and puts the record into the deque of its own pier; SPAWN sends it to its hint. JOIN goes on when the counter is
0; otherwise the unit waits for 0. -/
def Obligations.UnitsForkJoinAndSpawn : Prop :=
  ∀ (s : State) (v : VDev) (r rpa : Nat) (rs : List Nat) (l : Launch) (k : Counter),
    let x := s.me
    let id := x.launchid.toNat
    let p := pierOfCtx s.cur
    let i := l.spawnNext
    x.role = .unit → x.pure = false → Accepts s accG → GuardOn s (modGuard x.pfx) → NothingMeets s → s.cur < 409600 →
    s.vdev? x.vd = some v → s.launch? id = some l → i < 2 ^ 32 → kget? s.counters id = some k → k.waiters = [] → k.value < 2 ^ 47 - 1 →
    -(2 ^ 47) ≤ k.value →
    (∀ (o : E3) (kb : Counter), FullS s [o.a, o.b, o.d] → v.recPool = r :: rs → MappedApart s x.vd r rpa [(rpa, 64)] → r % 64 = 0 →
      let a := (x.getS o.a).toNat
      let b := (x.getS o.b).toNat
      ownCounter s x.jobid.toNat b = some kb → b ≠ id → kb.waiters = [] → kb.value < 2 ^ 47 - 1 → -(2 ^ 47) ≤ kb.value → a % 4 = 0 →
      (s.pier p).deque.length < 4096 → onWayTo s s.cur b = false → onWayTo s s.cur id = false →
      (kb.kind = .level → Raises s (.fork o) .privilege none) ∧ (kb.kind ≠ .level →
      ∃ t, exec (.fork o) s = .next t ∧ t.me.getS o.d = (if o.d = 0 then 0 else BitVec.ofNat 64 i) ∧ t.me.fullS o.d = true ∧
        SameRegs s t [o.d] [] ∧ t.vdev? x.vd = some { v with recPool := rs } ∧
        (List.range 8).map (recWord t x.vd r) = [(if x.strict then 2 ^ 58 else 0) + stReady * 2 ^ 48 + a % 2 ^ 48, 0, i * 2 ^ 32 + id,
          x.urgency.toNat * 2 ^ 32 + pierY p * 2 ^ 8 + pierX p, x.budget.toNat, (x.getS 1).toNat, (x.getS 2).toNat, b] ∧
        OnlyRecordAndFrame s t rpa rpa ∧ kget? t.counters id = some { k with value := k.value + 1 } ∧
        kget? t.counters b = some { kb with value := kb.value + 1 } ∧ ⟨x.urgency.toNat, r, x.vd⟩ ∈ (t.pier p).deque ∧
        (t.pier p).deque.length = (s.pier p).deque.length + 1 ∧
        t.launch? id = some { l with spawnNext := i + 1, live := l.live ++ [r] })) ∧
    (∀ (o : EDA) (s1 : State) (ds : Bytes), FullS s [o.a, o.d] →
      let a := (x.getS o.a).toNat
      let w (n : Nat) : Nat := leAt ds (8 * n) 8
      let h := fixHint s x.vd (bits (w 1) 7 0) (bits (w 1) 13 8)
      (a % 8 ≠ 0 → Raises s (.spawn o) .address (some (BitVec.ofNat 64 a))) ∧
      (a % 8 = 0 → operand s a 48 = .ok s1 ds → v.recPool = r :: rs → MappedApart s1 x.vd r rpa [(rpa, 64)] → r % 64 = 0 →
        onWayTo s s.cur id = false → w 0 < 2 ^ 48 → w 0 % 4 = 0 → bits (w 1) 31 19 = 0 → w 2 < 2 ^ 32 → h.1 < 256 → h.2 < 64 → (s.pier p).deque.length < 4096 →
        ∃ t, exec (.spawn o) s = .next t ∧ t.me.getS o.d = (if o.d = 0 then 0 else BitVec.ofNat 64 i) ∧ t.me.fullS o.d = true ∧
          SameRegs s t [o.d] [] ∧
          (List.range 8).map (recWord t x.vd r) = [(if x.strict then 2 ^ 58 else 0) + stReady * 2 ^ 48 + w 0, 0, i * 2 ^ 32 + id,
            w 1 / 2 ^ 14 * 2 ^ 14 + h.2 * 2 ^ 8 + h.1, w 2, w 3, w 4, w 5] ∧ OnlyRecordAndFrame s t rpa rpa ∧
          kget? t.counters id = some { k with value := k.value + 1 } ∧ t.walkers = s.walkers ++ [⟨r, x.vd, p, false⟩] ∧
          t.launch? id = some { l with spawnNext := i + 1, live := l.live ++ [r] })) ∧
    (∀ (o : EA) (kb : Counter), FullS s [o.a] →
      let b := (x.getS o.a).toNat
      ownCounter s x.jobid.toNat b = some kb → onWayTo s s.cur b = false →
      (kb.value = 0 → GoesTo s (.join o) (x.pc + 4 * x.pfx.length + 4)) ∧
      (kb.value ≠ 0 → AtRest s s.cur → s.preempts = [] → MappedApart s x.vd x.record rpa [(rpa, 64)] → x.record % 64 = 0 →
        ∃ t, exec (.join o) s = .next t ∧ Suspended s t rpa stWaiting (waitCounter 2 b) (x.pc + 4 * x.pfx.length + 4) ∧
          kget? t.counters b = some { kb with waiters := kb.waiters ++ [⟨x.vd, x.record, p, .zero⟩] } ∧
          ∀ n, n ≠ b → kget? t.counters n = kget? s.counters n))

/-! ### Queues and launches -/

/-- R303, R304: a write to WIDX is ignored, moves WIDX, or stops the queue; other words of the register block ignore writes; firmware resets
the queue. R335: LAUNCH reads its packet, writes it to the slot of WIDX, adds one to WIDX and gives the old one, or all ones when the ring
is full. -/
def Obligations.QueueRegistersAndLaunch : Prop :=
  ∀ (s : State) (n : Nat) (q : Queue), s.broken = none → s.queue? n = some q →
    (∀ v : Word, let w := v.toNat
      exec (.widxWrite n v) s = .next (if w ≤ q.widx then s else s.setQueue n (if w ≤ q.ridx + 2 ^ q.logSize then { q with widx := w }
        else { q with error := true }))) ∧
    (∀ (off : Nat) (v : Word), exec (.queueRegisterWrite n off v) s = .next s) ∧
    (∀ en : Bool, exec (.queueErrorReset n en) s = .next (s.setQueue n { q with error := false, enabled := en })) ∧
    (∀ (o : E3) (s1 : State) (p : Bytes) (pa : Nat), Accepts s accG → GuardOn s (modGuard s.me.pfx) → FullS s [o.a, o.b, o.d] →
      let a := (s.me.getS o.a).toNat
      let slot := q.ring + 64 * (q.widx % 2 ^ q.logSize)
      (s.me.getS o.b).toNat = n → n < 4096 →
      (q.vd ≠ s.me.vd → Raises s (.launch o) .illegal none) ∧
      (q.vd = s.me.vd → s.me.pure = false → a % 64 ≠ 0 → Raises s (.launch o) .address (some (BitVec.ofNat 64 a))) ∧
      (q.vd = s.me.vd → s.me.pure = false → a % 64 = 0 → operand s a 64 = .ok s1 p → s1.remote = [] → s1.arrived = [] →
        s1 = { s with cores := s1.cores, piers := s1.piers, decks := s1.decks, counts := s1.counts } →
        (s1.core (coreOfCtx s.cur)).sb = [] → p.length = 64 → s.transfers = [] → s.poison = [] → s.convs = [] →
        (q.widx < q.ridx + 2 ^ q.logSize → q.widx < 2 ^ 64 - 1 → q.ridx ≤ q.widx → slot % 64 = 0 →
          PlacedAt s1 (sysWho q.vd (coreOfCtx s.cur)) .write (span slot 64) ((List.range 64).map (fun i => .here (pa + i))) →
          (∀ i < 64, regBlock s (pa + i) = none) →
          ∃ t, exec (.launch o) s = .next t ∧ t.me.getS o.d = (if o.d = 0 then 0 else BitVec.ofNat 64 q.widx) ∧ t.me.fullS o.d = true ∧
            SameRegs s t [o.d] [] ∧ t.queue? n = some { q with widx := q.widx + 1 } ∧ memRead t.mem pa 64 = p ∧
            (∀ x, (x < pa ∨ pa + 64 ≤ x) → memGet t.mem x = memGet s.mem x) ∧ t.spad = s.spad) ∧
        (q.ridx ≤ q.widx → q.ridx + 2 ^ q.logSize ≤ q.widx →
          ∃ t, exec (.launch o) s = .next t ∧ t.me.getS o.d = (if o.d = 0 then 0 else BitVec.allOnes 64) ∧ t.me.fullS o.d = true ∧
            SameRegs s t [o.d] [] ∧ t.queues = s.queues ∧ t.mem = s.mem ∧ t.spad = s.spad)))

/-- R305, R307, R308, R309, R310, R311: a packet without leases, dependences or a pure list is admitted as a launch whose counter holds its
units; a malformed one is rejected and starts nothing; a packet that waited for its dependences is admitted once they are zero. Units are
generated in order with the record of R310. A reuse copy that is over retires its unit. When the launch's counter is zero, its record is
written and its job's counter falls. -/
def Obligations.LaunchesRun : Prop :=
  (∀ (s : State) (n : Nat) (q : Queue) (p : Bytes) (kj : Counter) (j : JobRec) (id seq : Nat), s.broken = none →
    s.remote = [] → s.arrived = [] → s.transfers = [] → s.queue? n = some q → s.quiet q.vd = false → q.drops = [] → s.job? q.jobid = some j → j.cancelled = false →
    kget? s.counters q.jobid = some kj → kj.waiters = [] → -(2 ^ 47) ≤ kj.value → kj.value < 2 ^ 47 - 1 →
    let fresh := q.pkt = none ∧ q.enabled = true ∧ q.error = false ∧ q.ridx < q.widx ∧ seq = q.ridx ∧ p = ringPacket s q q.ridx
    let waited := q.pkt = some (seq, p) ∧ q.wait = .depend ∧ q.info = noInfo
    let level : Counter := ⟨q.jobid, 0, 0, .level, false, leAt p 8 4, [], false⟩
    let admitted (t : State) (y : Queue) : Prop := ∃ x, t.launch? id = some x ∧ x.vd = q.vd ∧ x.jobid = q.jobid ∧ x.queue = n ∧
      x.seq = seq ∧ x.phase = .generating ∧ x.pkt = p ∧ x.units = leAt p 8 4 ∧ x.next = 0 ∧ x.live = [] ∧ x.leases = [] ∧
      kget? t.counters id = some level ∧ t.queue? n = some y ∧ y.pkt = none ∧ y.widx = q.widx ∧ y.error = q.error ∧
      y.enabled = q.enabled ∧ t.mem = s.mem ∧ t.ctxs = s.ctxs
    bits (leAt p 0 8) 52 48 = bits (leAt p 0 8) 50 50 * 4 → bits (leAt p 8 8) 36 32 = 0 → leAt p 48 4 = 0 →
    (packetBad p = false → leAt p 32 8 = 0 → freeCounterId (addCounter s q.jobid 1) q.deck = some id →
      freeCounterId s q.deck = some id → kget? s.counters id = none →
      (fresh → ∃ t y, exec (.packetAdmit n) s = .next t ∧ admitted t y ∧ y.ridx = q.ridx + 1 ∧ y.pending = q.pending ++ [q.ridx] ∧
        kget? t.counters q.jobid = some { kj with value := kj.value + 1 }) ∧
      (waited → ∃ t y, exec (.admissionNotice n .frameWait) s = .next t ∧ admitted t y ∧ y.ridx = q.ridx ∧
        t.counters = kput id level s.counters)) ∧
    (fresh → packetBad p = true → pkRecord p = 0 → (∃ l ∈ s.launches, l.2.jobid = q.jobid ∧ l.2.phase ≠ .ended) →
      ∃ t y, exec (.packetAdmit n) s = .next t ∧ t.launches = s.launches ∧ t.queue? n = some y ∧ y.pkt = none ∧ y.ridx = q.ridx + 1 ∧
        kget? t.counters q.jobid = some kj ∧ t.mem = s.mem)) ∧
  (∀ (s : State) (l : Nat) (x : Launch) (v : VDev), s.broken = none → s.launch? l = some x → s.vdev? x.vd = some v → s.quiet x.vd = false →
    (∀ (r rpa : Nat) (rs : List Nat), x.phase = .generating → x.skip = [] → x.reuseCopy = none → x.unplaced.length < 256 → l < 2 ^ 32 →
      x.next < x.units → x.units < 2 ^ 32 → bits (leAt x.pkt 0 8) 52 51 = 0 → bits (leAt x.pkt 56 8) 20 19 = 0 →
      v.recPool = r :: rs → MappedApart s x.vd r rpa [(rpa, 64)] → r % 64 = 0 →
      let w (n : Nat) : Nat := leAt x.pkt (8 * n) 8
      let h := fixHint s x.vd (bits (w 7) 7 0) (bits (w 7) 13 8)
      h.1 < 256 → h.2 < 64 →
      ∃ t, exec (.unitGenerate l) s = .next t ∧
        (List.range 8).map (recWord t x.vd r) = [bits (w 0) 50 50 * 2 ^ 58 + stReady * 2 ^ 48 + bits (w 0) 47 0, 0, x.next * 2 ^ 32 + l,
          bits (w 6) 63 32 * 2 ^ 32 + bits (w 7) 18 14 * 2 ^ 14 + h.2 * 2 ^ 8 + h.1, bits (w 7) 63 32, x.next, w 2, w 1 % 2 ^ 32] ∧
        OnlyRecordAndFrame s t rpa rpa ∧ t.walkers = s.walkers ++ [⟨r, x.vd, deckPier x.deck h.1 h.2, false⟩] ∧
        t.launch? l = some { x with next := x.next + 1, live := x.live ++ [r], unplaced := x.unplaced ++ [r] } ∧
        t.vdev? x.vd = some { v with recPool := rs } ∧ t.ctxs = s.ctxs ∧ t.counters = s.counters) ∧
    (x.phase = .generating → x.skip = [] → x.reuseCopy = none → x.unplaced.length < 256 → x.next = x.units →
      exec (.unitGenerate l) s = .next (s.setLaunch l { x with phase := .running })) ∧
    (∀ (c : ReuseCopy) (r rpa : Nat) (k : Counter) (u : State), x.reuseCopy = some c → c.record = r → r ∈ x.live →
      s.remote = [] → s.arrived = [] → s.transfers = [] → (reuseSectors (c.stored.zip x.results)).length ≤ c.done →
      let h := recWord s x.vd r 3
      allGens s (launchAgent l) c.vd (pierAt (bits h 7 0) (bits h 13 8) * 8) c.stored = .ok u c.gens →
      u = { s with cores := u.cores, piers := u.piers, decks := u.decks, counts := u.counts } →
      MappedApart s x.vd r rpa [(rpa, 64)] → r % 64 = 0 →
      kget? s.counters l = some k → k.waiters = [] → -(2 ^ 47) < k.value → k.value < 2 ^ 47 →
      ∃ t y, exec (.reuseCopyDone l) s = .next t ∧ t.launch? l = some y ∧ y.retired = x.retired + 1 ∧ y.reuseCopy = none ∧
        y.live = x.live.filter (fun z => z != r) ∧ kget? t.counters l = some { k with value := k.value - 1 } ∧
        recState t x.vd r = stDone ∧ t.vdev? x.vd = some { v with recPool := v.recPool ++ [r] } ∧ OnlyRecordAndFrame s t rpa rpa) ∧
    (∀ (k kj : Counter) (s1 : State), (x.phase = .running ∨ x.phase = .generating) → x.status ≠ 2 → x.cause = .none → x.leases = [] →
      s.leaseReqs.filter (fun r => r.launch == l) = [] → s.remote = [] → kget? s.counters l = some k → k.value = 0 →
      kget? s.counters x.jobid = some kj → kj.waiters = [] → -(2 ^ 47) < kj.value → kj.value < 2 ^ 47 → x.jobid ≠ l → leAt x.pkt 48 4 = 0 →
      (∃ m ∈ s.launches, m.1 ≠ l ∧ m.2.jobid = x.jobid ∧ m.2.phase ≠ .ended) →
      let a := leAt x.pkt 40 8
      a ≠ 0 → a % 32 = 0 →
      engWriteAt (s.setLaunch l { x with phase := .recording, leases := [] }) (launchAgent l) x.jobid (procWho s x.vd) a
        (leBytes 8 (2 ^ 63 + 2 ^ 48) ++ leBytes 8 l ++ leBytes 8 x.retired ++ leBytes 8 x.seq) = .ok s1 () →
      s1.remote = [] → s1.transfers = [] → s1.broken = none → s1.launches = (s.setLaunch l { x with phase := .recording, leases := [] }).launches →
      s1.counters = s.counters →
      ∃ t, exec (.launchComplete l) s = .next t ∧ t.launch? l = some { x with phase := .ended, leases := [] } ∧
        kget? t.counters x.jobid = some { kj with value := kj.value - 1 } ∧ (∀ c ∈ t.counters, c.1 ≠ l) ∧
        t = { s1 with launches := t.launches, counters := t.counters, queues := t.queues }))

/-! ### Translation, leases, pages -/

/-- R258, R259, R266 to R270: TLBINV starts a shoot-down of its piers and goes on when it is over, and is PRIVILEGE below system level; a
targeted pier drops the translations of the range and acknowledges. LEASE asks the pager for its range, and has its number once the range
is resident and pinned; UNLEASE ends a range. PGADV queues an advice, which the pager applies. PGQRY gives the leaf of an address, its
frame to system level only, or 0. -/
def Obligations.TranslationInstructions : Prop :=
  ∀ (s : State), s.broken = none →
    (∀ (o : ETlb) (v : VDev), Accepts s accG → GuardOn s (modGuard s.me.pfx) → FullS s [o.a, o.b] → s.remote = [] → s.arrived = [] →
      s.transfers = [] → (s.core (coreOfCtx s.cur)).sb = [] →
      let a := (s.me.getS o.a).toNat
      let b := (s.me.getS o.b).toNat
      let vd := b / 2 ^ 48
      let me := pierOfCtx s.cur
      let ps := v.piers.filter (fun p => match o.scope with
        | .pier => p == me | .deck => deckOfPier p == deckOfPier me | .device => true)
      bits b 47 32 = 0 → s.vdev? vd = some v →
      ∀ e ∈ [(Instr.tlbinv o, some (a, b % 2 ^ 32)), (.tlbinvAll o, none)], (e.2 ≠ none → a % 65536 = 0 ∧ b % 2 ^ 32 ≠ 0) →
      (s.me.level < 3 → Raises s e.1 .privilege none) ∧
      (s.me.level = 3 → s.me.asked = false → ps ≠ [] → stopDue s.me = false →
        exec e.1 s = .next ({ s with shoots := s.shoots ++ [(⟨some s.cur, vd, e.2, ps, []⟩ : Shoot)] }.setMe { s.me with asked := true })) ∧
      (s.me.level = 3 → (s.me.asked = true ∧ s.shoots.any (fun h => h.ctx == some s.cur) = false ∨ s.me.asked = false ∧ ps = []) →
        GoesTo s e.1 (s.me.pc + 4 * s.me.pfx.length + 4))) ∧
    (∀ (ix p : Nat) (h : Shoot), s.shoots[ix]? = some h →
      (p ∈ h.todo → ∃ t, exec (.shootdownPier ix p) s = .next t ∧
        t = { s with shoots := s.shoots.set ix { h with todo := h.todo.filter (fun q => q != p), acks := h.acks ++ [p] }, piers := t.piers
                     cores := t.cores, decks := t.decks } ∧
        (t.pier p).tlb = (s.pier p).tlb.filter (fun e => !rangeHits h.range e.base e.size) ∧
        (∀ k < 8, (t.core (p * 8 + k)).utlb = (s.core (p * 8 + k)).utlb.filter (fun e => !rangeHits h.range e.base e.size)) ∧
        (∀ q, q ≠ p → t.pier q = s.pier q) ∧ ∀ k, k / 8 ≠ p → t.core k = s.core k) ∧
      (p ∈ h.acks → (∀ k < 8, (s.core (p * 8 + k)).sb = []) → keptBack s p = false → (∀ c, c / 32 = p → (s.ctx c).stop = none) →
        let h2 : Shoot := { h with acks := h.acks.filter (fun q => q != p) }
        exec (.shootdownAck ix p) s = .next { s with shoots := if h2.todo.isEmpty && h2.acks.isEmpty then s.shoots.eraseIdx ix
                                                               else s.shoots.set ix h2 })) ∧
    (∀ (o : E3) (l : Launch) (r : LeaseRange) (n : Nat), Accepts s accG → GuardOn s (modGuard s.me.pfx) → FullS s [o.a, o.b, o.d] →
      s.me.role = .unit → s.launch? s.me.launchid.toNat = some l → pkPure l.pkt = false →
      rangeOf (s.me.getS o.a).toNat (s.me.getS o.b).toNat = some r →
      let req : LeaseReq := ⟨s.me.record, s.me.launchid.toNat, r, false⟩
      let found := s.leaseReqs.find? (fun q => q.record == s.me.record && q.launch == s.me.launchid.toNat && q.range == r)
      (rangeInside r = false → Raises s (.lease o) .address (some (BitVec.ofNat 64 r.base))) ∧
      (rangeInside r = true → l.leases.length < 16 → rangeNumber l = some n → canFit s l.jobid (l.leases.map Prod.snd ++ [r]) = true →
        (found = none → stopDue s.me = false → exec (.lease o) s = .next { s with leaseReqs := s.leaseReqs ++ [req] }) ∧
        (found = some { req with ready := true } → ∃ t, exec (.lease o) s = .next t ∧
          t.me.getS o.d = (if o.d = 0 then 0 else BitVec.ofNat 64 n) ∧ t.me.fullS o.d = true ∧ SameRegs s t [o.d] [] ∧
          t.launch? s.me.launchid.toNat = some { l with leases := kput n r l.leases } ∧
          t.leaseReqs = s.leaseReqs.erase { req with ready := true } ∧ SameBytes s t))) ∧
    (∀ (ix : Nat) (q : LeaseReq) (l : Launch), s.leaseReqs[ix]? = some q → q.ready = false → s.launch? q.launch = some l →
      resident s l.vd q.range = true → canFit s l.jobid (q.range :: jobRanges s l.jobid) = true →
      exec (.leaseRangeResident ix []) s = .next { pinRange s l.vd q.range with leaseReqs := s.leaseReqs.set ix { q with ready := true } }) ∧
    (∀ (o : EA) (l : Launch) (g : LeaseRange), Accepts s accG → GuardOn s (modGuard s.me.pfx) → FullS s [o.a] → s.remote = [] →
      s.arrived = [] → s.transfers = [] → (s.core (coreOfCtx s.cur)).sb = [] → s.me.role = .unit → s.launch? s.me.launchid.toNat = some l →
      pkPure l.pkt = false →
      let n := (s.me.getS o.a).toNat
      ((n = 0 ∨ 16 < n) → Raises s (.unlease o) .illegal none) ∧
      let left := unpinRange (s.setLaunch s.me.launchid.toNat { l with leases := kdel n l.leases }) l.vd g
      (0 < n → n ≤ 16 → kget? l.leases n = some g → (retryFrames left l.jobid).broken = none →
        ∃ t, exec (.unlease o) s = .next t ∧ SameRegs s t [] [] ∧
        t.launch? s.me.launchid.toNat = some { l with leases := kdel n l.leases } ∧
        t.mem = (retryFrames left l.jobid).mem ∧ (s.places = [] → t.mem = left.mem) ∧
        t = { s with mem := t.mem, ctxs := t.ctxs, cores := t.cores, launches := t.launches })) ∧
    (∀ (o : EA) (ls : List Loc), Accepts s accG → GuardOn s (modGuard s.me.pfx) → FullS s [o.a] → s.me.pure = false → NothingMeets s →
      let a := (s.me.getS o.a).toNat
      let d := ls.map (readHere s)
      a % 8 = 0 → oneWindow (coreOfCtx s.cur) a 32 = true → Reaches s .read (span a 32) ls →
      leAt d 12 1 ≤ 6 → leAt d 13 11 = 0 → leAt d 0 8 % 65536 = 0 → leAt d 8 4 ≠ 0 → leAt d 24 8 = 0 →
      ∃ t, exec (.pgadv o) s = .next t ∧ SameRegs s t [] [] ∧ SameBytes s t ∧
        t.advice = s.advice ++ [⟨s.me.vd, s.me.record, leAt d 0 8, leAt d 8 4, leAt d 12 1, 0⟩] ∧
        AroundAccess { s with advice := t.advice } t) ∧
    (∀ (v : Advice) (ws : List (Nat × Word)) (a x lv : Nat), nextAdvice s = some v → v.pages = 1 → v.kind = 3 →
      let t := pagerMaps { s with advice := s.advice.erase v } v.vd none ws
      adviceKeeps v s t = true → adviceSends v s t = [] → mayShoot s v.vd = true → adviseSees s v.vd v.base = true →
      leafAt t v.vd v.base = some (a, x, lv) → bit x 3 = true →
      let u := shootNow { t with mem := memWrite t.mem a (leBytes 8 (setBits x 7 6 3)) } v.vd v.base 1
      u.broken = none → exec (.pagerAdviceApply ws) s = .next u) ∧
    (∀ o : EDA, Accepts s accG → GuardOn s (modGuard s.me.pfx) → FullS s [o.a, o.d] →
      let a := (s.me.getS o.a).toNat
      ((a < 2 ^ 40 ∨ 2 ^ 48 ≤ a ∨ walk s.mem (rootOf s s.me.vd) a = none) → GivesS s (.pgqry o) o.d 0 ∧ GivesS s (.pgqryRes o) o.d 0) ∧
      (∀ x, 2 ^ 40 ≤ a → a < 2 ^ 48 → walk s.mem (rootOf s s.me.vd) a = some x →
        GivesS s (.pgqry o) o.d (BitVec.ofNat 64 (if s.me.level < 3 then x - leafFrame x * 2 ^ 28 else x)) ∧
        (s.transfers = [] → vdRanges s s.me.vd = [] → GivesS s (.pgqryRes o) o.d
          (BitVec.ofNat 64 (leafPeer x * 2 ^ 16 + (if bit x 12 then 2 else 0) + 1)))))

/-- R248, R249, R251 to R253: a page whose counter of another peer has reached the threshold and passes the owner's goes into transfer; at
the hand-over the page leaves with its bytes and the leaf names the new owner; the pager of a page whose advice permits writes asks the duplicate
master of that advice, and the master makes the page the writer's. The names in the messages and what the free frame reads as are log 65's. -/
def Obligations.PagesMoveAndCollapse : Prop :=
  ∀ (s : State), s.broken = none → Memory.wf s.mem = true →
    (∀ (pa toPa peer pre a x lv : Nat) (c : PageCount) (v : VDev), kget? s.counts pa = some c → s.vdev? c.vd = some v →
      leafAt s c.vd c.va = some (a, x, lv) → migrateTo c v.migThresh = some peer → peerPrefix s c.vd peer = some pre →
      leafLoc s c.vd x c.va = .here pa → leafMode x = 3 → bit x 12 = false → s.convs = [] → s.transfers = [] → toPa % leafPages x = 0 →
      pre ≠ s.ownPrefix →
      exec (.migrateThreshold pa toPa) s =
        .next { s with transfers := [⟨pa, leafPages x, c.vd, c.va, peer, pre, toPa, [], [], [], false⟩] }) ∧
    (∀ (t : Transfer) (a x lv : Nat), s.transfers = [t] → t.handed = false → t.queued = [] → t.acks = [] →
      mayShoot s t.vd = true → let s1 := shootNow s t.vd t.va (t.size / 65536)
      s1.transfers = [t] → s1.dying = [] → s1.broken = none → Memory.wf s1.mem = true → leafAt s1 t.vd t.va = some (a, x, lv) →
      (∀ e ∈ walkReads s1.mem t.va 4 1 (rootOf s1 t.vd), e + 8 ≤ t.pa ∨ t.pa + t.size ≤ e) → (a + 8 ≤ t.pa ∨ t.pa + t.size ≤ a) →
      (∀ h ∈ t.heldWrites, h.1 < heldBy 0) →
      let written := t.heldWrites.foldl (fun m h => memWrite m h.2.1 h.2.2) s1.mem
      ∃ u, exec (.migrateHandover t.pa) s = .next u ∧ u.counts = kdel t.pa s1.counts ∧
        u.transfers = [{ t with handed := true, heldWrites := [] }] ∧
        u.out = s1.out ++ [.system t.toPrefix (.page (tenantOf s t.vd) t.va t.toPa t.size (memRead written t.pa t.size))] ∧
        leNat (memRead u.mem a 8) = setBits (setBits (setBits x 55 28 (t.toPa / 65536)) 27 16 t.toPeer) 13 13 1 ∧
        (∀ b, t.pa ≤ b → b < t.pa + t.size → memGet u.mem b = 0) ∧
        (∀ b, (b < t.pa ∨ t.pa + t.size ≤ b) → (b < a ∨ a + 8 ≤ b) → memGet u.mem b = memGet s1.mem b) ∧
        u = { s1 with mem := u.mem, counts := u.counts, transfers := u.transfers, out := u.out }) ∧
    (∀ (vd va table master a x lv : Nat) (d : DupRange), leafAt s vd va = some (a, x, lv) → bit x 8 = true → writeFault s vd va = true →
      dupRange s vd va = some d → d.writes = true → peerPrefix s vd d.master = some master →
      let page := va / 65536 * 65536
      let frame := leafFrame x * 65536 + page % leafPages x
      (vd, page) ∉ s.collapseWaits →
      let asked := { s with collapseWaits := s.collapseWaits ++ [(vd, page)] }
      (master ≠ s.ownPrefix →
        exec (.collapseRequest vd va s.ownPrefix frame table master) s =
          .next (asked.emit (.system master (.collapseReq (tenantOf s vd) va frame (bit x 12))))) ∧
      (master = s.ownPrefix → d.master = 0 → s.collapses = [] → lv = 4 → mayShoot s vd = true →
        let c : Collapse := ⟨vd, va, s.ownPrefix, frame, bit x 12, table, false, []⟩
        let others := peerModules s vd
        let y := setBits (setBits (setBits (setBits x 8 8 0) 1 1 1) 7 6 0) 27 16 0
        let u := shootNow { asked with collapses := [c], mem := memWrite s.mem a (leBytes 8 y) } vd page 1
        u.broken = none → u.collapses = [c] → u.collapseWaits = asked.collapseWaits →
        (others = [] → exec (.collapseRequest vd va s.ownPrefix frame table s.ownPrefix) s =
          .next { u with collapses := [], collapseWaits := s.collapseWaits }) ∧
        (others ≠ [] → exec (.collapseRequest vd va s.ownPrefix frame table s.ownPrefix) s =
          .next { u with collapses := [{ c with begun := true, todo := others }]
                         out := u.out ++ others.map (fun p => .system p (.collapse (tenantOf s vd) va s.ownPrefix frame (d.split && !bit x 12))) })))

/-! ### Messages -/

/-- R328 to R331, R336, R337: POST issues as a job and empties the granules of its status word and buffer; RECV gives the status of a
receive of this unit, 0 for none, and waits where it is pending; RCANCEL takes a receive back; OVPOP takes the oldest overflow message
of its core; QPUSH and QPOP are the two ends of a pier FIFO of 64 words; CRWAIT gives a completion word whose bit 63 is 1. A handler
that would wait traps with HANDLER_BLOCK. -/
def Obligations.MessageInstructions : Prop :=
  ∀ (s : State), Accepts s accG → s.me.pure = false →
    let x := s.me
    let p := pierOfCtx s.cur
    let core := coreOfCtx s.cur
    let num (r : SReg) : Nat := (x.getS r).toNat
    let next := x.pc + 4 * x.pfx.length + 4
    let g := modGuard x.pfx
    (∀ (o : EDA) (s1 : State) (seen : Bytes), FullS s [o.a] → CanIssue s .message false o.d →
      (x.fullK g.slot = true → (guardWord x g).getLsbD 0 = true) → postRead s (x.getS o.a) 0 = .ok s1 seen →
      let mark (a n : Nat) : List Nat :=
        if inSpad core a 1 then granuleKeys core (a / 16 * 16) (min n (98304 - (spadPlace core a).2)) else []
      IssuesJob s s1 (.post o) .message .post o.d (x.getS o.a) 0 false seen
        (if seen.length = 32 then mark (num o.a + 16) 8 ++
            (if bit (leAt seen 8 8) 35 then [] else mark (leAt seen 0 8) (4 * (bits (leAt seen 8 8) 48 37 + 1)))
          else [])) ∧
    (∀ (o : EDA), GuardOn s g → FullS s [o.a, o.d] →
      let id := num o.a % 65536
      let tidy (y : Pier) : Pier := { y with recvStates := y.recvStates.filter (fun r => r.job != id) }
      (myRecv s id = none → Produces s (.recv o) o.d 0 0) ∧
      (∀ (r : RecvState) (w : Word), myRecv s id = some r → r.status = some w →
        ∃ u, ProducesThen s (.recv o) o.d w u ∧ u.pier p = tidy (s.pier p)) ∧
      (∀ (r : RecvState) (v : VDev) (rpa : Nat), myRecv s id = some r → r.status = none →
        (x.role = .handler → Raises s (.recv o) .handlerBlock none) ∧
        (x.role = .unit → AtRest s s.cur → s.preempts = [] → s.vdev? x.vd = some v → MappedApart s x.vd x.record rpa [(rpa, 64)] →
          x.record % 64 = 0 → x.record ≠ 0 →
          ∃ t, exec (.recv o) s = .next t ∧ Suspended s t rpa stWaiting (waitJob 1 p id) next ∧ t.counters = s.counters)) ∧
      ((myRecv s id = none ∨ (s.pier p).recvs.find? (fun e => e.2.job == id) = none) → GivesS s (.rcancel o) o.d 0) ∧
      (∀ (st : RecvState) (k : Nat) (r : Recv) (u : State), myRecv s id = some st →
        (s.pier p).recvs.find? (fun e => e.2.job == id) = some (k, r) →
        engWriteAt s (jobAgent p id) r.jobid (recvWho r k) (r.descr + 16) (leBytes 8 (2 ^ 63 + 3 * 2 ^ 48 + id)) = .ok u () →
        u.ctxs = s.ctxs → u.broken = none →
        ∃ t, exec (.rcancel o) s = .next t ∧ WroteD s t o.d 1 ∧
          t.pier p = tidy { u.pier p with recvs := (u.pier p).recvs.filter (fun e => e.2.job != id) } ∧
          t.mem = u.mem ∧ t.spad = u.spad ∧ t.granEmpty = u.granEmpty)) ∧
    (∀ (o : E3), GuardOn s g → FullS s [o.a, o.b, o.d] →
      let a := num o.a
      let found := (s.pier p).overflow.find? (fun y => y.1 == core)
      (a % 16 ≠ 0 → Raises s (.ovpop o) .address (some (x.getS o.a))) ∧
      (a % 16 = 0 → found = none → GivesS s (.ovpop o) o.d 0) ∧
      (∀ y : Nat × OvMsg, a % 16 = 0 → found = some y →
        let m := y.2.msg
        let n := min m.words.length 4092
        let w0 := statusWord m .done (decide (4092 < m.words.length)) 0
        (num o.b < 16 + 4 * n → GivesS s (.ovpop o) o.d (BitVec.ofNat 64 (w0 - 2 ^ 63))) ∧
        (∀ u : State, 16 + 4 * n ≤ num o.b → (s.core core).sb = [] →
          selfStore s a (leBytes 8 w0 ++ leBytes 8 (y.2.cause.code + core % 8 * 2 ^ 16) ++
            (m.words.take n).flatMap (fun w => leBytes 4 w.toNat)) = .ok u () → u.ctxs = s.ctxs → u.broken = none →
          ∃ t, exec (.ovpop o) s = .next t ∧ WroteD s t o.d (BitVec.ofNat 64 w0) ∧ (t.core core).sb = (u.core core).sb ∧
            t.pier p = { u.pier p with overflow := (u.pier p).overflow.erase y } ∧ t.mem = u.mem))) ∧
    (∀ (o : EAB), GuardOn s g → FullS s [o.a, o.b] → (s.core core).sb = [] → remoteOf s s.cur = false →
      let q := fifoAt s p (num o.a)
      let behind := fifoBehind s p (num o.a) false
      (16 ≤ num o.a → Raises s (.qpush o) .illegal none) ∧
      (num o.a < 16 → q.length < 64 → behind = false → ∃ t, exec (.qpush o) s = .next t ∧ SameRegs s t [] [] ∧ SameBytes s t ∧
        fifoAt t p (num o.a) = q ++ [x.getS o.b] ∧ ∀ n, n ≠ num o.a → fifoAt t p n = fifoAt s p n) ∧
      (num o.a < 16 → 64 ≤ q.length → x.role = .handler → Raises s (.qpush o) .handlerBlock none) ∧
      (num o.a < 16 → (64 ≤ q.length ∨ behind = true) → MayWait s → exec (.qpush o) s = .next (fifoPark s (num o.a) false))) ∧
    (∀ (o : EDA), GuardOn s g → FullS s [o.a, o.d] →
      (16 ≤ num o.a → Raises s (.qpop o) .illegal none) ∧
      let behind := fifoBehind s p (num o.a) true
      (∀ (w : Word) (q : List Word), num o.a < 16 → fifoAt s p (num o.a) = w :: q → behind = false →
        ∃ t, exec (.qpop o) s = .next t ∧ WroteD s t o.d w ∧ SameBytes s t ∧ fifoAt t p (num o.a) = q ∧
          ∀ n, n ≠ num o.a → fifoAt t p n = fifoAt s p n) ∧
      (num o.a < 16 → fifoAt s p (num o.a) = [] → x.role = .handler → Raises s (.qpop o) .handlerBlock none) ∧
      (num o.a < 16 → (fifoAt s p (num o.a) = [] ∨ behind = true) → MayWait s →
        exec (.qpop o) s = .next (fifoPark s (num o.a) true))) ∧
    (∀ (o : E3), GuardOn s g → FullS s [o.a, o.b, o.d] → NothingMeets s →
      let a := num o.a
      (a % 32 ≠ 0 → Raises s (.crwait o) .address (some (x.getS o.a))) ∧
      (∀ (s1 s2 : State) (ds ws : Bytes), a % 32 = 0 → operand s a 32 = .ok s1 ds → NothingMeets s1 →
        let base := leAt ds 0 8
        let n := leAt ds 8 4
        base % 32 = 0 → leAt ds 12 4 = 0 → n ≠ 0 → n ≤ 65536 → 2 ^ n.log2 = n →
        let rec_ := (base + 32 * (num o.b % n)) % 2 ^ 64
        (∃ ls, Reaches s2 .read (span rec_ 8) ls) → operand s1 rec_ 8 = .ok s2 ws → s2.broken = none → s2.arrived = [] → s2.remote = [] → s2.me = x →
        let w := leNat ws
        (2 ^ 63 ≤ w % 2 ^ 64 → ReadsInto s (.crwait o) o.d (BitVec.ofNat 64 w)) ∧
        (w % 2 ^ 64 < 2 ^ 63 → MayWait s → exec (.crwait o) s = .next s2)))

/-- R216, R313, R316, R318 to R321, R430: SEND, SENDC and POST take effect at the head of their queue; a message that arrives is accepted and goes to
the first receive that matches, to its handler, or to the overflow queue, and is held where that has no room; a held message and a waiting handler go on
when there is room; a delivery writes the words up to the capacity and then the status word. -/
def Obligations.MessagesAreDelivered : Prop :=
  (∀ (s : State) (p core : Nat) (j : Job) (js : List Job), CanStep s p j → queued s p .message core = j :: js → core / 8 = p →
    j.held = none →
    let ag := jobAgent p j.id
    let a := j.a.toNat
    let b := j.b.toNat
    let sentJob (cause : Cause) (f : Word) : Job := { j with started := true, inq := false, sent := true, work := [], cause := cause, faddr := f }
    let injected (u : State) (dst : Nat) (ws : List Nat) (t : State) : Prop :=
      t.mesh = s.mesh ++ [.msg ⟨core, dst, ws.map (BitVec.ofNat 32), some (p, j.id), j.who.vd, j.jobid, s.nextUid⟩] ∧
      t.nextUid = s.nextUid + 1 ∧ JobBecomes s t p j (sentJob j.cause j.faddr) ∧ SameBytes u t ∧ t.ctxs = s.ctxs
    (∀ (u : State) (bs : Bytes) (dst : Nat), j.cmd = .send → msgDest s j.who.vd b = some dst →
      let n := bits b 43 32
      bits b 31 30 ≤ 1 → bits b 13 12 = 0 → (bits b 31 30 = 1 → n ≤ 15 ∧ bits b 11 8 = 0) → a % 4 = 0 →
      (if n = 0 then bs = [] ∧ u = s else engReadAt s ag j.who a (4 * n) = .ok u bs) → u.broken = none →
      ∃ t, exec (.messageCommandStart p core) s = .next t ∧
        injected u dst (b % 2 ^ 32 :: (List.range n).map (fun i => leAt bs (4 * i) 4)) t) ∧
    (∀ (ws : List (BitVec 32)) (rest : List (Nat × List (BitVec 32) × Bool × Bool)) (id dst : Nat), j.cmd = .sendc →
      (s.core core).stream = (id, ws, true, false) :: rest → sendcDest s j = some dst → (s.pier p).jobs.all (fun k => k.cmd != .enc) = true →
      ∃ t, exec (.messageCommandStart p core) s = .next t ∧ injected s dst (tagged b (j.work ++ ws.map BitVec.toNat)) t ∧
        (t.core core).stream = rest) ∧
    (∀ (u : State) (ds : Bytes) (r : Recv), j.cmd = .post → a % 16 = 0 → engReadAt s ag j.who a 32 = .ok u ds → recvOf j ds = some r →
      u.broken = none → (s.pier p).recvs = (u.pier p).recvs → (s.pier p).jobs = (u.pier p).jobs →
      ((s.pier p).recvs.filter (fun e => e.1 == core)).length < 32 →
      (j.unit = 0 ∨ recState u j.who.vd j.unit ≠ stWaiting) →
      (u.pier p).overflow.find? (fun y => y.1 == core && recvMatches r y.2.msg) = none →
      ∃ t, exec (.messageCommandStart p core) s = .next t ∧ (t.pier p).recvs = (s.pier p).recvs ++ [(core, r)] ∧
        (t.pier p).recvStates = (u.pier p).recvStates ++ [⟨j.id, j.unit, j.ctx, j.who.vd, core, none⟩] ∧
        JobBecomes s t p j (ended { j with started := true } .done) ∧ SameBytes u t ∧ t.ctxs = u.ctxs)) ∧
  (∀ (s : State) (src dst : Nat) (m : Msg), NothingWaits s → nextMsg s src dst = some m → srcBlocked s src m.seq = false → m.dst = dst →
    let p := pierOfCore dst
    let s1 : State := { s with mesh := s.mesh.erase (.msg m) }
    let u := acceptMsg s1 p m
    u.broken = none → u.dying = [] →
    (∀ pc : Nat, m.kind = 1 → msgCancelled s m = false → handlerOf s p m = some pc → (s.core dst).ingress = [] → handlerFree s dst = true →
      ∃ t, exec (.messageArrive src dst) s = .next t ∧ HandlerRuns u t dst m pc) ∧
    (∀ pc : Nat, m.kind = 1 → msgCancelled s m = false → handlerOf s p m = some pc → handlerFree s dst = false →
      exec (.messageArrive src dst) s = .next (s1.setCore dst { s.core dst with ingress := (s.core dst).ingress ++ [m] })) ∧
    (m.kind ≠ 1 → firstMatch (s.pier p) m = none → ovEntries m ≤ areaFree (s.pier p) →
      ∃ t, exec (.messageArrive src dst) s = .next t ∧ OnlyPier u t p ∧
        t.pier p = { u.pier p with overflow := (u.pier p).overflow ++ [(dst, ⟨{ m with job := none }, .none⟩)] }) ∧
    (m.kind ≠ 1 → firstMatch (s.pier p) m = none → areaFree (s.pier p) < ovEntries m → (s.pier p).fullRaised = true →
      ∃ t, exec (.messageArrive src dst) s = .next t ∧ OnlyPier s1 t p ∧
        t.pier p = { s.pier p with held := (s.pier p).held ++ [m] }) ∧
    (∀ (k : Nat) (r : Recv), m.kind ≠ 1 → firstMatch (s.pier p) m = some (k, r) → r.sink = false →
      let s2 := s1.setPier p { s.pier p with recvs := (s.pier p).recvs.filter (fun e => e.2.job != r.job) }
      let d : Delivery := ⟨r, m, m.words.length, 0, false⟩
      ∀ v w : State, DeliveryWrites (acceptMsg s2 p m) v w p k d → PosterRuns w p r.job → NothingWaits w →
        ∃ t, exec (.messageArrive src dst) s = .next t ∧
          ReceiveOver w t p r.job (statusWord m .done (decide (r.cap < m.words.length)) r.job))) ∧
  (∀ (s : State) (p : Nat) (m : Msg) (ms : List Msg), NothingWaits s → s.quietPier p = false → (s.pier p).held = m :: ms →
    parkWaiter (s.pier p) = none → (∀ k ∈ m :: ms, firstMatch (s.pier p) k = none) → m.kind ≠ 1 → ovEntries m ≤ areaFree (s.pier p) →
    let y : Pier := { s.pier p with held := ms, fullRaised := (s.pier p).fullRaised && !ms.isEmpty }
    let u := acceptMsg (s.setPier p y) p m
    u.broken = none → u.dying = [] → ∃ t, exec (.ingressRelease p) s = .next t ∧ OnlyPier u t p ∧
      t.pier p = { u.pier p with overflow := (u.pier p).overflow ++ [(m.dst, ⟨{ m with job := none }, .none⟩)] }) ∧
  (∀ (s : State) (core : Nat) (m : Msg) (ms : List Msg) (pc : Nat), NothingWaits s → s.quietPier (pierOfCore core) = false →
    (s.core core).ingress = m :: ms → msgCancelled s m = false → handlerOf s (pierOfCore core) m = some pc → handlerFree s core = true →
    let u := acceptMsg (s.setCore core { s.core core with ingress := ms }) (pierOfCore core) m
    u.broken = none → u.dying = [] → ∃ t, exec (.handlerDispatch core) s = .next t ∧ HandlerRuns u t core m pc) ∧
  (∀ (s : State) (p i core : Nat) (d : Delivery), s.broken = none → s.quietPier p = false → (s.pier p).deliveries[i]? = some (core, d) →
    ∀ v w : State, DeliveryWrites (s.setPier p { s.pier p with deliveries := (s.pier p).deliveries.eraseIdx i }) v w p core d →
      PosterRuns w p d.recv.job → w.broken = none →
      ∃ t, exec (.deliveryPageResume p i) s = .next t ∧
        ReceiveOver w t p d.recv.job (statusWord d.msg .done (cutShort d) d.recv.job))

/-! ### Counters -/

/-- R345 to R353: an instruction that needs its slice's answer asks once, waits, and goes on with the answer; CADD, ARRIVE and CANCEL issue at once
as a release. Operand values out of range are ILLEGAL. PERFRD reads an event count; ACCNT the count of a MIGRATE page, at its owner. -/
def Obligations.CounterInstructions : Prop :=
  ∀ (s : State), Accepts s accG → GuardOn s (modGuard s.me.pfx) → s.me.pure = false →
    let x := s.me
    let num (r : SReg) : Nat := (x.getS r).toNat
    let int (r : SReg) : Int := (x.getS r).toInt
    let req (id : Nat) (op : CtrOp) : CtrReq := ⟨s.cur, x.record, x.jobid.toNat, x.level, id, op⟩
    let asks (i : Instr) (id : Nat) (op : CtrOp) : Prop :=
      (x.reply = none → x.asked = false → MayWait s →
        exec i s = .next ({ s with ctrReqs := s.ctrReqs ++ [req id op] }.setMe { x with asked := true })) ∧
      (x.reply = none → x.asked = true → MayWait s → Waits s i) ∧
      (∀ (w : Word) (c : Cause), x.reply = some [0, w] → Cause.ofCode w.toNat = some c → Raises s i c none)
    let posts (i : Instr) (id : Nat) (op : CtrOp) : Prop :=
      (s.core (coreOfCtx s.cur)).sb = [] → ∃ t, exec i s = .next t ∧ SameRegs s t [] [] ∧ t.ctrReqs = s.ctrReqs ++ [req id op] ∧
        t.counters = s.counters ∧ SameBytes s t
    (∀ o : E3, FullS s [o.a, o.b, o.d] →
      let deck := if num o.a = 16 then deckOfPier (pierOfCtx s.cur) else num o.a
      (∀ e ∈ [(Instr.cnew o, false), (.cnewPhase o, true)],
        ((16 < num o.a ∨ int o.b < (if e.2 then 0 else -(2 ^ 47)) ∨ 2 ^ 47 - 1 < int o.b) → Raises s e.1 .illegal none) ∧
        (num o.a ≤ 16 → (if e.2 then 0 else -(2 ^ 47)) ≤ int o.b → int o.b ≤ 2 ^ 47 - 1 →
          asks e.1 (deck * 2 ^ 28) (.cnew e.2 deck (int o.b)) ∧
          ∀ id : Word, x.reply = some [1, id] → ∃ t, exec e.1 s = .next t ∧ WroteD s t o.d id ∧ SameBytes s t ∧
            (∀ k, kget? s.counters id.toNat = some k → kget? t.counters id.toNat = some { k with provisional := false }) ∧
            ∀ n, n ≠ id.toNat → kget? t.counters n = kget? s.counters n)) ∧
      (∀ e ∈ [(Instr.cwait o, WaitCond.le (int o.b)), (.cwaitPh o, .phaseNot (num o.b))],
        (num o.b < 65536 ∨ e.1 = .cwait o) → asks e.1 (num o.a) (.cwait e.2) ∧
        (∀ w : Word, x.reply = some [5, w] → GivesS s e.1 o.d w) ∧
        (∀ (id : Word) (k : Counter) (v : VDev) (rpa : Nat), x.reply = some [3, id] → x.role = .unit →
          AtRest (s.setMe { x with reply := none }) s.cur → s.preempts = [] → s.vdev? x.vd = some v →
          MappedApart s x.vd x.record rpa [(rpa, 64)] → x.record % 64 = 0 → x.record ≠ 0 →
          kget? s.counters id.toNat = some k → (∃ w ∈ k.waiters, w.record = x.record ∧ w.vd = x.vd) →
          ∃ t, exec e.1 s = .next t ∧ Suspended s t rpa stWaiting (waitCounter 3 id.toNat) (x.pc + 4 * x.pfx.length + 4) ∧
            t.counters = s.counters)) ∧
      (65536 ≤ num o.b → Raises s (.cwaitPh o) .illegal none)) ∧
    (∀ o : EDA, FullS s [o.a, o.d] →
      asks (.cnewFree o) (num o.a) .cfree ∧ (∀ w : Word, x.reply = some [6, w] → GivesS s (.cnewFree o) o.d w) ∧
      (16 ≤ num o.a → Raises s (.perfrd o) .illegal none) ∧
      (num o.a < 16 → GivesS s (.perfrd o) o.d (kget 0 (s.pier (pierOfCtx s.cur)).events (num o.a)))) ∧
    (∀ o : EExpect, FullS s [o.a, o.b, o.d] → o.k ≠ 0 →
      let n := bits (num o.b) 47 16
      ((n = 0 ∨ 2 ^ 48 ≤ num o.b) → Raises s (.expect o) .illegal none) ∧
      (n ≠ 0 → num o.b < 2 ^ 48 → asks (.expect o) (num o.a) (.expect (num o.b % 65536) n) ∧
        ∀ ok p id m : Word, x.reply = some [2, ok, p, id, m] → ∃ t, exec (.expect o) s = .next t ∧
          t.me.getS o.d = (if o.d = 0 then 0 else p) ∧ t.me.getK o.k = (if ok = 1 then BitVec.allOnes 64 else 0) ∧
          t.me.flags = x.flags ∧ Goes s t (x.pc + 4 * x.pfx.length + 4) [o.d] [o.k] [])) ∧
    (∀ o : EAB, FullS s [o.a, o.b] →
      ((int o.b < -(2 ^ 47) ∨ 2 ^ 47 - 1 < int o.b) → Raises s (.cadd o) .illegal none) ∧
      (-(2 ^ 47) ≤ int o.b → int o.b ≤ 2 ^ 47 - 1 → posts (.cadd o) (num o.a) (.add (int o.b))) ∧
      ((num o.b = 0 ∨ 2 ^ 32 ≤ num o.b) → Raises s (.arrive o) .illegal none) ∧
      (num o.b ≠ 0 → num o.b < 2 ^ 32 → posts (.arrive o) (num o.a) (.arrive (num o.b))) ∧
      posts (.cancelUnit o) (num o.a) (.cancelLevel 0 (num o.b))) ∧
    (∀ o : EA, FullS s [o.a] →
      ∀ e ∈ [(Instr.cancelLaunch o, 1), (.cancelGraph o, 2), (.cancelPhase o, 3), (.cancelJob o, 4)],
        posts e.1 (num o.a) (.cancelLevel e.2 0)) ∧
    (∀ o : E3, FullS s [o.a, o.b, o.d] →
      let a := num o.a
      let leaf := walk s.mem (rootOf s x.vd) a
      (4096 ≤ num o.b → Raises s (.accnt o) .illegal none) ∧
      (num o.b < 4096 → (a < 2 ^ 40 ∨ 2 ^ 48 ≤ a ∨ leaf = none) → GivesS s (.accnt o) o.d 0) ∧
      (∀ y : Nat, num o.b < 4096 → 2 ^ 40 ≤ a → a < 2 ^ 48 → leaf = some y →
        let pa := leafFrame y * 65536 + a % leafPages y
        (leafMode y ≠ 3 → GivesS s (.accnt o) o.d 0) ∧
        (leafMode y = 3 → leafPeer y = 0 → GivesS s (.accnt o) o.d (BitVec.ofNat 64 (accessCount s pa (leafPages y) (num o.b) +
          2 ^ 16 + 2 ^ 17))) ∧
        (∀ p, leafMode y = 3 → peerPrefix s x.vd (leafPeer y) = some p → p ≠ s.ownPrefix →
          (s.accnts.find? (fun q => q.ctx == s.cur) = none → MayWait s → ∃ t, exec (.accnt o) s = .next t ∧
            t.out = s.out ++ [.system p (.accnt s.nextUid pa (num o.b))] ∧ t.accnts = s.accnts ++ [⟨s.cur, s.nextUid, none⟩] ∧
            t.ctxs = s.ctxs) ∧
          (∀ (n : Nat) (w : Word), s.accnts.find? (fun q => q.ctx == s.cur) = some ⟨s.cur, n, some w⟩ →
            ∃ t, exec (.accnt o) s = .next t ∧ WroteD s t o.d w ∧ t.accnts = s.accnts.filter (fun q => q.ctx != s.cur)))))

/-- R25, R341 to R351: a request that arrives at its slice. An addition saturates at 48 bits; an arrival that takes a phase counter to 0 starts its next phase at
the base; EXPECT adds only in its phase; a counter is allocated within the job's quota and freed when nothing names or awaits it; a waiter
is kept while its condition does not hold, and woken, once, when it does. A counter that the job does not own is ILLEGAL at the next FENCE or END.
CANCEL ends a unit, a launch, a graph, a phase counter or a job; a graph whose counter stands at 0 has completed and is left as it is. A provisional
counter, CWAIT.ph on any kind and CANCEL of an index not yet generated follow logs 53, 54 and 55 (DEDUCED). -/
def Obligations.CounterRequests : Prop :=
  ∀ (s : State) (i : Nat) (r : CtrReq), NothingWaits s → s.ctrReqs[i]? = some r →
    (∀ q ∈ s.ctrReqs.take i, q.ctx ≠ r.ctx ∨ sliceDeck q.id ≠ sliceDeck r.id) → holdsFor s r.ctx = false → (s.ctx r.ctx).stop = none →
    let s1 : State := { s with ctrReqs := s.ctrReqs.eraseIdx i }
    let becomes (k : Counter) : Prop := ∃ t, exec (.counterOpArrive i) s = .next t ∧ t = { s1 with counters := t.counters } ∧
      kget? t.counters r.id = some k ∧ ∀ n, n ≠ r.id → kget? t.counters n = kget? s.counters n
    let answers (ws : List Word) : Prop := ∃ t, exec (.counterOpArrive i) s = .next t ∧
      t = { s1 with ctxs := t.ctxs, counters := t.counters } ∧ t.ctx r.ctx = { s.ctx r.ctx with reply := some ws } ∧
      ∀ c, c ≠ r.ctx → t.ctx c = s.ctx c
    let faults (c : Cause) : Prop := ∃ t f, exec (.counterOpArrive i) s = .next t ∧
      t = { s1 with sliceFaults := s.sliceFaults ++ [f], free := t.free } ∧ f.record = r.record ∧ f.ctx = r.ctx ∧ f.level = r.level ∧
      f.cause = c
    (∀ k : Counter, ownCounter s r.jobid r.id = some k →
      let added (v : Int) : Counter := { k with value := max (-(2 ^ 47)) (min (2 ^ 47 - 1) (k.value + v)) }
      let arrived (n : Nat) : Counter :=
        if k.value ≤ n then { k with value := k.base, phase := (k.phase + 1) % 65536 } else { k with value := k.value - n }
      (∀ v : Int, r.op = .add v → (k.kind ≠ .level ∨ r.level = 3) → k.waiters.all (fun w => !condHolds (added v) w.cond) = true →
        becomes (added v)) ∧
      (∀ v : Int, r.op = .add v → k.kind = .level → r.level < 3 → faults .privilege) ∧
      (∀ (v : Int) (w : Waiter) (rpa : Nat), r.op = .add v → k.kind ≠ .level → k.waiters = [w] → condHolds (added v) w.cond = true →
        MappedApart s w.vd w.record rpa [(rpa, 64)] → w.record % 64 = 0 → recState s w.vd w.record = stWaiting →
        bit (recWord s w.vd w.record 0) 60 = false →
        ∃ t, exec (.counterOpArrive i) s = .next t ∧ kget? t.counters r.id = some { added v with waiters := [] } ∧
          recState t w.vd w.record = stReady ∧ recCause t w.vd w.record = 0 ∧
          t.walkers = s.walkers ++ [⟨w.record, w.vd, w.pier, false⟩] ∧ OnlyRecordAndFrame s t rpa rpa ∧ t.ctxs = s.ctxs) ∧
      (∀ n : Nat, r.op = .arrive n → k.kind = .phase → k.cancelled = false → 0 ≤ k.value →
        k.waiters.all (fun w => !condHolds (arrived n) w.cond) = true → becomes (arrived n)) ∧
      (∀ (n : Nat) (t : State), r.op = .arrive n → k.kind = .phase → k.cancelled = false → 0 ≤ k.value →
        exec (.counterOpArrive i) s = .next t → kget? t.counters r.id =
          some { arrived n with waiters := k.waiters.filter (fun w => !condHolds (arrived n) w.cond) }) ∧
      (∀ n : Nat, r.op = .arrive n → k.kind = .phase → k.cancelled = true → becomes k) ∧
      (∀ n : Nat, r.op = .arrive n → k.kind ≠ .phase → faults .illegal) ∧
      (∀ p n : Nat, r.op = .expect p n → k.kind = .phase →
        (k.cancelled = false → k.phase = p → k.waiters.all (fun w => !condHolds { k with value := min (2 ^ 47 - 1) (k.value + n) } w.cond) = true →
          answers [2, 1, BitVec.ofNat 64 k.phase, BitVec.ofNat 64 r.id, BitVec.ofNat 64 n]) ∧
        ((k.cancelled = true ∨ k.phase ≠ p) → answers [2, 0, BitVec.ofNat 64 k.phase, BitVec.ofNat 64 r.id, BitVec.ofNat 64 n])) ∧
      (∀ c : WaitCond, r.op = .cwait c →
        (condHolds k c = true → answers [5, match c with
          | .phaseNot _ => BitVec.ofNat 64 ((if k.cancelled then 2 ^ 63 else 0) + k.phase)
          | _ => BitVec.ofInt 64 k.value]) ∧
        (condHolds k c = false → r.record ≠ 0 → answers [3, BitVec.ofNat 64 r.id] ∧ ∃ t, exec (.counterOpArrive i) s = .next t ∧
          kget? t.counters r.id = some { k with waiters := k.waiters ++ [⟨(s.ctx r.ctx).vd, r.record, pierOfCtx r.ctx, c⟩] })) ∧
      (r.op = .cfree →
        ((k.kind = .level ∨ k.waiters ≠ [] ∨ namedByPacket s r.jobid r.id = true) → answers [6, 0]) ∧
        (k.kind ≠ .level → k.waiters = [] → namedByPacket s r.jobid r.id = false → answers [6, 1] ∧
          ∃ t, exec (.counterOpArrive i) s = .next t ∧ kget? t.counters r.id = none))) ∧
    (ownCounter s r.jobid r.id = none →
      ((∃ n, r.op = .add n) ∨ (∃ n, r.op = .arrive n) → faults .illegal) ∧
      ((∃ p n, r.op = .expect p n) ∨ (∃ c, r.op = .cwait c) ∨ r.op = .cfree → answers [0, BitVec.ofNat 64 Cause.illegal.code])) ∧
    (∀ (phase : Bool) (deck : Nat) (v : Int) (j : JobRec), r.op = .cnew phase deck v → s.job? r.jobid = some j →
      (∀ id, freeCounterId s (r.id / 2 ^ 28) = some id → quotaUsed s r.jobid < j.counterQuota → kget? s.counters id = none →
        answers [1, BitVec.ofNat 64 id] ∧ ∃ t, exec (.counterOpArrive i) s = .next t ∧ kget? t.counters id =
          some ⟨r.jobid, 0, if phase then v.toNat else 0, if phase then .phase else .plain, false, v, [], true⟩) ∧
      ((freeCounterId s (r.id / 2 ^ 28) = none ∨ j.counterQuota ≤ quotaUsed s r.jobid) → answers [1, 0])) ∧
    (∀ kind n : Nat, r.op = .cancelLevel kind n → kget? s.counters r.id = none →
      (completedOwner s kind r.id = none → faults .illegal) ∧
      (∀ owner, completedOwner s kind r.id = some owner → owner ≠ r.jobid → r.level < 3 → faults .privilege) ∧
      (∀ owner, completedOwner s kind r.id = some owner → (owner = r.jobid ∨ r.level = 3) → exec (.counterOpArrive i) s = .next s1)) ∧
    (∀ (kind n : Nat) (k : Counter), r.op = .cancelLevel kind n → kget? s.counters r.id = some k →
      k.provisional = false → (k.owner = r.jobid ∨ r.level = 3) →
      (kind = 3 → k.kind = .phase → k.waiters = [] → becomes { k with cancelled := true }) ∧
      (∀ (w : Waiter) (rpa : Nat), kind = 3 → k.kind = .phase → k.waiters = [w] → w.cond ≠ .zero →
        MappedApart s w.vd w.record rpa [(rpa, 64)] → w.record % 64 = 0 → recState s w.vd w.record = stWaiting →
        bit (recWord s w.vd w.record 0) 60 = false →
        ∃ t, exec (.counterOpArrive i) s = .next t ∧ kget? t.counters r.id = some { k with cancelled := true, waiters := [] } ∧
          BecomesReady s t w.vd w.record rpa w.pier 0) ∧
      (kind = 3 → k.kind ≠ .phase → faults .illegal) ∧
      (kind = 2 → k.kind = .plain → k.value = 0 → exec (.counterOpArrive i) s = .next s1) ∧
      (kind = 2 → k.kind = .plain → k.value ≠ 0 → s.launches = [] → ∃ t, exec (.counterOpArrive i) s = .next t ∧
        t = { s1 with queues := s.queues.map (fun q => (q.1, if q.2.jobid = k.owner then
          { q.2 with drops := q.2.drops ++ [(r.id, q.2.widx)] } else q.2)) }) ∧
      (∀ (l : Launch) (v : VDev), kind ≤ 1 → k.kind = .level → k.owner ≠ r.id → s.launch? r.id = some l → l.status = 0 → k.waiters = [] →
        (l.phase = .generating ∨ l.phase = .running) → s.vdev? l.vd = some v → v.reserving = none → -(2 ^ 46) < k.value → k.value < 2 ^ 46 →
        (kind = 0 → l.next ≤ n → n < l.units → n ∉ l.skip → l.live = [] →
          ∃ t, exec (.counterOpArrive i) s = .next t ∧
            t.launch? r.id = some { l with skip := l.skip ++ [n] } ∧ kget? t.counters r.id = some { k with value := k.value - 1 }) ∧
        (kind = 1 → l.live = [] → l.skip = [] → v.coresQ = [] → l.next ≤ l.units → l.units < 2 ^ 40 → ∃ t, exec (.counterOpArrive i) s = .next t ∧
          t.launch? r.id = some { l with phase := .running, next := l.units, status := 2, cause := .cancelled, unplaced := [], reuseCopy := none } ∧
          kget? t.counters r.id = some { k with value := k.value - (l.units - l.next : Nat) }) ∧
        (∀ (ru rpa : Nat), kind = 0 → l.live = [ru] → ReadyRecord s l.vd ru rpa → recWord s l.vd ru 1 = 0 →
          bits (recWord s l.vd ru 2) 63 32 = n → recLaunch s l.vd ru = r.id → s.ctxs.all (fun y => y.2.record != ru) = true →
          recordJobs s l.vd ru = [] → ru ≠ 0 →
          ∃ t, exec (.counterOpArrive i) s = .next t ∧ recState t l.vd ru = stDone ∧ recCause t l.vd ru = Cause.cancelled.code ∧
            kget? t.counters r.id = some { k with value := k.value - 1 } ∧ t.launch? r.id = some { l with live := [] } ∧
            t.vdev? l.vd = some { v with recPool := v.recPool ++ [ru] } ∧ OnlyRecordAndFrame s t rpa rpa)) ∧
      (∀ j : JobRec, kind = 4 → k.kind = .level → k.owner = r.id → s.job? r.id = some j → j.cancelled = false → s.launches = [] →
        s.piers = [] → ∃ t, exec (.counterOpArrive i) s = .next t ∧ t.job? r.id = some { j with cancelled := true, cause := .cancelled } ∧
          t.counters = s.counters ∧ t.ctxs = s.ctxs))

/-! ### Entries, the pager, firmware's instructions -/

/-- R47, R48, R379, R380, R383: ERET.resume restores the unit from its frame, at its record's address or at a, with budget b where it is not 0; ERET.end
makes it DONE with the cause in b; ERET.park leaves it FAULTED; each frees what it ends with. A notice gets a READY record of urgency 0.
A cause that the pager resolves makes its unit READY without a cause; one that it passes on makes it READY with the cause. A unit that
ERET parked, FAULTED, and that does not wait for the pager is released as a PARKED one is: that is log 68's (DEDUCED). -/
def Obligations.EntriesReturn : Prop :=
  (∀ (s : State) (v : VDev) (rpa : Nat), let x := s.me
    let r := x.record
    let vd := x.vd
    Accepts s accG → GuardOn s (modGuard x.pfx) → AtRest s s.cur → x.preemptReq = false → s.preempts = [] → s.vdev? vd = some v →
    (∀ (o : EAB) (f fpa : Nat), x.role = .entry .unit → FullS s [o.a, o.b] → RecordAndFrame s vd r rpa f fpa → recWord s vd r 1 = f → f ≠ 0 →
      (∀ n < 8, bit (leNat (memRead s.mem (fpa + 0x1620 + 8 * n) 8)) 63 = false) →
      (∀ n < 16, bits (leNat (memRead s.mem (fpa + 0x1360 + 8 * n) 8)) 47 6 = 0) → Memory.wf s.mem = true →
      let a := (x.getS o.a).toNat
      let b := (x.getS o.b).toNat
      a % 4 = 0 → a < 2 ^ 48 → b < 2 ^ 32 →
      ∃ t, exec (.eretResume o) s = .next t ∧ UnitRestored s t s.cur vd r fpa ∧
        t.me.pc = (if a = 0 then recWord s vd r 0 % 2 ^ 48 / 4 * 4 else a) ∧
        t.me.budget.toNat = (if b = 0 then recWord s vd r 4 % 2 ^ 32 else b) ∧ t.me.h = [] ∧
        recState t vd r = stRunning ∧ recCause t vd r = 0 ∧ recWord t vd r 1 = 0 ∧ bit (recWord t vd r 0) 59 = false ∧
        OnlyRecordAndFrame s t rpa rpa ∧ (∀ c, c ≠ s.cur → t.ctx c = s.ctx c) ∧
        t.vdev? vd = some { v with framePool := v.framePool ++ [f], stackPool := v.stackPool ++ [x.stkbase.toNat] }) ∧
    (∀ (f fpa : Nat), recWord s vd r 1 = f → MappedApart s vd r rpa [(rpa, 64)] → r % 64 = 0 → (f = 0 ∨ RecordAndFrame s vd r rpa f fpa) → r ≠ 0 →
      recordJobs s vd r = [] → Memory.wf s.mem = true →
      let freed : VDev := { v with
        framePool := v.framePool ++ (if f = 0 then [] else [f])
        stackPool := v.stackPool ++ (if f = 0 then [] else [leNat (memRead s.mem (fpa + 0x1458) 8) % 2 ^ 48 / 65536 * 65536])
        recPool := v.recPool ++ [r] }
      (∀ (o : EB) (c : Cause) (l : Launch) (k : Counter), x.role = .entry .unit → FullS s [o.b] → (x.getS o.b).toNat < 65536 →
        Cause.ofCode (x.getS o.b).toNat = some c → s.dying = [] → (∀ d, d ≠ s.cur → (s.ctx d).heldUnit ≠ some r) →
        let id := recLaunch s vd r
        s.launch? id = some l → kget? s.counters id = some k → k.waiters = [] → -(2 ^ 47) < k.value → k.value < 2 ^ 47 →
        ∃ t, exec (.eretEnd o) s = .next t ∧ CtxFreed x t.me none ∧ recState t vd r = stDone ∧ recCause t vd r = c.code ∧
          kget? t.counters id = some { k with value := k.value - 1 } ∧ t.launch? id = some { l with live := l.live.filter (fun q => q != r) } ∧
          t.vdev? vd = some freed ∧ OnlyRecordAndFrame s t rpa rpa ∧ ∀ d, d ≠ s.cur → t.ctx d = s.ctx d) ∧
      (∀ k : EntryKind, x.role = .entry k → k ≠ .unit → ∃ t, exec .eretPark s = .next t ∧ CtxFreed x t.me none ∧ t.vdev? vd = some freed ∧
        OnlyRecordAndFrame s t rpa rpa ∧ t.notices = s.notices.filter (fun n => !(n.record == r && n.vd == vd)) ∧ t.counters = s.counters)) ∧
    (x.role = .entry .unit → ∃ t, exec .eretPark s = .next t ∧ CtxFreed x t.me (if x.coresUnit then some r else none) ∧ SameBytes s t ∧
      t.counters = s.counters ∧ t.vdevs = s.vdevs ∧ ∀ c, c ≠ s.cur → t.ctx c = s.ctx c) ∧
    (∀ o : EAB, x.level < 2 → FullS s [o.a, o.b] → (x.getS o.a).toNat % 4 = 0 → (x.getS o.a).toNat < 2 ^ 48 → (x.getS o.b).toNat < 2 ^ 32 →
      Raises s (.eretResume o) .privilege none) ∧
    (x.level < 2 → Raises s .eretPark .privilege none)) ∧
  (∀ (s : State) (i r rpa : Nat) (rs : List Nat) (n : Notice) (v : VDev), s.broken = none → s.notices[i]? = some n → n.record = 0 →
    s.quiet n.vd = false → s.vdev? n.vd = some v → (s.job? n.jobid).isSome = true → v.recPool = r :: rs → MappedApart s n.vd r rpa [(rpa, 64)] → r % 64 = 0 →
    ∃ t, exec (.noticeRaise i) s = .next t ∧ t.notices = s.notices.set i { n with record := r } ∧
      t.walkers = s.walkers ++ [⟨r, n.vd, n.pier, false⟩] ∧ t.vdev? n.vd = some { v with recPool := rs } ∧
      (List.range 8).map (recWord t n.vd r) = [stReady * 2 ^ 48, 0, n.word2.toNat, pierY n.pier * 2 ^ 8 + pierX n.pier,
        n.cause.code * 2 ^ 32, 0, 0, 0] ∧ OnlyRecordAndFrame s t rpa rpa) ∧
  (∀ (s : State) (vd r rpa : Nat) (v : VDev), s.broken = none → s.vdev? vd = some v → MappedApart s vd r rpa [(rpa, 64)] → r % 64 = 0 →
    onContext s vd r = false → framePending s vd r = false →
    (waitsPager s vd r = true → s.frozen vd = false →
      let other := frameCause s vd r ≠ Cause.writeProtect.code
      ((other ∨ writeResolved s vd (frameAddr s vd r) = true) → ∃ t, exec (.pagerResolve (.unit vd r) (.resolved [])) s = .next t ∧
        BecomesReady s t vd r rpa (placeOf s vd r) 0) ∧
      ((other ∨ mayPassWrite s vd (frameAddr s vd r) = true) → mayPassPage s vd (frameAddr s vd r) = true → ∃ t, exec (.pagerResolve (.unit vd r) .passOn) s = .next t ∧
        BecomesReady s t vd r rpa (placeOf s vd r) (frameCause s vd r) ∧ (vd, r) ∈ t.taints)) ∧
    (∀ p, (recState s vd r = stParked ∨ recState s vd r = stFaulted ∧ waitsPager s vd r = false) → v.piers.contains p = true → v.quiesced = false →
      ∃ t, exec (.unitRelease vd r p) s = .next t ∧ BecomesReady s t vd r rpa p (recCause s vd r))) ∧
  (∀ (s : State) (c : Nat) (st : Stop), s.broken = none → (s.ctx c).stop = some st → (s.ctx c).pageWait = true →
    (st.cause ≠ .writeProtect ∨ writeResolved s (s.ctx c).vd st.faddr.toNat = true) →
    exec (.pagerResolve (.ctx c) (.resolved [])) s = .next (s.setCtx c { s.ctx c with pageWait := false, stop := none })) ∧
  (∀ (s : State) (p : Nat) (j : Job), s.broken = none → (s.pier p).owner = none →
    (s.pier p).jobs.filter (fun k => k.id == j.id) = [j] → j.status = .faulted → j.cause = .page → s.arrived = [] → s.remote = [] →
    ∃ t, exec (.pagerResolve (.job p j.id) (.resolved [])) s = .next t ∧ OnlyPier s t p ∧
      JobBecomes s t p j (if j.eng = .copy then { j with released := true } else { j with status := .running, cause := .none, faddr := 0 }))

/-- R49, R391, R392, R394 to R398: PREEMPT asks its cores once, waits until each has stopped, and counts the units; DBGHALT and its forms halt, resume
and step cores; RELOC.out quiesces a virtual device, with its copies parked, sends its state and drops it once the target has it; RELOC.in accepts a state or refuses it;
RELOC.drain has the target pull the pages that are left. All are PRIVILEGE below system level. -/
def Obligations.FirmwareInstructions : Prop :=
  ∀ (s : State), Accepts s accG → GuardOn s (modGuard s.me.pfx) → let x := s.me
    let num (r : SReg) : Nat := (x.getS r).toNat
    (∀ (o : EPre), FullS s [o.a, o.d] → preOperand o.sel (num o.a) = none → Raises s (.preempt o) .illegal none) ∧
    (∀ (o : EPre), FullS s [o.a, o.d] → preOperand o.sel (num o.a) = some none → x.level = 3 →
      s.preempts.find? (fun q => q.ctx == some s.cur) = none → GivesS s (.preempt o) o.d 0) ∧
    (∀ (o : EPre), FullS s [o.a, o.d] → ∀ t : PreTarget, preOperand o.sel (num o.a) = some (some t) →
      let q := preRequest s (some s.cur) t
      (x.level < 3 → Raises s (.preempt o) .privilege none) ∧
      (x.level = 3 → s.preempts.find? (fun q => q.ctx == some s.cur) = none →
        (q.todo = [] → GivesS s (.preempt o) o.d 0) ∧
        (q.todo ≠ [] → MayWait s → exec (.preempt o) s = .next { s with preempts := s.preempts ++ [q] })) ∧
      (∀ u : PreReq, x.level = 3 → s.preempts.find? (fun q => q.ctx == some s.cur) = some u →
        (u.todo ≠ [] ∨ u.waiting ≠ [] → MayWait s → Waits s (.preempt o)) ∧
        (u.todo = [] → u.waiting = [] → ∃ t, exec (.preempt o) s = .next t ∧
          WroteD s t o.d (BitVec.ofNat 64 (preHeld s u * 2 ^ 32 + u.parked.length)) ∧ t.preempts = s.preempts.erase u))) ∧
    (∀ (o : EDA), FullS s [o.a, o.d] → let a := num o.a
      let ks := maskCores a
      ((2 ^ 22 ≤ a ∨ a % 256 = 0) → ∀ i ∈ [Instr.dbghalt o, .dbghaltResume o, .dbghaltStep o], Raises s i .illegal none) ∧
      (a < 2 ^ 22 → a % 256 ≠ 0 →
        (x.level < 3 → ∀ i ∈ [Instr.dbghalt o, .dbghaltResume o, .dbghaltStep o], Raises s i .privilege none) ∧
        (x.level = 3 → (∀ k ∈ ks, haltReached s s.cur k = true) → ∃ t, exec (.dbghalt o) s = .next t ∧
          WroteD s t o.d (BitVec.ofNat 64 ks.length) ∧ (∀ k ∈ ks, (t.core k).halted = true) ∧ ∀ k, k ∉ ks → (t.core k).halted = (s.core k).halted) ∧
        (x.level = 3 → ∃ t, exec (.dbghaltResume o) s = .next t ∧ SameRegs s t [] [] ∧ (∀ k ∈ ks, (t.core k).halted = false) ∧
          ∀ k, k ∉ ks → (t.core k).halted = (s.core k).halted) ∧
        (x.level = 3 → ∃ t, exec (.dbghaltStep o) s = .next t ∧ SameRegs s t [] [] ∧ (∀ k, (t.core k).halted = (s.core k).halted) ∧
          ∀ k ∈ ks, k ≠ coreOfCtx s.cur → (s.core k).halted = true → (t.core k).stepping = true))) ∧
    (∀ (o : E3) (s1 : State) (ds : Bytes) (pre n : Nat), FullS s [o.a, o.b, o.d] → num o.a < 65536 →
      (x.level < 3 → ∀ i ∈ [Instr.relocOut o, .relocIn o, .relocDrain o], Raises s i .privilege none) ∧
      (x.level = 3 → num o.b % 8 ≠ 0 → ∀ i ∈ [Instr.relocOut o, .relocIn o, .relocDrain o], Raises s i .address (some (x.getS o.b))) ∧
      (x.level = 3 → num o.b % 8 = 0 → operand s (num o.b) 32 = .ok s1 ds → s1.me = x → s1.cur = s.cur → s1.broken = none →
        leAt ds 0 8 = pre * 2 ^ 44 → leAt ds 8 2 = n → (∀ i, 10 ≤ i → ds.getD i 0 = 0) →
        let vd := num o.a
        let found := s1.relocs.find? (fun r => r.vd == vd)
        (∀ v : VDev, found = none → s1.vdev? vd = some v → v.movedTo = none → pre ≠ s1.ownPrefix → MayWait s →
          exec (.relocOut o) s = .next { s1.setVdev vd { v with quiesced := true } with
            preempts := s1.preempts ++ [preRequest (s1.setVdev vd { v with quiesced := true }) none (.vd vd)]
            relocs := s1.relocs ++ [(⟨vd, pre, n, false, false, false⟩ : RelocSt)] }) ∧
        (∀ q : RelocSt, found = some q → q.acked = false → q.sent = false → q.vd = vd → healthyPorts s1 q.toPrefix ≠ [] → MayWait s →
          (calm s1 vd = false → (parkCopies s1 vd).me = x → (parkCopies s1 vd).broken = none →
            exec (.relocOut o) s = .next (parkCopies s1 vd)) ∧
          ∀ (s2 : State) (dicts : List (List (Nat × Bytes × Bytes))), calm s1 vd = true →
            relocDicts s1 vd ((s1.vdev? vd).elim [] (fun v => v.piers)) = .ok s2 dicts → s2.me = x → s2.broken = none →
            let u := dropArrived s2 (relocAgent vd)
            ∃ t, exec (.relocOut o) s = .next t ∧ t.out = u.out ++ [.system q.toPrefix (.relocState (imageOf u vd q.toVd dicts))] ∧
              t.relocs = u.relocs.map (fun u => if u = q then { q with sent := true } else u) ∧ t.mem = u.mem ∧ t.ctxs = u.ctxs) ∧
        (∀ (q : RelocSt) (v : VDev), found = some q → q.acked = true → q.failed = false → s1.vdev? vd = some v →
          ∃ t w, exec (.relocOut o) s = .next t ∧ t.me.getS o.d = 0 ∧ t.relocs = s1.relocs.erase q ∧ t.vdev? vd = some w ∧
            w.movedTo = some q.toPrefix ∧ w.root = v.root ∧ w.recPool = [] ∧ t.launches = s1.launches.filter (fun l => l.2.vd != vd) ∧
            t.reuse = s1.reuse.filter (fun e => e.2.vd != vd) ∧ t.mem = s1.mem) ∧
        (s1.images.find? (fun i => i.toVd == vd && i.fromPrefix == pre && i.fromVd == n) = none → MayWait s → exec (.relocIn o) s = .next s1) ∧
        (∀ (img : VdImage) (v : VDev), s1.images.find? (fun i => i.toVd == vd && i.fromPrefix == pre && i.fromVd == n) = some img →
          s1.vdev? vd = some v → img.reserved = [] →
          let s2 : State := { s1 with images := s1.images.erase img }
          let m : Move := ⟨n, vd, img.piers, v.piers⟩
          let t0 := mapLeaves s2 vd img
          let fits := imageFits s2 m img && img.leaves.all (fun l => (leafAt t0 vd l.1).isSome)
          (fits = false → ∃ t, exec (.relocIn o) s = .next t ∧ WroteD s t o.d (BitVec.ofNat 64 Cause.illegal.code) ∧
            t.out = s1.out ++ [.system pre (.relocAck n false [])] ∧ t.images = s2.images ∧ t.mem = s1.mem) ∧
          (fits = true → (acceptImage t0 m img).broken = none → ∃ t w, exec (.relocIn o) s = .next t ∧ WroteD s t o.d 0 ∧
            t.out = s1.out ++ [.system pre (.relocAck n true (keptParts s2 vd img))] ∧ t.images = s2.images ∧ t.vdev? vd = some w ∧
            (w.movedFrom = some pre ∨ w.movedFrom = none) ∧ w.recPool = img.recPool ∧ w.framePool = img.framePool ∧ w.stackPool = img.stackPool)) ∧
        (∀ (v : VDev) (dest : Nat), s1.vdev? vd = some v → v.movedTo = some dest →
          (partsLeft s1 vd = false → ∃ t, exec (.relocDrain o) s = .next t ∧ WroteD s t o.d 0) ∧
          (partsLeft s1 vd = true → x.asked = false → MayWait s → ∃ t, exec (.relocDrain o) s = .next t ∧
            t.out = s1.out ++ [.system dest (.relocDrain vd)] ∧ t.me = { x with asked := true } ∧ t.mem = s1.mem)))) ∧
    (∀ (vd va frame a y lvl pre pa : Nat) (tables : List Nat) (v : VDev) (c : Bool), s.vdev? vd = some v → leafAt s vd va = some (a, y, lvl) →
      leafLoc s vd y (va / 65536 * 65536) = .there pre pa c → v.movedFrom = some pre → s.remote = [] → frame % 65536 = 0 → 4 ≤ tables.length + lvl →
      (∀ t ∈ tables, t % 4096 = 0) → s.broken = none →
      ∃ t q, exec (.relocPagePull vd va frame tables) s = .next t ∧ t.remote = [q] ∧ q.target = pre ∧ q.pa = pa ∧ q.size = 65536 ∧
        q.kind = .pull ∧ q.opw = BitVec.ofNat 64 frame ∧ q.cmpw = BitVec.ofNat 64 (va / 65536 * 65536) ∧ q.who = .page vd (va / 65536 * 65536) frame tables ∧ q.seq = kget 0 s.seqs pre ∧
        t.mem = s.mem ∧ t.ctxs = s.ctxs)

/-! ### The fabric -/

/-- R159, R245 to R249, R384 to R387, R389, R396, R404: what a module does with requests of others and with answers to its own. A request that is new is
performed once and answered; a repeated number has its answer again and no effect; a number below the window is discarded; where the page has
gone, a FWD names the place. An answer ends its request. A request without one goes again on a healthy path; with none left, or after sixteen attempts, its outcome is
unknown. The port of a retry is log 24's choice, the form of answers logs 72 to 76's, the mark of a handle element log 92's, page parts logs 77 and 79's,
collapses log 65's and the count of discards log 82's. -/
def Obligations.FabricTraffic : Prop :=
  (∀ (s : State) (p : Nat), s.broken = none →
    (p < 16 → p ∉ s.linksDown → exec (.linkDown p) s = .next { s with linksDown := s.linksDown ++ [p] }) ∧
    exec (.linkUp p) s = .next { s with linksDown := s.linksDown.filter (fun q => q != p), badPaths := s.badPaths.filter (fun x => x.1 != p) }) ∧
  (∀ (s : State) (u : Nat) (r : RemoteReq), s.broken = none → s.dying = [] → (∀ q ∈ s.remote, q.attempts ≠ 0) →
    s.remote.find? (fun q => q.uid == u) = some r →
    (r.attempts = 1 → healthyPorts s r.target ≠ [] → ∃ t port, exec (.remoteRetryTimeout u) s = .next t ∧ port ∈ healthyPorts s r.target ∧
      (port ≠ r.port ∨ ∀ q ∈ healthyPorts s r.target, q = r.port) ∧
      t = { s with remote := s.remote.map (fun q => if q.uid = u then { r with attempts := 2, port := port } else q)
                   out := s.out ++ [.flit r.target s.ownPrefix (kindCode r.kind) r.seq r.pa (log2Up r.size) r.opw r.cmpw r.data true false] }) ∧
    (∀ c, (r.attempts = 1 ∧ healthyPorts s r.target = [] ∨ 16 ≤ r.attempts) → r.who = .store c → (s.ctx c).stop = none → (s.ctx c).unknown = none →
      ∃ t, exec (.remoteRetryTimeout u) s = .next t ∧ t.remote = s.remote.filter (fun q => q.uid != u) ∧
        t.ctx c = { s.ctx c with unknown := some (BitVec.ofNat 64 r.va) } ∧ (∀ d, d ≠ c → t.ctx d = s.ctx d) ∧ SameBytes s t)) ∧
  (∀ (s : State) (f : Flit), s.broken = none → f.target = s.ownPrefix → s.queues = [] → s.poison = [] → s.dying = [] →
    (∀ q ∈ s.remote, q.attempts ≠ 0) →
    let n := 2 ^ f.size
    let old := (span f.pa n).map (memGet s.mem)
    let at_ := elemHome s (homeOf s f.pa) f.pa f.w2
    let elsewhere (t : State) (b : Nat) : Prop := ∀ a, (a < b ∨ b + n ≤ a) → memGet t.mem a = memGet s.mem a
    let answered (t : State) (kind : Nat) (bs : Bytes) : Prop :=
      t.out = s.out ++ [.flit f.src s.ownPrefix 5 f.seq f.pa f.size 0 (BitVec.ofNat 64 kind) bs false false]
    let plain (b : Nat) : Prop := handedAt s f.pa = none ∧ s.transfers = [] ∧ s.convs = [] ∧ (homeOf s f.pa).hdr = none ∧ (homeOf s f.pa).lost = false ∧
      ∀ a ∈ span b n, a % 2 ^ 40 < 48 * 2 ^ 30
    (f.size ≤ 8 → plain at_ → ∃ t, exec (.fabricRead f) s = .next t ∧ answered t 1 ((span at_ n).map (memGet s.mem)) ∧ t.mem = s.mem ∧ t = { s with out := t.out, counts := t.counts }) ∧
    (f.size ≤ 8 → ∀ g, handedAt s f.pa = some g → ∃ t, exec (.fabricRead f) s = .next t ∧ t.mem = s.mem ∧
      t.out = s.out ++ [.flit f.src s.ownPrefix 7 f.seq f.pa 0 (BitVec.ofNat 64 (g.toPrefix * 2 ^ 44 + (g.toPa + (f.pa - g.pa))))
        (BitVec.ofNat 64 (1 + 256 * log2Up g.size)) [] false false]) ∧
    (f.size ≤ 8 → plain at_ → lookSeq s f.src f.seq = .fresh → n ≤ f.data.length → ∃ t, exec (.fabricWrite f) s = .next t ∧
      (span at_ n).map (memGet t.mem) = f.data.take n ∧ elsewhere t at_ ∧ t.out = s.out ++ [.flit f.src s.ownPrefix 6 f.seq f.pa 0 0 0 [] false false] ∧
      lookSeq t f.src f.seq = .kept [] ∧ t = { s with mem := t.mem, out := t.out, counts := t.counts, streams := t.streams }) ∧
    (f.size ≤ 8 → s.transfers = [] → (∃ bs, lookSeq s f.src f.seq = .kept bs) →
      exec (.fabricWrite f) s = .next { s with out := s.out ++ [.flit f.src s.ownPrefix 6 f.seq f.pa 0 0 0 [] false false] }) ∧
    (f.size ≤ 8 → lookSeq s f.src f.seq = .stale → exec (.fabricWrite f) s = .next s) ∧
    (f.size = 2 ∨ f.size = 3 → plain f.pa → lookSeq s f.src f.seq = .fresh →
      (∀ op : AtomOp, f.combined = false → AtomOp.ofCode (f.w3.toNat % 16) = some op → ∃ t, exec (.fabricAtom f) s = .next t ∧
        leNat ((span f.pa n).map (memGet t.mem)) = atomNew op (8 * n) (leNat old) (f.w2.toNat % 2 ^ (8 * n)) ∧ elsewhere t f.pa ∧ answered t 3 old ∧
        lookSeq t f.src f.seq = .kept (0 :: old)) ∧
      (∃ t, exec (.fabricCas f) s = .next t ∧ leNat ((span f.pa n).map (memGet t.mem)) =
          (if leNat old = f.w2.toNat % 2 ^ (8 * n) then f.w3.toNat % 2 ^ (8 * n) else leNat old) ∧ elsewhere t f.pa ∧ answered t 4 old ∧
        lookSeq t f.src f.seq = .kept (0 :: old))) ∧
    (f.size = 2 ∨ f.size = 3 → ∀ bs : Bytes, lookSeq s f.src f.seq = .kept (0 :: bs) →
      (f.combined = false → f.w3.toNat % 16 < 10 → exec (.fabricAtom f) s = .next (sendReply s f.src f.seq f.pa 3 bs false)) ∧
      exec (.fabricCas f) s = .next (sendReply s f.src f.seq f.pa 4 bs false)) ∧
    (∀ r : RemoteReq, requestOf s f.src f.seq f.w3.toNat = some r → r.kind ≠ .write → r.size ≤ f.data.length → f.w2.getLsbD 0 = false → r.fillFor = none →
      (∀ c, r.who = .load c → (s.ctx c).stop = none → ∃ t, exec (.fabricReply f) s = .next t ∧ t.remote = s.remote.filter (fun q => q.uid != r.uid) ∧
        t.ctx c = { s.ctx c with loads := (s.ctx c).loads.map (fun p => match p.need.find? (fun m => m.1 == r.uid) with
          | none => p
          | some (_, skip, off, m) => { p with bytes := patch p.bytes off (((f.data.take r.size).drop skip).take m)
                                               need := p.need.filter (fun m => m.1 != r.uid) }) } ∧
        (∀ d, d ≠ c → t.ctx d = s.ctx d) ∧ SameBytes s t) ∧
      (∀ agent, r.who = .operand agent → agent ≠ nobody → ∃ t, exec (.fabricReply f) s = .next t ∧ t.ctxs = s.ctxs ∧ SameBytes s t ∧
        t.remote = s.remote.filter (fun q => q.uid != r.uid) ∧
        t.arrived = s.arrived ++ [⟨agent, r.target, r.pa, f.data.take r.size, none, r.va⟩])) ∧
    (∀ r c, requestOf s f.src f.seq 2 = some r → r.who = .store c → (s.ctx c).stop = none → ∃ t, exec (.fabricAck f) s = .next t ∧
      t.remote = s.remote.filter (fun q => q.uid != r.uid) ∧ t = { s with remote := t.remote, badPaths := t.badPaths }) ∧
    (∀ r : RemoteReq, requestOf s f.src f.seq (f.w3.toNat % 256) = some r → (∀ vd va fr ts, r.who ≠ .page vd va fr ts) →
      let n := 2 ^ (f.w3.toNat / 256 % 256)
      f.w2.toNat / 2 ^ 44 ≠ s.ownPrefix → (∀ x ∈ s.remote, x.fillFor = none) → ∃ t q, exec (.fabricFwd f) s = .next t ∧
      t.remote = s.remote.filter (fun x => x.uid != r.uid) ++ [q] ∧ q.target = f.w2.toNat / 2 ^ 44 ∧ q.pa = f.w2.toNat % 2 ^ 44 ∧ q.kind = r.kind ∧
      q.who = r.who ∧ q.size = r.size ∧ q.data = r.data ∧ q.opw = r.opw ∧ q.cmpw = r.cmpw ∧ q.uid = r.uid ∧ t.ctxs = s.ctxs ∧ SameBytes s t ∧
      ∀ d < 16, ∀ l ∈ (t.deck d).lines, ¬ (l.target = f.src ∧ r.pa / n * n ≤ l.pa ∧ l.pa < r.pa / n * n + n)) ∧
    (∀ vd va leaf e v, f.pa % 65536 = 0 → s.transfers = [] → pageOf s f.pa = some (vd, va, leaf) → s.vdev? vd = some v → v.movedTo = some f.src →
      leafAt s vd (va + f.pa % leafPages leaf) = some (e, leaf, 4) → (e + 8 ≤ f.pa ∨ f.pa + 65536 ≤ e) →
      ∃ t, exec (.fabricPagePull f) s = .next t ∧
        t.out = s.out ++ (List.range 256).map (fun i =>
          .flit f.src s.ownPrefix 5 f.seq (f.pa + 256 * i) 8 0 8 (memRead s.mem (f.pa + 256 * i) 256) false false) ∧
        (∃ g, t.transfers = [g] ∧ g.pa = f.pa ∧ g.size = 65536 ∧ g.handed = true ∧ g.toPrefix = f.src ∧ g.toPa = f.w2.toNat) ∧
        let new := leNat (memRead t.mem e 8)
        leafMode new = 1 ∧ leafFrame new = f.w2.toNat / 65536 % 2 ^ 28 ∧ leafPeer new = (peerOf s vd f.src).getD 0 % 4096 ∧ bit new 0 = bit leaf 0 ∧
        ∀ a, (a < e ∨ e + 8 ≤ a) → memGet t.mem a = memGet s.mem a) ∧
    (∀ table : Nat,
      (∀ tag pa peer g, handedAt s pa = some g → exec (.fabricSystem f (.accnt tag pa peer) table) s =
        .next (s.emit (.system f.src (.accntFwd tag g.toPrefix (g.toPa + (pa - g.pa)) peer)))) ∧
      (∀ tag pa peer vd va leaf, handedAt s pa = none → pageOf s pa = some (vd, va, leaf) → exec (.fabricSystem f (.accnt tag pa peer) table) s =
        .next (s.emit (.system f.src (.accntReply tag (accessCount s pa (leafPages leaf) peer) (leafMode leaf == 3))))) ∧
      (∀ img, exec (.fabricSystem f (.relocState img) table) s = .next { s with images := s.images ++ [{ img with fromPrefix := f.src }] }) ∧
      (∀ vd ok, s.relocs.any (fun r => r.vd == vd && r.toPrefix == f.src && r.sent) = true → ∃ t, exec (.fabricSystem f (.relocAck vd ok []) table) s = .next t ∧
        t.relocs = s.relocs.map (fun r => if r.vd == vd && r.toPrefix == f.src && r.sent then { r with acked := true, failed := !ok } else r) ∧
        t.transfers = s.transfers ∧ t.mem = s.mem) ∧
      (∀ (c : Collapse) (va : Nat), s.collapses = [c] → c.begun = true → f.src ∈ c.todo → let left := c.todo.filter (fun p => p != f.src)
        let ack : Instr := .fabricSystem f (.collapseAck (tenantOf s c.vd) va) table
        (left ≠ [] → exec ack s = .next { s with collapses := [{ c with todo := left }] }) ∧
        (left = [] → c.writer ≠ s.ownPrefix → exec ack s = .next ({ s with collapses := [] }.emit (.system c.writer (.collapseDone (tenantOf s c.vd) c.va)))) ∧
        (left = [] → c.writer = s.ownPrefix →
          exec ack s = .next { s with collapses := [], collapseWaits := s.collapseWaits.erase (c.vd, c.va / 65536 * 65536) })) ∧
      (∀ tenant va, exec (.fabricSystem f (.collapseDone tenant va) table) s =
        .next { s with collapseWaits := s.collapseWaits.filter (fun w => !(tenantOf s w.1 == tenant && w.2 == va / 65536 * 65536)) }))) ∧
  (∀ (s : State) (deck kind : Nat), s.broken = none → deck < 16 → (kind = 0 ∨ 9 < kind) → ∃ t, exec (.flitReservedDiscard deck kind) s = .next t ∧
    t = { s with decks := t.decks } ∧ t.deck deck = { s.deck deck with discards := (s.deck deck).discards + 1 } ∧ ∀ d, d ≠ deck → t.deck d = s.deck d)

/-! ### The edges of the module -/

/-- R302, R399 to R403, R408, R409, R412: the management commands of an enrolled host; while no controller has booted they end with an error; an
unknown code ends with an error. A host reaches a page only while it owns it; the others are refused. A storage transfer pins its range and ends with a record.
A write of a ROD flow waits for its turn. Unsupported Ethernet packets are dropped and counted. The order of the telemetry answer and the shared
count of discards are log 82's; storage, exchange and attestation rest on logs 70, 80 and 81. -/
def Obligations.HostAndManagement : Prop :=
  ∀ (s : State) (host : Nat), s.broken = none →
    let answer (t : State) (ok : Bool) (bs : Bytes) : State := { t with out := t.out ++ [.hostAnswer host ok bs] }
    let refused (i : Instr) : Prop := exec i s = .next (answer s false [])
    let inTurn (rod : Option (Nat × Nat)) (u : State) : Prop := match rod with
      | none => u = s
      | some (flow, k) => kget 0 s.rodFlows (host * 65536 + flow % 65536) = k ∧
        u = { s with rodFlows := kput (host * 65536 + flow % 65536) (k + 1) s.rodFlows }
    (host ∈ s.hosts →
      (∀ code, (code = 0 ∨ 7 < code) → refused (.mgmtUnknownCommand host code)) ∧
      (served s = false → (∀ cfg c, refused (.mgmtQueueCreate host cfg c)) ∧ (∀ t, refused (.mgmtPreempt host t)) ∧
        (∀ vd va, refused (.mgmtExchangeGrant host vd va) ∧ refused (.exchangeReclaimAck host vd va)) ∧ (∀ cfg, refused (.mgmtStorageTransfer host cfg)) ∧
        (∀ n, refused (.mgmtAttestation host n))) ∧
      (∀ deck, deck < 16 → exec (.mgmtReadTelemetry host deck) s = .next (answer s true (telemetryBlock (s.deck deck) ++ moduleBlock s))) ∧
      (served s = true →
        (∀ cfg : QueueCfg, queueFits s cfg = true → ∃ t, exec (.mgmtQueueCreate host cfg true) s = .next t ∧
          t = answer { s with queues := t.queues } true [] ∧ (∀ n, n ≠ cfg.num → t.queue? n = s.queue? n) ∧ t.queue? cfg.num =
            some { vd := cfg.vd, jobid := cfg.jobid, ring := cfg.ring, logSize := cfg.logSize, regPa := cfg.regPa, deck := cfg.deck, widx := 0, ridx := 0
                   error := false, enabled := true, host := cfg.host, pkt := none, wait := .check, info := noInfo, pending := [], drops := [] }) ∧
        (∀ cfg : QueueCfg, queueFits s cfg = false → refused (.mgmtQueueCreate host cfg true)) ∧
        (∀ (cfg : QueueCfg) (q : Queue), s.queue? cfg.num = some q → q.pkt = none → q.vd = cfg.vd → ∃ t, exec (.mgmtQueueCreate host cfg false) s = .next t ∧
          t.queue? cfg.num = none ∧ (∀ n, n ≠ cfg.num → t.queue? n = s.queue? n) ∧ t.out = s.out ++ [.hostAnswer host true []]) ∧
        (∀ t : PreTarget, (preRequest s none t).todo ≠ [] → exec (.mgmtPreempt host t) s =
          .next (answer { s with preempts := s.preempts ++ [preRequest s none t] } true [])) ∧
        (∀ nonce : Bytes, nonce.length = 64 → let meas := (List.range 16).flatMap (fun d => (s.boot d).meas.flatten)
          let config := (s.tenantCfg.map (fun c => sha512 c.2)).flatten
          exec (.mgmtAttestation host nonce) s = .next { s with out := s.out ++
            [.report nonce s.serial meas config (Config.pssSign (nonce ++ s.serial ++ meas ++ config))] }) ∧
        (∀ (vd va a x lvl pa : Nat), leafAt s vd va = some (a, x, lvl) → let page := va / leafPages x * leafPages x
          leafLoc s vd x page = .here pa → s.exchanges = [] → bit x 12 = false → convPins s vd page (leafPages x) = false → leafAt s vd page = some (a, x, lvl) →
          let u := shootNow { s with exchanges := [(vd, page, host, true)], mem := memWrite s.mem a (leBytes 8 (setBits x 11 11 1)) } vd page
            (leafPages x / 65536)
          u.broken = none → u.exchanges = [(vd, page, host, true)] →
          let owned := u.hostPages.filter (fun h => !(h.1 == vd && h.2.1 == page)) ++ [(vd, page, host)]
          exec (.mgmtExchangeGrant host vd va) s = .next (answer { u with exchanges := [], hostPages := owned } true [])) ∧
        (∀ cfg : Storage, ringBad s cfg.vd cfg.ring = true → refused (.mgmtStorageTransfer host cfg)) ∧
        (∀ cfg : Storage, ringBad s cfg.vd cfg.ring = false →
          let x : Storage := { cfg with refused := none, tag := storageTag s, slot := none, ended := none }
          let begun (u : State) (bs : Bytes) : State :=
            let v := pinRange { u with storage := u.storage ++ [x] } cfg.vd (storageRange cfg)
            answer { v with out := v.out ++ [.nvme cfg.nvme cfg.write cfg.bytes bs] } true []
          (∀ a, storageBad s cfg = some a → exec (.mgmtStorageTransfer host cfg) s =
            .next (answer { s with storage := s.storage ++ [{ x with refused := some (.address, a) }] } false [])) ∧
          (storageBad s cfg = none → resident s cfg.vd (storageRange cfg) = true →
            ((cfg.write = false ∨ cfg.bytes = 0) → exec (.mgmtStorageTransfer host cfg) s = .next (begun s [])) ∧
            (∀ (u : State) (bs : Bytes), cfg.write = true → cfg.bytes ≠ 0 →
              engReadAt s (storageAgent (storageTag s)) (storageWho s cfg.vd) cfg.base cfg.bytes = .ok u bs → u.broken = none →
              exec (.mgmtStorageTransfer host cfg) s = .next (begun (dropArrived u (storageAgent (storageTag s))) bs))))) ∧
      (∀ (deck stage : Nat) (img : Image) (raise : Bool), deck < 16 → (stage = 1 ∨ stage = 2) → acceptsImage s deck stage img = false →
        refused (.mgmtLoadFirmware host deck stage img raise)) ∧
      (∀ (deck : Nat) (img : Image), deck < 16 → acceptsImage s deck 1 img = true → (s.boot deck).slots1.length = 2 → (s.boot deck).active1 = 0 →
        ∃ t, exec (.mgmtLoadFirmware host deck 1 img false) s = .next t ∧ t = answer { s with boots := t.boots } true [] ∧
          t.boot deck = { s.boot deck with slots1 := (s.boot deck).slots1.take 1 ++ [img], active1 := 1 } ∧ ∀ d, d ≠ deck → t.boot d = s.boot d) ∧
      (∀ vd va, served s = true → s.exchanges = [] → refused (.exchangeReclaimAck host vd va)) ∧
      (∀ (vd va a x lvl : Nat), served s = true → leafAt s vd va = some (a, x, lvl) → let page := va / leafPages x * leafPages x
        s.exchanges = [(vd, page, host, false)] → leafAt s vd page = some (a, x, lvl) →
        let u := shootNow { s with exchanges := [], mem := memWrite s.mem a (leBytes 8 (setBits x 11 11 0)) } vd page (leafPages x / 65536)
        let r := retryPage { u with hostPages := u.hostPages.filter (fun h => !(h.1 == vd && h.2.1 == page)) } vd page (leafPages x)
        u.exchanges = [] → r.broken = none → r.exchanges = [] → exec (.exchangeReclaimAck host vd va) s = .next (answer r true []) ∧
          (∀ (c : Nat) (y : Ctx) (st : Stop), (c, y) ∈ u.ctxs → y.vd = vd → y.pageWait = true → y.stop = some st →
            page ≤ st.faddr.toNat → st.faddr.toNat < page + leafPages x → (c, { y with pageWait := false, stop := none }) ∈ r.ctxs))) ∧
    (∀ (vd va n : Nat) (ps : List Placed), s.queues = [] → s.poison = [] → s.transfers = [] → s.convs = [] → hostPlaces s host vd va n = some ps → (∀ p ∈ ps, p.trk = false) →
      exec (.hostMemoryRead host vd va n) s = .next (answer s true (ps.map (fun p => readHere s p.loc))) ∧
      ∀ (ds : Bytes) (rod : Option (Nat × Nat)) (u : State), ds.length = n → inTurn rod u →
        ∃ t, exec (.hostMemoryWrite host vd va ⟨rod, ds⟩) s = .next t ∧
        t = answer { u with mem := t.mem, arrived := t.arrived, remote := t.remote } true [] ∧
        ∀ l, nearLoc l = true → readHere t l = (lastCell ((ps.map (fun p => p.loc)).zip ds) l).getD (readHere s l)) ∧
    (∀ (vd va n : Nat) (ds : Bytes), hostPlaces s host vd va n = none →
      refused (.hostMemoryRead host vd va n) ∧ (ds.length = n → ∀ rod u, inTurn rod u →
        exec (.hostMemoryWrite host vd va ⟨rod, ds⟩) s = .next (answer u false []))) ∧
    (∀ (vd va flow k : Nat) (ds : Bytes), kget 0 s.rodFlows (host * 65536 + flow % 65536) ≠ k →
      exec (.hostMemoryWrite host vd va ⟨some (flow, k), ds⟩) s = .next s) ∧
    (∀ deck, deck < 16 → ∃ t, exec (.uetUnsupportedPacket deck) s = .next t ∧ t = { s with decks := t.decks } ∧
      t.deck deck = { s.deck deck with discards := (s.deck deck).discards + 1 } ∧ ∀ d, d ≠ deck → t.deck d = s.deck d) ∧
    (∀ (i : Nat) (x : Storage), s.storage[i]? = some x → let ag := storageAgent x.tag
      (∀ (s1 s2 : State) (d : Bytes) (base n a : Nat) (c : Cause), x.refused = some (c, a) → x.slot = none → a < 2 ^ 64 →
        engReadAt s ag (storageWho s x.vd) x.ring 32 = .ok s1 d → ringDesc? d = some (base, n) →
        let claim := leAt d 16 8
        (claim + 2 ^ 64 - leAt d 24 8) % 2 ^ 64 < n → ringClaim s1 ag 0 (storageWho s x.vd) x.ring claim = .ok s2 true →
        let u := dropArrived s2 ag
        agentBusy u ag = false → ∃ r : Bytes, r.length = 32 ∧ bit (leAt r 0 8) 63 = true ∧ bits (leAt r 0 8) 51 48 = JStat.error.code ∧
          bits (leAt r 0 8) 31 16 = c.code ∧ leAt r 8 8 = 0 ∧ leAt r 16 8 = a ∧
          ∀ v : State, engWriteAt u ag 0 (storageWho u x.vd) ((base + 32 * (claim % n)) % 2 ^ 64) r = .ok v () → v.broken = none →
            ∃ t, exec (.storageTransferDone i true []) s = .next t ∧
              t = { v with storage := v.storage.eraseIdx i, free := v.free + 3, arrived := t.arrived, remote := t.remote }) ∧
      (∀ (slot n : Nat), x.refused = none → x.slot = some slot → x.ended = some (true, n) → n < 2 ^ 64 → agentBusy s ag = false →
        ∃ r : Bytes, r.length = 32 ∧ bit (leAt r 0 8) 63 = true ∧ bits (leAt r 0 8) 51 48 = JStat.done.code ∧ leAt r 8 8 = n ∧
          ∀ v : State, engWriteAt s ag 0 (storageWho s x.vd) slot r = .ok v () →
            let w := unpinRange { v with storage := v.storage.eraseIdx i, free := v.free + 3 } x.vd (storageRange x)
            w.broken = none → ∀ ok bs, ∃ t, exec (.storageTransferDone i ok bs) s = .next t ∧ t = { w with arrived := t.arrived, remote := t.remote }))

/-- R11, R24, R69, R96, R154, R184, R186 to R188, R208, R257, R388 to R390, R407, R411: module and pier reset, the grant of piers to a virtual device, the admission of
a job, frequency, temperature and scrubbing. Choices of this model: what MODULE_RESET keeps besides flash and fuses (log 63), the scrub's counts
and notices (logs 71, 82), the stack areas of a grant, an ungranted pier's reset and the two steps of THERMAL_STOP (log 84), the job's id (log 85), cleared
entry copies (log 88). -/
def Obligations.ResetGrantAndSensors : Prop :=
  ∀ (s : State), s.broken = none →
    (∃ t, exec .moduleReset s = .next t ∧ t = { State.reset with
        boots := t.boots, fuseVer := s.fuseVer, fuseKey := s.fuseKey, serial := s.serial, hosts := s.hosts, ownPrefix := s.ownPrefix, out := s.out
        nextUid := s.nextUid, cur := s.cur, agenda := s.agenda, free := s.free, decks := t.decks } ∧
      ∀ d < 16, let b := s.boot d
        let one := bootStage t t.fuseKey b.slots1 b.active1
        let two := match one.1 with | some x => bootStage t x.next b.slots2 b.active2 | none => (none, [])
        (t.deck d).booted = (b.romOk && two.1.isSome) ∧ (t.boot d).meas = [Config.romDigest d] ++ one.2 ++ two.2 ∧
        (t.boot d).slots1 = b.slots1 ∧ (t.boot d).slots2 = b.slots2 ∧ (t.boot d).active1 = bootSlot t t.fuseKey b.slots1 b.active1) ∧
    (∀ p, ∃ t, exec (.pierReset p) s = .next t ∧
      t.pier p = { Pier.reset with slots := (s.pier p).slots } ∧ (∀ k < 8, t.core (p * 8 + k) = Core.reset) ∧
      (∀ c < 32, t.ctx (p * 32 + c) = Ctx.reset) ∧ (∀ g, g ∈ t.granEmpty ↔ g ∈ s.granEmpty ∧ g / 65536 ≠ p) ∧ (∀ q, q ≠ p → t.pier q = s.pier q) ∧
      (∀ k, k / 8 ≠ p → t.core k = s.core k) ∧ (∀ c, c / 32 ≠ p → t.ctx c = s.ctx c) ∧ t.mem = s.mem ∧ t.spad = s.spad ∧ t.acc = s.acc) ∧
    (∀ (cfg : GrantCfg) (p : Nat), s.vdev? cfg.vd = none → cfg.piers = [p] → p < 12800 → (s.pier p).owner = none → s.unpowered p = false →
      (s.deck (deckOfPier p)).booted = true → (∀ i < 32, (s.ctx (p * 32 + i)).busy = false) → 32 ≤ cfg.stackPool.length →
      cfg.migThresh < 65536 → cfg.root % 4096 = 0 →
      ∃ t v, exec (.firmwareGrant cfg) s = .next t ∧ t.vdev? cfg.vd = some v ∧ v.piers = [p] ∧ v.root = cfg.root ∧ v.recPool = cfg.recPool ∧
        v.stackPool = cfg.stackPool.drop 32 ∧ v.tenant = cfg.tenant ∧ v.migThresh = (if cfg.migThresh = 0 then 256 else cfg.migThresh) ∧
        (t.pier p).deque = [] ∧ (t.pier p).fifos = [] ∧ (t.pier p).overflow = [] ∧ (t.pier p).recvs = [] ∧ (t.pier p).owner = some cfg.vd ∧ (t.pier p).trsplit = 0 ∧ (t.pier p).slots = [] ∧
        (t.pier p).marks = [] ∧ (t.pier p).dslots = [] ∧ (t.pier p).images = [] ∧ (t.pier p).events = [] ∧ (t.pier p).tlb = [] ∧
        (∀ k < 8, (t.core (p * 8 + k)).utlb = []) ∧
        (∀ i < 32, (t.ctx (p * 32 + i)).vd = cfg.vd ∧ (t.ctx (p * 32 + i)).tenant = BitVec.ofNat 16 cfg.tenant ∧
          (t.ctx (p * 32 + i)).stkbase = BitVec.ofNat 64 (cfg.stackPool.getD i 0)) ∧
        (Memory.wf s.acc = true → ∀ a, memGet t.acc a = if p * 2 ^ 17 ≤ a ∧ a < (p + 1) * 2 ^ 17 then 0 else memGet s.acc a) ∧
        t.mem = s.mem ∧ t.spad = s.spad ∧ (∀ q, q ≠ p → t.pier q = s.pier q) ∧ ∀ c, c / 32 ≠ p → t.ctx c = s.ctx c) ∧
    (∀ (cfg : JobCfg) (v : VDev) (id : Nat), s.vdev? cfg.vd = some v → cfg.fentry % 4 = 0 → cfg.fentry < 2 ^ 48 → cfg.deck < 16 → v.quiesced = false →
      (cfg.frameQuota < 64 → exec (.jobAdmission cfg) s = .next { s with out := s.out ++ [.mgmt false []] }) ∧
      (64 ≤ cfg.frameQuota → freeCounterId s cfg.deck = some id → cfg.entryTab = 0 → ∃ t, exec (.jobAdmission cfg) s = .next t ∧
        t.job? id = some { vd := cfg.vd, tenant := v.tenant, fentry := cfg.fentry, handlers := cfg.handlers, entryTab := 0
                           counterQuota := cfg.counterQuota, frameQuota := cfg.frameQuota, cancelled := false, cause := .none } ∧
        kget? t.counters id = some ⟨id, 0, 0, .level, false, 0, [], false⟩ ∧ t.vdev? cfg.vd = some { v with jobs := v.jobs ++ [id] } ∧
        (let cleared (p : Nat) : Pier := { s.pier p with entries := (s.pier p).entries.filter (fun e => e.1 / 256 != id) }
         (∀ p ∈ v.piers, t.pier p = { cleared p with stealr := 4 }) ∧ ∀ p, p ∉ v.piers → t.pier p = cleared p) ∧
        t.out = s.out ++ [.mgmt true [BitVec.ofNat 64 id]] ∧ t.mem = s.mem ∧ t.ctxs = s.ctxs)) ∧
    (∀ p, p < 12800 → (∀ f, 600 ≤ f → f ≤ 1900 → ∃ t, exec (.pierFrequencySet p f) s = .next t ∧ OnlyPier s t p ∧ t.pier p = { s.pier p with freq := f }) ∧
      ∃ t, exec (.overScaledModeEnable p) s = .next t ∧ OnlyPier s t p ∧ t.pier p = { s.pier p with overScaled := true }) ∧
    (∀ (k : Nat) (ts : List Turn), s.agenda = .replay k :: ts → (s.pier (pierOfCore k)).overScaled = true → ∃ t, step s = .next t ∧
      kget 0 (t.pier (pierOfCore k)).events 1 = kget 0 (s.pier (pierOfCore k)).events 1 + 1 ∧
      (t.pier (pierOfCore k)).overScaled = decide ((s.core k).replays = 0) ∧ (t.core k).cycles = (s.core k).cycles + 3) ∧
    (∀ (deck : Nat) (temp : BitVec 16), deck < 16 →
      (∃ t, exec (.thermalThrottle deck temp) s = .next t ∧ t = { s with decks := t.decks, piers := t.piers } ∧ (t.deck deck).junction = temp ∧
        ∀ p < 12800, t.pier p = if deckOfPier p = deck ∧ 760 < temp.toInt ∧ 600 < (s.pier p).freq then
          { s.pier p with freq := max 600 ((s.pier p).freq - 100) } else s.pier p) ∧
      (temp.toInt < 840 → ∃ t, exec (.thermalStop deck temp) s = .next t ∧ t = { s with decks := t.decks } ∧
        t.deck deck = { s.deck deck with junction := temp }) ∧
      (840 ≤ temp.toInt → s.ctxs.all (fun c => !c.2.busy) = true → ∃ t, exec (.thermalStop deck temp) s = .next t ∧
        (∀ d < 16, (t.deck d).stopped = true) ∧ (∀ p < 12800, t.unpowered p = true) ∧ ∀ e ∈ t.piers, e.2.poweredDown = true ∧ e.2.tlb = []) ∧
      (840 ≤ temp.toInt → s.ctxs.any (fun c => c.2.busy && c.2.role != .firmware) = true → s.preempts = [] → ∃ t, exec (.thermalStop deck temp) s = .next t ∧
        t.preempts = s.vdevs.map (fun v => preRequest s none (.vd v.1)))) ∧
    (∀ u : ScrubUnit, unitExists u = true →
      exec (.scrubPass u .clean) s = .next s ∧
      (∀ c o, u = .spad c o → u ∉ s.poison → ∃ t, exec (.scrubPass u .corrected) s = .next t ∧ OnlyPier s t (c / 8) ∧
        kget 0 (t.pier (c / 8)).events 15 = kget 0 (s.pier (c / 8)).events 15 + 1) ∧
      (∀ c o, u = .spad c o → u ∉ s.poison → (s.pier (c / 8)).owner = none → ∃ t, exec (.scrubPass u .uncorrectable) s = .next t ∧
        t.poison = s.poison ++ [u] ∧ (t.deck (deckOfPier (c / 8))).uncorr = (s.deck (deckOfPier (c / 8))).uncorr + 1 ∧ t.notices = s.notices) ∧
      (∀ c o vd v, u = .spad c o → u ∉ s.poison → (s.pier (c / 8)).owner = some vd → s.vdev? vd = some v → ∃ t n,
        exec (.scrubPass u .uncorrectable) s = .next t ∧ t.poison = s.poison ++ [u] ∧ t.notices = s.notices ++ [n] ∧ n.cause = .memerr ∧ n.vd = vd ∧
        n.faddr = BitVec.ofNat 64 (2 ^ 20 + c % 8 * 2 ^ 17 + o) ∧ n.pier = c / 8 ∧ n.record = 0))

/-! ### Rules over all instructions -/

/-- R86: TLBINV, ENTSET, PREEMPT, RELOC and DBGHALT raise PRIVILEGE below system level, ERET below entry level, on operands that keep their own
conditions; a unit is at level 0, a handler at level 1, an entry at level 2, firmware at level 3. -/
def Obligations.PrivilegedInstructions : Prop :=
  ∀ (s : State), Accepts s accG → GuardOn s (modGuard s.me.pfx) → let x := s.me
    let num (r : SReg) : Nat := (x.getS r).toNat
    (x.level = match x.role with | .firmware => 3 | .entry _ => 2 | .handler => 1 | _ => 0) ∧
    (x.level < 3 →
      (∀ o : ETlb, FullS s [o.a, o.b] → bits (num o.b) 47 32 = 0 →
        Raises s (.tlbinvAll o) .privilege none ∧
        (num o.a % 65536 = 0 → num o.b % 2 ^ 32 ≠ 0 → Raises s (.tlbinv o) .privilege none)) ∧
      (∀ o : E3, FullS s [o.a, o.b, o.d] → num o.a < 65536 → ∀ i ∈ [Instr.relocOut o, .relocIn o, .relocDrain o], Raises s i .privilege none) ∧
      (∀ o : EPre, FullS s [o.a, o.d] → preOperand o.sel (num o.a) ≠ none → Raises s (.preempt o) .privilege none) ∧
      (∀ o : EDA, FullS s [o.a, o.d] → num o.a < 2 ^ 22 → num o.a % 256 ≠ 0 →
        ∀ i ∈ [Instr.dbghalt o, .dbghaltResume o, .dbghaltStep o], Raises s i .privilege none) ∧
      (∀ (o : E3) (j : JobRec), FullS s [o.a, o.b, o.d] → s.job? (num o.a / 2 ^ 32) = some j → bits (num o.a) 31 8 = 0 → bits (num o.b) 62 48 = 0 →
        num o.b % 4 = 0 → Raises s (.entset o) .privilege none)) ∧
    (x.level < 2 →
      (∀ o : EAB, FullS s [o.a, o.b] → num o.a % 4 = 0 → num o.a < 2 ^ 48 → num o.b < 2 ^ 32 → Raises s (.eretResume o) .privilege none) ∧
      (∀ o : EB, FullS s [o.b] → num o.b < 65536 → Cause.ofCode (num o.b) ≠ none → Raises s (.eretEnd o) .privilege none) ∧
      Raises s .eretPark .privilege none)

/-- R289: a pure unit raises PURITY, with no effect, at each of the instructions that the rule lists. For an operand value that is ILLEGAL by itself
the order is that of R80, which puts ILLEGAL first. -/
def Obligations.PureUnitsRaisePurity : Prop :=
  ∀ (s : State), s.broken = none → s.me.pure = true → s.me.role = .unit → let x := s.me
    let num (r : SReg) : Nat := (x.getS r).toNat
    let int (r : SReg) : Int := (x.getS r).toInt
    (∀ o : RD, Accepts s accNone → GuardOn s o.g → x.fullS o.d = true → Raises s (.rdcyc o) .purity none) ∧
    (Accepts s accG →
      (¬ (x.fullK (modGuard x.pfx).slot = true ∧ (guardWord x (modGuard x.pfx)).getLsbD 0 = false) →
        (∀ o : E3, FullS s [o.a, o.b] → ∀ i ∈ [Instr.dinst o, .datom o, .dver o, .imginv o, .send o, .sendcM o], Raises s i .purity none) ∧
        (∀ o : EDA, FullS s [o.a] → ∀ i ∈ [Instr.dret o, .post o], Raises s i .purity none) ∧
        (∀ o : EDB, FullS s [o.b] → Raises s (.sendc o) .purity none)) ∧
      (GuardOn s (modGuard x.pfx) →
        (∀ o : EDA, FullS s [o.a, o.d] → Raises s (.recv o) .purity none ∧ Raises s (.spawn o) .purity none ∧
          (num o.a < 16 → Raises s (.qpop o) .purity none)) ∧
        (∀ (o : E3) (l : Launch), FullS s [o.a, o.b, o.d] → s.launch? x.launchid.toNat = some l →
          (∀ k, ownCounter s x.jobid.toNat (num o.b) = some k → nextIndex s ≠ none →
            (k.kind ≠ .level → Raises s (.fork o) .purity none) ∧ (k.kind = .level → Raises s (.fork o) .privilege none)) ∧
          (∀ q, num o.b < 4096 → s.queue? (num o.b) = some q → q.vd = x.vd → Raises s (.launch o) .purity none) ∧
          (∀ r, rangeOf (num o.a) (num o.b) = some r → rangeInside r = true → pkPure l.pkt = true → Raises s (.lease o) .purity none)) ∧
        (∀ (o : EA) (l : Launch), FullS s [o.a] → s.launch? x.launchid.toNat = some l →
          Raises s (.pgadv o) .purity none ∧
          ((ownCounter s x.jobid.toNat (num o.a)).isSome = true → Raises s (.join o) .purity none) ∧
          (0 < num o.a → num o.a ≤ 16 → pkPure l.pkt = true → Raises s (.unlease o) .purity none) ∧
          ∀ i ∈ [Instr.cancelLaunch o, .cancelGraph o, .cancelPhase o, .cancelJob o], Raises s i .purity none) ∧
        (∀ o : EAB, FullS s [o.a, o.b] → (num o.a < 16 → Raises s (.qpush o) .purity none) ∧ Raises s (.cancelUnit o) .purity none ∧
          (-(2 ^ 47) ≤ int o.b → int o.b ≤ 2 ^ 47 - 1 → Raises s (.cadd o) .purity none) ∧
          (num o.b ≠ 0 → num o.b < 2 ^ 32 → Raises s (.arrive o) .purity none)) ∧
        (∀ o : EExpect, FullS s [o.a, o.b, o.d] → o.k ≠ 0 → bits (num o.b) 47 16 ≠ 0 → num o.b < 2 ^ 48 → Raises s (.expect o) .purity none) ∧
        (∀ o : EAtom, FullS s [o.a, o.b, o.d] → Raises s (.atom o) .purity none) ∧
        (∀ o : ECas, FullS s [o.a, o.b, o.d] → Raises s (.cas o) .purity none) ∧
        (∀ o : EHget, FullS s [o.b, o.d] → 1 ≤ num o.b → num o.b ≤ 3 → Raises s (.relayout o) .purity none)))

/-- R21, R72, R87: where the word at the program counter of the context that issues decodes to an instruction, the step is that instruction, at the
state in which one cycle of its core has passed and the fetch is done. An event on the agenda is its own instruction; a word that is none traps
as ILLEGAL. How turns follow each other is this model's choice (log 1). -/
def Obligations.StepRunsTheDecodedInstruction : Prop :=
  (∀ (s : State) (k c : Nat), roundRobin s k = some c ↔ ∃ i < 4, let turn (j : Nat) : Nat := k * 4 + ((s.core k).lastIssue + 1 + j) % 4
    c = turn i ∧ mayIssue s c = true ∧ ∀ j < i, mayIssue s (turn j) = false) ∧
  (∀ (s s2 : State) (c w : Nat) (ts : List Turn),
    (s.agenda = .issue c :: ts ∨ s.agenda = [] ∧ ts = [] ∧ roundRobin s (coreOfCtx s.cur) = some c) →
    let s0 : State := { s with agenda := ts, cur := c }
    let x := s0.me
    (roundRobin s0 (coreOfCtx c) ≠ some c → step s = .next s0) ∧
    (roundRobin s0 (coreOfCtx c) = some c → x.fencing = false → (x.pfx ≠ [] ∨ stopDue x = false) →
    fetchWord (issueCycle s0 c) c (wordPc x) = .ok s2 w →
    (∀ i : Instr, decodeWord w = .ok i → (isPrefix (BitVec.ofNat 32 w) = false ∨ stopDue s2.me = false ∨ x.pfx = []) → step s = exec i s2) ∧
    (∀ e, decodeWord w = .error e → w / 2 ^ 24 ≠ 0xFD → isPrefix (BitVec.ofNat 32 w) = false → s2.broken = none →
      ∃ u a, step s = (takeFault u s2.cur .illegal 0 a s2.me.pc s2.me.pc s2.me.pfx false).done ∧ u = { s2 with cores := u.cores, free := u.free }))) ∧
  (∀ (s : State) (i : Instr) (ts : List Turn), s.agenda = .event i :: ts → step s = exec i { s with agenda := ts })

/-- R70, R81, R82: words written out from the spec's encodings, one or more of each format, decode to the instructions that they stand for. -/
def Obligations.WordsDecode : Prop :=
  decodeWord 0x02BDDDAB = .ok (.add ⟨47, 29, 54, true, false, ⟨5, true⟩⟩) ∧
  decodeWord 0x16B9C02B = .ok (.clz ⟨46, 28, true, ⟨5, true⟩⟩) ∧
  decodeWord 0x20B9CCD2 = .ok (.addi ⟨46, 28, true, 1234⟩) ∧
  decodeWord 0x24CA0829 = .ok (.shli ⟨50, 32, true, 41⟩) ∧
  decodeWord 0x29D5EDAB = .ok (.cmp ⟨6, 5, 30, 54, true, false, ⟨5, true⟩⟩) ∧
  decodeWord 0x2D0C60AB = .ok (.kand ⟨3, 6, 2, true, false, ⟨5, true⟩⟩) ∧
  decodeWord 0x3BB5B22B = .ok (.fcvtTo ⟨45, 27, .bf16, true, ⟨5, true⟩⟩) ∧
  decodeWord 0x3EB9ABCD = .ok (.br ⟨⟨5, true⟩, 633805⟩) ∧
  decodeWord 0x47CC0013 = .ok (.getc ⟨51, 19⟩) ∧
  decodeWord 0x5050C26B = .ok (.vadd ⟨20, 12, 9, true, false, ⟨5, true⟩⟩) ∧
  decodeWord 0x7350020B = .ok (.viota ⟨20, .bf16, ⟨5, true⟩⟩) ∧
  decodeWord 0x93C1EAD5 = .ok (.ldd ⟨48, 30, 2, 725⟩) ∧
  decodeWord 0x9B55FA15 = .ok (.ldv ⟨21, 31, 2, .bf16, 21⟩) ∧
  decodeWord 0x9D52526A = .ok (.ldx ⟨20, 37, 9, 2, true, 2⟩) ∧
  decodeWord 0x9F51C2E0 = .ok (.tld ⟨20, 28, 11, 2⟩) ∧
  decodeWord 0xA1C1ED97 = .ok (.atom ⟨48, 30, 54, true, .or⟩) ∧
  decodeWord 0xA300001A = .ok (.fence ⟨.device, .release⟩) ∧
  decodeWord 0xA5B5BD80 = .ok (.copy ⟨45, 27, 54⟩) ∧
  decodeWord 0xABB5BD85 = .ok (.cscat ⟨45, 27, 54, false, .add16, true⟩) ∧
  decodeWord 0xB2C1EDA8 = .ok (.mma ⟨48, 30, 54, 2, true⟩) ∧
  decodeWord 0xDBCA0D85 = .ok (.expect ⟨50, 32, 54, 5⟩) ∧
  decodeWord 0xE52DBD80 = .ok (.hset ⟨11, 27, 54⟩) ∧
  decodeWord 0xED000002 = .ok .eretPark ∧
  (∃ e, decodeWord 0x80000000 = .error e) ∧ (∃ e, decodeWord 0x01000001 = .error e) ∧ ∃ e, decodeWord 0x29000000 = .error e

/-- R70 to R86: for every well-formed instruction, the decoding of its encoding is that instruction, with every operand at every value; and that
word has 32 bits. -/
def Obligations.EncodedInstructionsDecode : Prop :=
  ∀ (i : Instr) (w : Nat), i.wf = true → encode i = some w → w < 2 ^ 32 ∧ decodeWord w = .ok i

/-- Every step keeps the canonical form of the four byte memories: addresses strictly rising, no byte equal to what an unlisted address reads as. -/
def Obligations.StepKeepsMemoriesCanonical : Prop :=
  ∀ (s t : State), MemInv s → step s = .next t → MemInv t

/-- R154, R184, R187, R208, R282, R339, R407: after reset the memories are in canonical form, every granule is full, every watermark is 32, TRSPLIT is 0, no slot,
dictionary, image, counter, launch or reuse entry exists, and no context is busy. -/
def Obligations.ResetState : Prop :=
  MemInv State.reset ∧ State.reset.granEmpty = [] ∧
    (∀ p, (State.reset.pier p).trsplit = 0 ∧ (State.reset.pier p).owner = none ∧ (State.reset.pier p).jobs = [] ∧
      (∀ n, kget 32 (State.reset.pier p).marks n = 32) ∧ (State.reset.pier p).slots = [] ∧ (State.reset.pier p).dslots = [] ∧
      (State.reset.pier p).images = [] ∧ (State.reset.pier p).events = [] ∧ (State.reset.pier p).deque = []) ∧
    (∀ c, (State.reset.ctx c).busy = false ∧ (∀ r, (State.reset.ctx c).fullS r = true) ∧ (State.reset.ctx c).getS 0 = 0 ∧
      (State.reset.ctx c).getK 0 = BitVec.allOnes 64) ∧
    (∀ k, (State.reset.core k).sb = [] ∧ (State.reset.core k).mweight = 1 ∧ (State.reset.core k).halted = false) ∧
    State.reset.counters = [] ∧ State.reset.launches = [] ∧ State.reset.reuse = []
end

