-- ==== Sys2Proof/Laws/Accesses.lean ====
section
/-!
SUPPORT. Accesses to a core's own scratchpad: they are placed at once, and an engine's read of them changes nothing.
-/
namespace Sys2Proof.Machine

/-- An address of the own scratchpad is placed there, whatever the access. -/
theorem placeByte_spad (s : State) (w : Who) (k : AKind) (leased : Bool) {a : Nat} (h : a < 98304) :
    placeByte s w k leased a = .ok ⟨.spad w.core a, false, false, 0, a⟩ := by
  simp [placeByte, window, h]

theorem placeAll_spad (s : State) (w : Who) (k : AKind) (leased : Bool) (as : List Nat) (h : ∀ a ∈ as, a < 98304) :
    placeAll s w k leased as = .ok (as.map (fun a => ⟨.spad w.core a, false, false, 0, a⟩)) := by
  have e : as.map (fun a => (a, placeByte s w k leased a)) =
      as.map (fun a => (a, (.ok ⟨.spad w.core a, false, false, 0, a⟩ : Except (Cause × Bool) Placed))) :=
    List.map_congr_left (fun a ha => by rw [placeByte_spad s w k leased (h a ha)])
  have h1 : as.filterMap (fun _ => (none : Option (Nat × Cause × Bool))) = [] := by
    rw [List.filterMap_eq_nil_iff]; intro _ _; rfl
  have h2 : as.filterMap (fun a => some (⟨.spad w.core a, false, false, 0, a⟩ : Placed)) =
      as.map (fun a => ⟨.spad w.core a, false, false, 0, a⟩) := by
    induction as with
    | nil => rfl
    | cons a as _ => simp
  simp only [placeAll, e, List.filterMap_map, Function.comp_def, h1, h2]

theorem noteAll_spad (s : State) (w : Who) (as : List Nat) (h : ∀ a ∈ as, a < 98304) : noteAll s w as = s := by
  have e : pagesOf w as = [] := by
    rw [pagesOf, List.filterMap_eq_nil_iff.2]
    · rfl
    · intro a ha
      simp [window, h a ha]
  rw [noteAll, e]
  rfl

/-- An engine's read of its core's scratchpad gives the bytes there and changes nothing (R370). -/
theorem engRead_spad (s : State) (ag : Nat) (w : Who) (as : List Nat) (h : ∀ a ∈ as, a < 98304) (hp : s.poison = []) (hm : s.remote = []) :
    engRead s ag w as = .ok s (as.map (fun a => memGet s.spad (w.core * 131072 + a))) := by
  have hh : ∀ l : List Nat, (l.map (fun a => (⟨.spad w.core a, false, false, 0, a⟩ : Placed))).map (fun p => p.loc) =
      l.map (fun a => Loc.spad w.core a) := fun l => by simp
  have hf : arrivedFault s ag (as.map (fun a => Loc.spad w.core a)) = none := by
    rw [arrivedFault, List.findSome?_eq_none_iff]
    rintro ⟨l, n⟩ hl
    obtain ⟨a, -, rfl⟩ := List.mem_map.1 (List.of_mem_zip hl).1
    rfl
  have hc : countPlaced s w.vd (as.map (fun a => (⟨.spad w.core a, false, false, 0, a⟩ : Placed))) = s := by
    rw [countPlaced, List.filterMap_eq_nil_iff.2]
    · rfl
    · intro p hq
      obtain ⟨a, -, rfl⟩ := List.mem_map.1 hq
      rfl
  have hs : strongLines s (pierOfCore w.core) (as.map (fun a => (⟨.spad w.core a, false, false, 0, a⟩ : Placed))) = s := by
    simp [strongLines]
  have hz : ∀ l : List Nat, ((l.map (fun a => (⟨.spad w.core a, false, false, 0, a⟩ : Placed))).zip
      ((l.map (fun a => Loc.spad w.core a)).map (fun _ => (none : Option Byte)))) =
      l.map (fun a => ((⟨.spad w.core a, false, false, 0, a⟩ : Placed), none)) := fun l => by
    induction l with
    | nil => rfl
    | cons a l ih => simpa using ih
  have hr : readPlaced s ag (pierOfCore w.core) ((as.map (fun a => Loc.spad w.core a)).map (fun _ => none))
      (as.map (fun a => (⟨.spad w.core a, false, false, 0, a⟩ : Placed))) =
      as.map (fun a => some (memGet s.spad (w.core * 131072 + a))) := by
    rw [readPlaced, hz, List.map_map]
    rfl
  have hd : ((as.map (fun a => Loc.spad w.core a)).any (heldAt s)) = false := by
    rw [List.any_eq_false]
    intro l hl
    obtain ⟨a, -, rfl⟩ := List.mem_map.1 hl
    simp [heldAt]
  have ht : (as.map (fun a => (⟨.spad w.core a, false, false, 0, a⟩ : Placed))).any (fun p => p.strong) = false := by simp
  have ho : (as.map (fun a => (⟨.spad w.core a, false, false, 0, a⟩ : Placed))).any (ownWriteOut s ag) = false := by
    rw [List.any_eq_false]
    intro p _
    simp [ownWriteOut, ownMoved, hm]
  simp only [engRead, engReadBy, Adj.plain, placeAll_spad s w .read true as h, noteAll_spad s w as h, hh, hd, hr, hf, hc, hs, ht, ho,
    poisonAddr, hp, List.isEmpty_nil, Bool.and_false, Bool.or_self]
  simp [Function.comp_def]
end Sys2Proof.Machine
end

