-- ==== Sys2Proof/Laws/Memory.lean ====
section
/-!
SUPPORT. Tables and byte memories: a read after a write, and that every memory operation keeps the canonical form.
-/
namespace Sys2Proof.Machine

/-! ### Tables -/

theorem kget_kput {α : Type} (d : α) (a b : Nat) (x : α) :
    ∀ m : KMap α, kget d (kput a x m) b = if b = a then x else kget d m b
  | [] => by simp [kput, kget]
  | (k, v) :: m => by
    have ih := kget_kput d a b x m
    simp only [kput]
    split
    · simp [kget]
    · split
      · subst_vars; simp only [kget]; split <;> rfl
      · simp only [kget, ih]; split <;> split <;> simp_all

theorem kget?_kput {α : Type} (a b : Nat) (x : α) :
    ∀ m : KMap α, kget? (kput a x m) b = if b = a then some x else kget? m b
  | [] => by simp [kput, kget?]
  | (k, v) :: m => by
    have ih := kget?_kput a b x m
    simp only [kput]
    split
    · simp [kget?]
    · split
      · subst_vars; simp only [kget?]; split <;> rfl
      · simp only [kget?, ih]; split <;> split <;> simp_all

@[simp] theorem kget_kput_same {α : Type} (d : α) (a : Nat) (x : α) (m : KMap α) : kget d (kput a x m) a = x := by
  simp [kget_kput]

theorem kget_kput_ne {α : Type} (d : α) {a b : Nat} (h : b ≠ a) (x : α) (m : KMap α) :
    kget d (kput a x m) b = kget d m b := by simp [kget_kput, h]

@[simp] theorem kget?_kput_same {α : Type} (a : Nat) (x : α) (m : KMap α) : kget? (kput a x m) a = some x := by
  simp [kget?_kput]

theorem kget?_kput_ne {α : Type} {a b : Nat} (h : b ≠ a) (x : α) (m : KMap α) :
    kget? (kput a x m) b = kget? m b := by simp [kget?_kput, h]

/-! ### Bytes -/

theorem memWfFrom_mono : ∀ (m : Mem) (lo hi : Nat), lo ≤ hi → memWfFrom (some hi) m = true → memWfFrom (some lo) m = true
  | [], _, _, _, _ => rfl
  | (k, v) :: m, lo, hi, h, w => by
    simp only [memWfFrom, Bool.and_eq_true, decide_eq_true_eq] at w ⊢
    exact ⟨⟨by omega, w.1.2⟩, w.2⟩

theorem memWfFrom_none : ∀ (m : Mem) (lo : Nat), memWfFrom (some lo) m = true → memWfFrom none m = true
  | [], _, _ => rfl
  | (k, v) :: m, lo, w => by
    simp only [memWfFrom, Bool.and_eq_true] at w ⊢
    exact ⟨⟨trivial, w.1.2⟩, w.2⟩

/-- An address below every cell reads blank. -/
theorem memGet_below : ∀ (m : Mem) (lo a : Nat), memWfFrom (some lo) m = true → a ≤ lo → memGet m a = blankByte
  | [], _, _, _, _ => rfl
  | (k, v) :: m, lo, a, w, h => by
    simp only [memWfFrom, Bool.and_eq_true, decide_eq_true_eq] at w
    simp only [memGet]; rw [if_pos (by omega)]

theorem memAbove_get (a : Nat) : ∀ m : Mem, memAbove a m = true → memGet m a = blankByte
  | [], _ => rfl
  | (k, v) :: m, h => by
    simp only [memAbove, decide_eq_true_eq] at h
    simp [memGet, h]

theorem memGet_memPut_same (a : Nat) (b : Byte) : ∀ m : Mem, memGet (memPut a b m) a = b
  | [] => by
    simp only [memPut]; split
    · subst_vars; rfl
    · simp [memGet]
  | (k, v) :: m => by
    have ih := memGet_memPut_same a b m
    simp only [memPut]
    split
    · rename_i h
      split
      · subst_vars; simp [memGet, h]
      · simp [memGet]
    · rename_i h
      split
      · subst_vars
        split
        · rename_i hb
          simp only [Bool.and_eq_true, decide_eq_true_eq] at hb
          rw [memAbove_get _ _ hb.2, hb.1]
        · simp [memGet]
      · rename_i hk
        simp only [memGet, if_neg h, if_neg hk, ih]

theorem memGet_memPut_ne {a c : Nat} (b : Byte) (hne : c ≠ a) :
    ∀ m : Mem, memGet (memPut a b m) c = memGet m c
  | [] => by
    simp only [memPut]; split
    · rfl
    · simp [memGet, hne]
  | (k, v) :: m => by
    have ih := memGet_memPut_ne b hne m
    simp only [memPut]
    split
    · rename_i h
      split
      · rfl
      · simp only [memGet, if_neg hne]
        split
        · rw [if_pos (by omega)]
        · rfl
    · rename_i h
      split
      · subst_vars
        split
        · rename_i hb
          simp only [Bool.and_eq_true, decide_eq_true_eq] at hb
          simp only [memGet, if_neg hne]
          split
          · cases m with
            | nil => rfl
            | cons p m => cases p; simp only [memAbove, decide_eq_true_eq] at hb; simp only [memGet]; rw [if_pos (by omega)]
          · rfl
        · simp only [memGet, if_neg hne]
      · simp only [memGet, ih]

/-- One byte of a memory after a store. -/
theorem memGet_memPut (a c : Nat) (b : Byte) (m : Mem) :
    memGet (memPut a b m) c = if c = a then b else memGet m c := by
  split
  · subst_vars; exact memGet_memPut_same _ _ _
  · rename_i h; exact memGet_memPut_ne b h m

/-- One byte of a memory after a store of several. -/
theorem memGet_memWrite : ∀ (bs : Bytes) (m : Mem) (a c : Nat),
    memGet (memWrite m a bs) c = if a ≤ c ∧ c < a + bs.length then bs.getD (c - a) 0 else memGet m c
  | [], m, a, c => by
    simp only [memWrite, List.length_nil, Nat.add_zero]; rw [if_neg (by omega)]
  | b :: bs, m, a, c => by
    simp only [memWrite, memGet_memWrite bs (memPut a b m) (a + 1) c, memGet_memPut, List.length_cons]
    by_cases h1 : c = a
    · subst h1
      rw [if_neg (by omega), if_pos rfl, if_pos (by omega)]
      simp
    · rw [if_neg h1]
      by_cases h2 : a + 1 ≤ c ∧ c < a + 1 + bs.length
      · rw [if_pos h2, if_pos (by omega)]
        obtain ⟨n, rfl⟩ : ∃ n, c = a + 1 + n := ⟨c - (a + 1), by omega⟩
        rw [show a + 1 + n - (a + 1) = n by omega, show a + 1 + n - a = n + 1 by omega]
        rfl
      · rw [if_neg h2, if_neg (by omega)]

/-! ### The canonical form -/

theorem memWfFrom_memPut (a : Nat) (b : Byte) : ∀ (m : Mem) (lo : Option Nat),
    (∀ l, lo = some l → l < a) → memWfFrom lo m = true → memWfFrom lo (memPut a b m) = true
  | [], lo, hl, _ => by
    simp only [memPut]; split
    · rfl
    · rename_i hb
      cases lo with
      | none => simp [memWfFrom, hb]
      | some l => simp [memWfFrom, hb, hl l rfl]
  | (k, v) :: m, lo, hl, w => by
    simp only [memWfFrom, Bool.and_eq_true] at w
    obtain ⟨⟨w1, w2⟩, w3⟩ := w
    have cell (hb : b ≠ blankByte) (m' : Mem) (w' : memWfFrom (some a) m' = true) : memWfFrom lo ((a, b) :: m') = true := by
      cases lo with
      | none => simp [memWfFrom, hb, w']
      | some l => simp [memWfFrom, hb, w', hl l rfl]
    simp only [memPut]
    split
    · rename_i h
      split
      · simp [memWfFrom, w1, w2, w3]
      · rename_i hb
        exact cell hb _ (by simp [memWfFrom, h, w2, w3])
    · rename_i h
      split
      · rename_i hk
        subst hk
        split
        · cases lo with
          | none => exact memWfFrom_none _ _ w3
          | some l => exact memWfFrom_mono _ _ _ (by have := hl l rfl; omega) w3
        · rename_i hb
          have hb' : b ≠ blankByte := by
            intro e
            apply hb
            have : memAbove a m = true := by
              cases m with
              | nil => rfl
              | cons p m =>
                cases p
                simp only [memWfFrom, Bool.and_eq_true, decide_eq_true_eq] at w3
                simpa [memAbove] using w3.1.1
            simp [e, this]
          exact cell hb' _ w3
      · rename_i hk
        simp only [memWfFrom, Bool.and_eq_true]
        exact ⟨⟨w1, w2⟩, memWfFrom_memPut a b m (some k) (fun l e => by cases e; omega) w3⟩

/-- A store of one byte keeps the canonical form. -/
theorem wf_memPut {m : Mem} (a : Nat) (b : Byte) (h : Memory.wf m = true) : Memory.wf (memPut a b m) = true :=
  memWfFrom_memPut a b m none (fun _ e => nomatch e) h

/-- A store of bytes keeps the canonical form. -/
theorem wf_memWrite : ∀ (bs : Bytes) {m : Mem} (a : Nat), Memory.wf m = true → Memory.wf (memWrite m a bs) = true
  | [], _, _, h => h
  | b :: bs, _, a, h => wf_memWrite bs (a + 1) (wf_memPut a b h)

theorem memWfFrom_filter (f : Nat × Byte → Bool) : ∀ (m : Mem) (lo : Option Nat),
    memWfFrom lo m = true → memWfFrom lo (m.filter f) = true
  | [], _, _ => by simp [memWfFrom]
  | (k, v) :: m, lo, w => by
    simp only [memWfFrom, Bool.and_eq_true] at w
    have ih := memWfFrom_filter f m (some k) w.2
    simp only [List.filter]
    split
    · simp [memWfFrom, w.1.1, w.1.2, ih]
    · cases lo with
      | none => exact memWfFrom_none _ _ ih
      | some l => exact memWfFrom_mono _ _ _ (Nat.le_of_lt (by simpa using w.1.1)) ih

/-- Blanking a range keeps the canonical form. -/
theorem wf_memClear {m : Mem} (lo hi : Nat) (h : Memory.wf m = true) : Memory.wf (memClear m lo hi) = true :=
  memWfFrom_filter _ m none h

/-- One byte of a memory after a range was made blank. -/
theorem memGet_memClear (lo hi a : Nat) : ∀ (m : Mem) (l : Option Nat), memWfFrom l m = true →
    memGet (memClear m lo hi) a = if lo ≤ a ∧ a < hi then blankByte else memGet m a
  | [], _, _ => by simp [memClear, memGet]
  | (k, v) :: m, l, w => by
    simp only [memWfFrom, Bool.and_eq_true] at w
    have ih := memGet_memClear lo hi a m (some k) w.2
    have low : a < k → memGet (memClear m lo hi) a = blankByte := fun h =>
      memGet_below _ k a (memWfFrom_filter _ m _ w.2) (by omega)
    have low' : a < k → memGet m a = blankByte := fun h => memGet_below _ k a w.2 (by omega)
    unfold memClear at ih low ⊢
    simp only [List.filter]
    split
    · rename_i hk
      simp only [Bool.or_eq_true, decide_eq_true_eq] at hk
      simp only [memGet, ih]
      split
      · split <;> rfl
      · split
        · subst_vars; rw [if_neg (by omega)]
        · rfl
    · rename_i hk
      simp only [Bool.or_eq_false_iff, decide_eq_false_iff_not] at hk
      by_cases h1 : a < k
      · rw [low h1]; simp only [memGet, if_pos h1]; split <;> rfl
      · by_cases h2 : a = k
        · subst h2
          rw [if_pos (by omega), memGet_below _ a a (memWfFrom_filter _ m _ w.2) (by omega)]
        · rw [ih]; simp only [memGet, if_neg h1, if_neg h2]

theorem wf_reset : Memory.wf State.reset.mem = true ∧ Memory.wf State.reset.spad = true ∧
    Memory.wf State.reset.truss = true ∧ Memory.wf State.reset.acc = true := ⟨rfl, rfl, rfl, rfl⟩

end Sys2Proof.Machine
end

