-- ==== Sys2Proof/Laws/State.lean ====
section
/-!
SUPPORT. What each update of a part of the state leaves as it was: one lemma per field.
-/
namespace Sys2Proof.Machine

/-! ### setCtx -/

@[simp] theorem State.setCtx_mem (s : State) (c : Nat) (x : Ctx) : (s.setCtx c x).mem = s.mem := rfl
@[simp] theorem State.setCtx_spad (s : State) (c : Nat) (x : Ctx) : (s.setCtx c x).spad = s.spad := rfl
@[simp] theorem State.setCtx_granEmpty (s : State) (c : Nat) (x : Ctx) : (s.setCtx c x).granEmpty = s.granEmpty := rfl
@[simp] theorem State.setCtx_truss (s : State) (c : Nat) (x : Ctx) : (s.setCtx c x).truss = s.truss := rfl
@[simp] theorem State.setCtx_acc (s : State) (c : Nat) (x : Ctx) : (s.setCtx c x).acc = s.acc := rfl
@[simp] theorem State.setCtx_norms (s : State) (c : Nat) (x : Ctx) : (s.setCtx c x).norms = s.norms := rfl
@[simp] theorem State.setCtx_poison (s : State) (c : Nat) (x : Ctx) : (s.setCtx c x).poison = s.poison := rfl
@[simp] theorem State.setCtx_cores (s : State) (c : Nat) (x : Ctx) : (s.setCtx c x).cores = s.cores := rfl
@[simp] theorem State.setCtx_piers (s : State) (c : Nat) (x : Ctx) : (s.setCtx c x).piers = s.piers := rfl
@[simp] theorem State.setCtx_decks (s : State) (c : Nat) (x : Ctx) : (s.setCtx c x).decks = s.decks := rfl
@[simp] theorem State.setCtx_vdevs (s : State) (c : Nat) (x : Ctx) : (s.setCtx c x).vdevs = s.vdevs := rfl
@[simp] theorem State.setCtx_jobs (s : State) (c : Nat) (x : Ctx) : (s.setCtx c x).jobs = s.jobs := rfl
@[simp] theorem State.setCtx_launches (s : State) (c : Nat) (x : Ctx) : (s.setCtx c x).launches = s.launches := rfl
@[simp] theorem State.setCtx_queues (s : State) (c : Nat) (x : Ctx) : (s.setCtx c x).queues = s.queues := rfl
@[simp] theorem State.setCtx_counters (s : State) (c : Nat) (x : Ctx) : (s.setCtx c x).counters = s.counters := rfl
@[simp] theorem State.setCtx_reuse (s : State) (c : Nat) (x : Ctx) : (s.setCtx c x).reuse = s.reuse := rfl
@[simp] theorem State.setCtx_reuseClock (s : State) (c : Nat) (x : Ctx) : (s.setCtx c x).reuseClock = s.reuseClock := rfl
@[simp] theorem State.setCtx_convs (s : State) (c : Nat) (x : Ctx) : (s.setCtx c x).convs = s.convs := rfl
@[simp] theorem State.setCtx_walkers (s : State) (c : Nat) (x : Ctx) : (s.setCtx c x).walkers = s.walkers := rfl
@[simp] theorem State.setCtx_stolen (s : State) (c : Nat) (x : Ctx) : (s.setCtx c x).stolen = s.stolen := rfl
@[simp] theorem State.setCtx_mesh (s : State) (c : Nat) (x : Ctx) : (s.setCtx c x).mesh = s.mesh := rfl
@[simp] theorem State.setCtx_ctrReqs (s : State) (c : Nat) (x : Ctx) : (s.setCtx c x).ctrReqs = s.ctrReqs := rfl
@[simp] theorem State.setCtx_sliceFaults (s : State) (c : Nat) (x : Ctx) : (s.setCtx c x).sliceFaults = s.sliceFaults := rfl
@[simp] theorem State.setCtx_notices (s : State) (c : Nat) (x : Ctx) : (s.setCtx c x).notices = s.notices := rfl
@[simp] theorem State.setCtx_dying (s : State) (c : Nat) (x : Ctx) : (s.setCtx c x).dying = s.dying := rfl
@[simp] theorem State.setCtx_taints (s : State) (c : Nat) (x : Ctx) : (s.setCtx c x).taints = s.taints := rfl
@[simp] theorem State.setCtx_places (s : State) (c : Nat) (x : Ctx) : (s.setCtx c x).places = s.places := rfl
@[simp] theorem State.setCtx_remote (s : State) (c : Nat) (x : Ctx) : (s.setCtx c x).remote = s.remote := rfl
@[simp] theorem State.setCtx_arrived (s : State) (c : Nat) (x : Ctx) : (s.setCtx c x).arrived = s.arrived := rfl
@[simp] theorem State.setCtx_seqs (s : State) (c : Nat) (x : Ctx) : (s.setCtx c x).seqs = s.seqs := rfl
@[simp] theorem State.setCtx_streams (s : State) (c : Nat) (x : Ctx) : (s.setCtx c x).streams = s.streams := rfl
@[simp] theorem State.setCtx_linksDown (s : State) (c : Nat) (x : Ctx) : (s.setCtx c x).linksDown = s.linksDown := rfl
@[simp] theorem State.setCtx_badPaths (s : State) (c : Nat) (x : Ctx) : (s.setCtx c x).badPaths = s.badPaths := rfl
@[simp] theorem State.setCtx_transfers (s : State) (c : Nat) (x : Ctx) : (s.setCtx c x).transfers = s.transfers := rfl
@[simp] theorem State.setCtx_counts (s : State) (c : Nat) (x : Ctx) : (s.setCtx c x).counts = s.counts := rfl
@[simp] theorem State.setCtx_shoots (s : State) (c : Nat) (x : Ctx) : (s.setCtx c x).shoots = s.shoots := rfl
@[simp] theorem State.setCtx_preempts (s : State) (c : Nat) (x : Ctx) : (s.setCtx c x).preempts = s.preempts := rfl
@[simp] theorem State.setCtx_advice (s : State) (c : Nat) (x : Ctx) : (s.setCtx c x).advice = s.advice := rfl
@[simp] theorem State.setCtx_leaseReqs (s : State) (c : Nat) (x : Ctx) : (s.setCtx c x).leaseReqs = s.leaseReqs := rfl
@[simp] theorem State.setCtx_accnts (s : State) (c : Nat) (x : Ctx) : (s.setCtx c x).accnts = s.accnts := rfl
@[simp] theorem State.setCtx_frameJobs (s : State) (c : Nat) (x : Ctx) : (s.setCtx c x).frameJobs = s.frameJobs := rfl
@[simp] theorem State.setCtx_relocs (s : State) (c : Nat) (x : Ctx) : (s.setCtx c x).relocs = s.relocs := rfl
@[simp] theorem State.setCtx_images (s : State) (c : Nat) (x : Ctx) : (s.setCtx c x).images = s.images := rfl
@[simp] theorem State.setCtx_dupRanges (s : State) (c : Nat) (x : Ctx) : (s.setCtx c x).dupRanges = s.dupRanges := rfl
@[simp] theorem State.setCtx_collapses (s : State) (c : Nat) (x : Ctx) : (s.setCtx c x).collapses = s.collapses := rfl
@[simp] theorem State.setCtx_collapseWaits (s : State) (c : Nat) (x : Ctx) : (s.setCtx c x).collapseWaits = s.collapseWaits := rfl
@[simp] theorem State.setCtx_exchanges (s : State) (c : Nat) (x : Ctx) : (s.setCtx c x).exchanges = s.exchanges := rfl
@[simp] theorem State.setCtx_hostPages (s : State) (c : Nat) (x : Ctx) : (s.setCtx c x).hostPages = s.hostPages := rfl
@[simp] theorem State.setCtx_storage (s : State) (c : Nat) (x : Ctx) : (s.setCtx c x).storage = s.storage := rfl
@[simp] theorem State.setCtx_rodFlows (s : State) (c : Nat) (x : Ctx) : (s.setCtx c x).rodFlows = s.rodFlows := rfl
@[simp] theorem State.setCtx_boots (s : State) (c : Nat) (x : Ctx) : (s.setCtx c x).boots = s.boots := rfl
@[simp] theorem State.setCtx_fuseVer (s : State) (c : Nat) (x : Ctx) : (s.setCtx c x).fuseVer = s.fuseVer := rfl
@[simp] theorem State.setCtx_fuseKey (s : State) (c : Nat) (x : Ctx) : (s.setCtx c x).fuseKey = s.fuseKey := rfl
@[simp] theorem State.setCtx_serial (s : State) (c : Nat) (x : Ctx) : (s.setCtx c x).serial = s.serial := rfl
@[simp] theorem State.setCtx_hosts (s : State) (c : Nat) (x : Ctx) : (s.setCtx c x).hosts = s.hosts := rfl
@[simp] theorem State.setCtx_tenantCfg (s : State) (c : Nat) (x : Ctx) : (s.setCtx c x).tenantCfg = s.tenantCfg := rfl
@[simp] theorem State.setCtx_inlet (s : State) (c : Nat) (x : Ctx) : (s.setCtx c x).inlet = s.inlet := rfl
@[simp] theorem State.setCtx_outlet (s : State) (c : Nat) (x : Ctx) : (s.setCtx c x).outlet = s.outlet := rfl
@[simp] theorem State.setCtx_flow (s : State) (c : Nat) (x : Ctx) : (s.setCtx c x).flow = s.flow := rfl
@[simp] theorem State.setCtx_inPower (s : State) (c : Nat) (x : Ctx) : (s.setCtx c x).inPower = s.inPower := rfl
@[simp] theorem State.setCtx_ownPrefix (s : State) (c : Nat) (x : Ctx) : (s.setCtx c x).ownPrefix = s.ownPrefix := rfl
@[simp] theorem State.setCtx_out (s : State) (c : Nat) (x : Ctx) : (s.setCtx c x).out = s.out := rfl
@[simp] theorem State.setCtx_nextUid (s : State) (c : Nat) (x : Ctx) : (s.setCtx c x).nextUid = s.nextUid := rfl
@[simp] theorem State.setCtx_broken (s : State) (c : Nat) (x : Ctx) : (s.setCtx c x).broken = s.broken := rfl
@[simp] theorem State.setCtx_cur (s : State) (c : Nat) (x : Ctx) : (s.setCtx c x).cur = s.cur := rfl
@[simp] theorem State.setCtx_agenda (s : State) (c : Nat) (x : Ctx) : (s.setCtx c x).agenda = s.agenda := rfl
@[simp] theorem State.setCtx_free (s : State) (c : Nat) (x : Ctx) : (s.setCtx c x).free = s.free := rfl

/-! ### setMe -/

@[simp] theorem State.setMe_mem (s : State) (x : Ctx) : (s.setMe x).mem = s.mem := rfl
@[simp] theorem State.setMe_spad (s : State) (x : Ctx) : (s.setMe x).spad = s.spad := rfl
@[simp] theorem State.setMe_granEmpty (s : State) (x : Ctx) : (s.setMe x).granEmpty = s.granEmpty := rfl
@[simp] theorem State.setMe_truss (s : State) (x : Ctx) : (s.setMe x).truss = s.truss := rfl
@[simp] theorem State.setMe_acc (s : State) (x : Ctx) : (s.setMe x).acc = s.acc := rfl
@[simp] theorem State.setMe_norms (s : State) (x : Ctx) : (s.setMe x).norms = s.norms := rfl
@[simp] theorem State.setMe_poison (s : State) (x : Ctx) : (s.setMe x).poison = s.poison := rfl
@[simp] theorem State.setMe_cores (s : State) (x : Ctx) : (s.setMe x).cores = s.cores := rfl
@[simp] theorem State.setMe_piers (s : State) (x : Ctx) : (s.setMe x).piers = s.piers := rfl
@[simp] theorem State.setMe_decks (s : State) (x : Ctx) : (s.setMe x).decks = s.decks := rfl
@[simp] theorem State.setMe_vdevs (s : State) (x : Ctx) : (s.setMe x).vdevs = s.vdevs := rfl
@[simp] theorem State.setMe_jobs (s : State) (x : Ctx) : (s.setMe x).jobs = s.jobs := rfl
@[simp] theorem State.setMe_launches (s : State) (x : Ctx) : (s.setMe x).launches = s.launches := rfl
@[simp] theorem State.setMe_queues (s : State) (x : Ctx) : (s.setMe x).queues = s.queues := rfl
@[simp] theorem State.setMe_counters (s : State) (x : Ctx) : (s.setMe x).counters = s.counters := rfl
@[simp] theorem State.setMe_reuse (s : State) (x : Ctx) : (s.setMe x).reuse = s.reuse := rfl
@[simp] theorem State.setMe_reuseClock (s : State) (x : Ctx) : (s.setMe x).reuseClock = s.reuseClock := rfl
@[simp] theorem State.setMe_convs (s : State) (x : Ctx) : (s.setMe x).convs = s.convs := rfl
@[simp] theorem State.setMe_walkers (s : State) (x : Ctx) : (s.setMe x).walkers = s.walkers := rfl
@[simp] theorem State.setMe_stolen (s : State) (x : Ctx) : (s.setMe x).stolen = s.stolen := rfl
@[simp] theorem State.setMe_mesh (s : State) (x : Ctx) : (s.setMe x).mesh = s.mesh := rfl
@[simp] theorem State.setMe_ctrReqs (s : State) (x : Ctx) : (s.setMe x).ctrReqs = s.ctrReqs := rfl
@[simp] theorem State.setMe_sliceFaults (s : State) (x : Ctx) : (s.setMe x).sliceFaults = s.sliceFaults := rfl
@[simp] theorem State.setMe_notices (s : State) (x : Ctx) : (s.setMe x).notices = s.notices := rfl
@[simp] theorem State.setMe_dying (s : State) (x : Ctx) : (s.setMe x).dying = s.dying := rfl
@[simp] theorem State.setMe_taints (s : State) (x : Ctx) : (s.setMe x).taints = s.taints := rfl
@[simp] theorem State.setMe_places (s : State) (x : Ctx) : (s.setMe x).places = s.places := rfl
@[simp] theorem State.setMe_remote (s : State) (x : Ctx) : (s.setMe x).remote = s.remote := rfl
@[simp] theorem State.setMe_arrived (s : State) (x : Ctx) : (s.setMe x).arrived = s.arrived := rfl
@[simp] theorem State.setMe_seqs (s : State) (x : Ctx) : (s.setMe x).seqs = s.seqs := rfl
@[simp] theorem State.setMe_streams (s : State) (x : Ctx) : (s.setMe x).streams = s.streams := rfl
@[simp] theorem State.setMe_linksDown (s : State) (x : Ctx) : (s.setMe x).linksDown = s.linksDown := rfl
@[simp] theorem State.setMe_badPaths (s : State) (x : Ctx) : (s.setMe x).badPaths = s.badPaths := rfl
@[simp] theorem State.setMe_transfers (s : State) (x : Ctx) : (s.setMe x).transfers = s.transfers := rfl
@[simp] theorem State.setMe_counts (s : State) (x : Ctx) : (s.setMe x).counts = s.counts := rfl
@[simp] theorem State.setMe_shoots (s : State) (x : Ctx) : (s.setMe x).shoots = s.shoots := rfl
@[simp] theorem State.setMe_preempts (s : State) (x : Ctx) : (s.setMe x).preempts = s.preempts := rfl
@[simp] theorem State.setMe_advice (s : State) (x : Ctx) : (s.setMe x).advice = s.advice := rfl
@[simp] theorem State.setMe_leaseReqs (s : State) (x : Ctx) : (s.setMe x).leaseReqs = s.leaseReqs := rfl
@[simp] theorem State.setMe_accnts (s : State) (x : Ctx) : (s.setMe x).accnts = s.accnts := rfl
@[simp] theorem State.setMe_frameJobs (s : State) (x : Ctx) : (s.setMe x).frameJobs = s.frameJobs := rfl
@[simp] theorem State.setMe_relocs (s : State) (x : Ctx) : (s.setMe x).relocs = s.relocs := rfl
@[simp] theorem State.setMe_images (s : State) (x : Ctx) : (s.setMe x).images = s.images := rfl
@[simp] theorem State.setMe_dupRanges (s : State) (x : Ctx) : (s.setMe x).dupRanges = s.dupRanges := rfl
@[simp] theorem State.setMe_collapses (s : State) (x : Ctx) : (s.setMe x).collapses = s.collapses := rfl
@[simp] theorem State.setMe_collapseWaits (s : State) (x : Ctx) : (s.setMe x).collapseWaits = s.collapseWaits := rfl
@[simp] theorem State.setMe_exchanges (s : State) (x : Ctx) : (s.setMe x).exchanges = s.exchanges := rfl
@[simp] theorem State.setMe_hostPages (s : State) (x : Ctx) : (s.setMe x).hostPages = s.hostPages := rfl
@[simp] theorem State.setMe_storage (s : State) (x : Ctx) : (s.setMe x).storage = s.storage := rfl
@[simp] theorem State.setMe_rodFlows (s : State) (x : Ctx) : (s.setMe x).rodFlows = s.rodFlows := rfl
@[simp] theorem State.setMe_boots (s : State) (x : Ctx) : (s.setMe x).boots = s.boots := rfl
@[simp] theorem State.setMe_fuseVer (s : State) (x : Ctx) : (s.setMe x).fuseVer = s.fuseVer := rfl
@[simp] theorem State.setMe_fuseKey (s : State) (x : Ctx) : (s.setMe x).fuseKey = s.fuseKey := rfl
@[simp] theorem State.setMe_serial (s : State) (x : Ctx) : (s.setMe x).serial = s.serial := rfl
@[simp] theorem State.setMe_hosts (s : State) (x : Ctx) : (s.setMe x).hosts = s.hosts := rfl
@[simp] theorem State.setMe_tenantCfg (s : State) (x : Ctx) : (s.setMe x).tenantCfg = s.tenantCfg := rfl
@[simp] theorem State.setMe_inlet (s : State) (x : Ctx) : (s.setMe x).inlet = s.inlet := rfl
@[simp] theorem State.setMe_outlet (s : State) (x : Ctx) : (s.setMe x).outlet = s.outlet := rfl
@[simp] theorem State.setMe_flow (s : State) (x : Ctx) : (s.setMe x).flow = s.flow := rfl
@[simp] theorem State.setMe_inPower (s : State) (x : Ctx) : (s.setMe x).inPower = s.inPower := rfl
@[simp] theorem State.setMe_ownPrefix (s : State) (x : Ctx) : (s.setMe x).ownPrefix = s.ownPrefix := rfl
@[simp] theorem State.setMe_out (s : State) (x : Ctx) : (s.setMe x).out = s.out := rfl
@[simp] theorem State.setMe_nextUid (s : State) (x : Ctx) : (s.setMe x).nextUid = s.nextUid := rfl
@[simp] theorem State.setMe_broken (s : State) (x : Ctx) : (s.setMe x).broken = s.broken := rfl
@[simp] theorem State.setMe_cur (s : State) (x : Ctx) : (s.setMe x).cur = s.cur := rfl
@[simp] theorem State.setMe_agenda (s : State) (x : Ctx) : (s.setMe x).agenda = s.agenda := rfl
@[simp] theorem State.setMe_free (s : State) (x : Ctx) : (s.setMe x).free = s.free := rfl

/-! ### setCore -/

@[simp] theorem State.setCore_mem (s : State) (k : Nat) (x : Core) : (s.setCore k x).mem = s.mem := rfl
@[simp] theorem State.setCore_spad (s : State) (k : Nat) (x : Core) : (s.setCore k x).spad = s.spad := rfl
@[simp] theorem State.setCore_granEmpty (s : State) (k : Nat) (x : Core) : (s.setCore k x).granEmpty = s.granEmpty := rfl
@[simp] theorem State.setCore_truss (s : State) (k : Nat) (x : Core) : (s.setCore k x).truss = s.truss := rfl
@[simp] theorem State.setCore_acc (s : State) (k : Nat) (x : Core) : (s.setCore k x).acc = s.acc := rfl
@[simp] theorem State.setCore_norms (s : State) (k : Nat) (x : Core) : (s.setCore k x).norms = s.norms := rfl
@[simp] theorem State.setCore_poison (s : State) (k : Nat) (x : Core) : (s.setCore k x).poison = s.poison := rfl
@[simp] theorem State.setCore_ctxs (s : State) (k : Nat) (x : Core) : (s.setCore k x).ctxs = s.ctxs := rfl
@[simp] theorem State.setCore_piers (s : State) (k : Nat) (x : Core) : (s.setCore k x).piers = s.piers := rfl
@[simp] theorem State.setCore_decks (s : State) (k : Nat) (x : Core) : (s.setCore k x).decks = s.decks := rfl
@[simp] theorem State.setCore_vdevs (s : State) (k : Nat) (x : Core) : (s.setCore k x).vdevs = s.vdevs := rfl
@[simp] theorem State.setCore_jobs (s : State) (k : Nat) (x : Core) : (s.setCore k x).jobs = s.jobs := rfl
@[simp] theorem State.setCore_launches (s : State) (k : Nat) (x : Core) : (s.setCore k x).launches = s.launches := rfl
@[simp] theorem State.setCore_queues (s : State) (k : Nat) (x : Core) : (s.setCore k x).queues = s.queues := rfl
@[simp] theorem State.setCore_counters (s : State) (k : Nat) (x : Core) : (s.setCore k x).counters = s.counters := rfl
@[simp] theorem State.setCore_reuse (s : State) (k : Nat) (x : Core) : (s.setCore k x).reuse = s.reuse := rfl
@[simp] theorem State.setCore_reuseClock (s : State) (k : Nat) (x : Core) : (s.setCore k x).reuseClock = s.reuseClock := rfl
@[simp] theorem State.setCore_convs (s : State) (k : Nat) (x : Core) : (s.setCore k x).convs = s.convs := rfl
@[simp] theorem State.setCore_walkers (s : State) (k : Nat) (x : Core) : (s.setCore k x).walkers = s.walkers := rfl
@[simp] theorem State.setCore_stolen (s : State) (k : Nat) (x : Core) : (s.setCore k x).stolen = s.stolen := rfl
@[simp] theorem State.setCore_mesh (s : State) (k : Nat) (x : Core) : (s.setCore k x).mesh = s.mesh := rfl
@[simp] theorem State.setCore_ctrReqs (s : State) (k : Nat) (x : Core) : (s.setCore k x).ctrReqs = s.ctrReqs := rfl
@[simp] theorem State.setCore_sliceFaults (s : State) (k : Nat) (x : Core) : (s.setCore k x).sliceFaults = s.sliceFaults := rfl
@[simp] theorem State.setCore_notices (s : State) (k : Nat) (x : Core) : (s.setCore k x).notices = s.notices := rfl
@[simp] theorem State.setCore_dying (s : State) (k : Nat) (x : Core) : (s.setCore k x).dying = s.dying := rfl
@[simp] theorem State.setCore_taints (s : State) (k : Nat) (x : Core) : (s.setCore k x).taints = s.taints := rfl
@[simp] theorem State.setCore_places (s : State) (k : Nat) (x : Core) : (s.setCore k x).places = s.places := rfl
@[simp] theorem State.setCore_remote (s : State) (k : Nat) (x : Core) : (s.setCore k x).remote = s.remote := rfl
@[simp] theorem State.setCore_arrived (s : State) (k : Nat) (x : Core) : (s.setCore k x).arrived = s.arrived := rfl
@[simp] theorem State.setCore_seqs (s : State) (k : Nat) (x : Core) : (s.setCore k x).seqs = s.seqs := rfl
@[simp] theorem State.setCore_streams (s : State) (k : Nat) (x : Core) : (s.setCore k x).streams = s.streams := rfl
@[simp] theorem State.setCore_linksDown (s : State) (k : Nat) (x : Core) : (s.setCore k x).linksDown = s.linksDown := rfl
@[simp] theorem State.setCore_badPaths (s : State) (k : Nat) (x : Core) : (s.setCore k x).badPaths = s.badPaths := rfl
@[simp] theorem State.setCore_transfers (s : State) (k : Nat) (x : Core) : (s.setCore k x).transfers = s.transfers := rfl
@[simp] theorem State.setCore_counts (s : State) (k : Nat) (x : Core) : (s.setCore k x).counts = s.counts := rfl
@[simp] theorem State.setCore_shoots (s : State) (k : Nat) (x : Core) : (s.setCore k x).shoots = s.shoots := rfl
@[simp] theorem State.setCore_preempts (s : State) (k : Nat) (x : Core) : (s.setCore k x).preempts = s.preempts := rfl
@[simp] theorem State.setCore_advice (s : State) (k : Nat) (x : Core) : (s.setCore k x).advice = s.advice := rfl
@[simp] theorem State.setCore_leaseReqs (s : State) (k : Nat) (x : Core) : (s.setCore k x).leaseReqs = s.leaseReqs := rfl
@[simp] theorem State.setCore_accnts (s : State) (k : Nat) (x : Core) : (s.setCore k x).accnts = s.accnts := rfl
@[simp] theorem State.setCore_frameJobs (s : State) (k : Nat) (x : Core) : (s.setCore k x).frameJobs = s.frameJobs := rfl
@[simp] theorem State.setCore_relocs (s : State) (k : Nat) (x : Core) : (s.setCore k x).relocs = s.relocs := rfl
@[simp] theorem State.setCore_images (s : State) (k : Nat) (x : Core) : (s.setCore k x).images = s.images := rfl
@[simp] theorem State.setCore_dupRanges (s : State) (k : Nat) (x : Core) : (s.setCore k x).dupRanges = s.dupRanges := rfl
@[simp] theorem State.setCore_collapses (s : State) (k : Nat) (x : Core) : (s.setCore k x).collapses = s.collapses := rfl
@[simp] theorem State.setCore_collapseWaits (s : State) (k : Nat) (x : Core) : (s.setCore k x).collapseWaits = s.collapseWaits := rfl
@[simp] theorem State.setCore_exchanges (s : State) (k : Nat) (x : Core) : (s.setCore k x).exchanges = s.exchanges := rfl
@[simp] theorem State.setCore_hostPages (s : State) (k : Nat) (x : Core) : (s.setCore k x).hostPages = s.hostPages := rfl
@[simp] theorem State.setCore_storage (s : State) (k : Nat) (x : Core) : (s.setCore k x).storage = s.storage := rfl
@[simp] theorem State.setCore_rodFlows (s : State) (k : Nat) (x : Core) : (s.setCore k x).rodFlows = s.rodFlows := rfl
@[simp] theorem State.setCore_boots (s : State) (k : Nat) (x : Core) : (s.setCore k x).boots = s.boots := rfl
@[simp] theorem State.setCore_fuseVer (s : State) (k : Nat) (x : Core) : (s.setCore k x).fuseVer = s.fuseVer := rfl
@[simp] theorem State.setCore_fuseKey (s : State) (k : Nat) (x : Core) : (s.setCore k x).fuseKey = s.fuseKey := rfl
@[simp] theorem State.setCore_serial (s : State) (k : Nat) (x : Core) : (s.setCore k x).serial = s.serial := rfl
@[simp] theorem State.setCore_hosts (s : State) (k : Nat) (x : Core) : (s.setCore k x).hosts = s.hosts := rfl
@[simp] theorem State.setCore_tenantCfg (s : State) (k : Nat) (x : Core) : (s.setCore k x).tenantCfg = s.tenantCfg := rfl
@[simp] theorem State.setCore_inlet (s : State) (k : Nat) (x : Core) : (s.setCore k x).inlet = s.inlet := rfl
@[simp] theorem State.setCore_outlet (s : State) (k : Nat) (x : Core) : (s.setCore k x).outlet = s.outlet := rfl
@[simp] theorem State.setCore_flow (s : State) (k : Nat) (x : Core) : (s.setCore k x).flow = s.flow := rfl
@[simp] theorem State.setCore_inPower (s : State) (k : Nat) (x : Core) : (s.setCore k x).inPower = s.inPower := rfl
@[simp] theorem State.setCore_ownPrefix (s : State) (k : Nat) (x : Core) : (s.setCore k x).ownPrefix = s.ownPrefix := rfl
@[simp] theorem State.setCore_out (s : State) (k : Nat) (x : Core) : (s.setCore k x).out = s.out := rfl
@[simp] theorem State.setCore_nextUid (s : State) (k : Nat) (x : Core) : (s.setCore k x).nextUid = s.nextUid := rfl
@[simp] theorem State.setCore_broken (s : State) (k : Nat) (x : Core) : (s.setCore k x).broken = s.broken := rfl
@[simp] theorem State.setCore_cur (s : State) (k : Nat) (x : Core) : (s.setCore k x).cur = s.cur := rfl
@[simp] theorem State.setCore_agenda (s : State) (k : Nat) (x : Core) : (s.setCore k x).agenda = s.agenda := rfl
@[simp] theorem State.setCore_free (s : State) (k : Nat) (x : Core) : (s.setCore k x).free = s.free := rfl

/-! ### setPier -/

@[simp] theorem State.setPier_mem (s : State) (p : Nat) (x : Pier) : (s.setPier p x).mem = s.mem := rfl
@[simp] theorem State.setPier_spad (s : State) (p : Nat) (x : Pier) : (s.setPier p x).spad = s.spad := rfl
@[simp] theorem State.setPier_granEmpty (s : State) (p : Nat) (x : Pier) : (s.setPier p x).granEmpty = s.granEmpty := rfl
@[simp] theorem State.setPier_truss (s : State) (p : Nat) (x : Pier) : (s.setPier p x).truss = s.truss := rfl
@[simp] theorem State.setPier_acc (s : State) (p : Nat) (x : Pier) : (s.setPier p x).acc = s.acc := rfl
@[simp] theorem State.setPier_norms (s : State) (p : Nat) (x : Pier) : (s.setPier p x).norms = s.norms := rfl
@[simp] theorem State.setPier_poison (s : State) (p : Nat) (x : Pier) : (s.setPier p x).poison = s.poison := rfl
@[simp] theorem State.setPier_ctxs (s : State) (p : Nat) (x : Pier) : (s.setPier p x).ctxs = s.ctxs := rfl
@[simp] theorem State.setPier_cores (s : State) (p : Nat) (x : Pier) : (s.setPier p x).cores = s.cores := rfl
@[simp] theorem State.setPier_decks (s : State) (p : Nat) (x : Pier) : (s.setPier p x).decks = s.decks := rfl
@[simp] theorem State.setPier_vdevs (s : State) (p : Nat) (x : Pier) : (s.setPier p x).vdevs = s.vdevs := rfl
@[simp] theorem State.setPier_jobs (s : State) (p : Nat) (x : Pier) : (s.setPier p x).jobs = s.jobs := rfl
@[simp] theorem State.setPier_launches (s : State) (p : Nat) (x : Pier) : (s.setPier p x).launches = s.launches := rfl
@[simp] theorem State.setPier_queues (s : State) (p : Nat) (x : Pier) : (s.setPier p x).queues = s.queues := rfl
@[simp] theorem State.setPier_counters (s : State) (p : Nat) (x : Pier) : (s.setPier p x).counters = s.counters := rfl
@[simp] theorem State.setPier_reuse (s : State) (p : Nat) (x : Pier) : (s.setPier p x).reuse = s.reuse := rfl
@[simp] theorem State.setPier_reuseClock (s : State) (p : Nat) (x : Pier) : (s.setPier p x).reuseClock = s.reuseClock := rfl
@[simp] theorem State.setPier_convs (s : State) (p : Nat) (x : Pier) : (s.setPier p x).convs = s.convs := rfl
@[simp] theorem State.setPier_walkers (s : State) (p : Nat) (x : Pier) : (s.setPier p x).walkers = s.walkers := rfl
@[simp] theorem State.setPier_stolen (s : State) (p : Nat) (x : Pier) : (s.setPier p x).stolen = s.stolen := rfl
@[simp] theorem State.setPier_mesh (s : State) (p : Nat) (x : Pier) : (s.setPier p x).mesh = s.mesh := rfl
@[simp] theorem State.setPier_ctrReqs (s : State) (p : Nat) (x : Pier) : (s.setPier p x).ctrReqs = s.ctrReqs := rfl
@[simp] theorem State.setPier_sliceFaults (s : State) (p : Nat) (x : Pier) : (s.setPier p x).sliceFaults = s.sliceFaults := rfl
@[simp] theorem State.setPier_notices (s : State) (p : Nat) (x : Pier) : (s.setPier p x).notices = s.notices := rfl
@[simp] theorem State.setPier_dying (s : State) (p : Nat) (x : Pier) : (s.setPier p x).dying = s.dying := rfl
@[simp] theorem State.setPier_taints (s : State) (p : Nat) (x : Pier) : (s.setPier p x).taints = s.taints := rfl
@[simp] theorem State.setPier_places (s : State) (p : Nat) (x : Pier) : (s.setPier p x).places = s.places := rfl
@[simp] theorem State.setPier_remote (s : State) (p : Nat) (x : Pier) : (s.setPier p x).remote = s.remote := rfl
@[simp] theorem State.setPier_arrived (s : State) (p : Nat) (x : Pier) : (s.setPier p x).arrived = s.arrived := rfl
@[simp] theorem State.setPier_seqs (s : State) (p : Nat) (x : Pier) : (s.setPier p x).seqs = s.seqs := rfl
@[simp] theorem State.setPier_streams (s : State) (p : Nat) (x : Pier) : (s.setPier p x).streams = s.streams := rfl
@[simp] theorem State.setPier_linksDown (s : State) (p : Nat) (x : Pier) : (s.setPier p x).linksDown = s.linksDown := rfl
@[simp] theorem State.setPier_badPaths (s : State) (p : Nat) (x : Pier) : (s.setPier p x).badPaths = s.badPaths := rfl
@[simp] theorem State.setPier_transfers (s : State) (p : Nat) (x : Pier) : (s.setPier p x).transfers = s.transfers := rfl
@[simp] theorem State.setPier_counts (s : State) (p : Nat) (x : Pier) : (s.setPier p x).counts = s.counts := rfl
@[simp] theorem State.setPier_shoots (s : State) (p : Nat) (x : Pier) : (s.setPier p x).shoots = s.shoots := rfl
@[simp] theorem State.setPier_preempts (s : State) (p : Nat) (x : Pier) : (s.setPier p x).preempts = s.preempts := rfl
@[simp] theorem State.setPier_advice (s : State) (p : Nat) (x : Pier) : (s.setPier p x).advice = s.advice := rfl
@[simp] theorem State.setPier_leaseReqs (s : State) (p : Nat) (x : Pier) : (s.setPier p x).leaseReqs = s.leaseReqs := rfl
@[simp] theorem State.setPier_accnts (s : State) (p : Nat) (x : Pier) : (s.setPier p x).accnts = s.accnts := rfl
@[simp] theorem State.setPier_frameJobs (s : State) (p : Nat) (x : Pier) : (s.setPier p x).frameJobs = s.frameJobs := rfl
@[simp] theorem State.setPier_relocs (s : State) (p : Nat) (x : Pier) : (s.setPier p x).relocs = s.relocs := rfl
@[simp] theorem State.setPier_images (s : State) (p : Nat) (x : Pier) : (s.setPier p x).images = s.images := rfl
@[simp] theorem State.setPier_dupRanges (s : State) (p : Nat) (x : Pier) : (s.setPier p x).dupRanges = s.dupRanges := rfl
@[simp] theorem State.setPier_collapses (s : State) (p : Nat) (x : Pier) : (s.setPier p x).collapses = s.collapses := rfl
@[simp] theorem State.setPier_collapseWaits (s : State) (p : Nat) (x : Pier) : (s.setPier p x).collapseWaits = s.collapseWaits := rfl
@[simp] theorem State.setPier_exchanges (s : State) (p : Nat) (x : Pier) : (s.setPier p x).exchanges = s.exchanges := rfl
@[simp] theorem State.setPier_hostPages (s : State) (p : Nat) (x : Pier) : (s.setPier p x).hostPages = s.hostPages := rfl
@[simp] theorem State.setPier_storage (s : State) (p : Nat) (x : Pier) : (s.setPier p x).storage = s.storage := rfl
@[simp] theorem State.setPier_rodFlows (s : State) (p : Nat) (x : Pier) : (s.setPier p x).rodFlows = s.rodFlows := rfl
@[simp] theorem State.setPier_boots (s : State) (p : Nat) (x : Pier) : (s.setPier p x).boots = s.boots := rfl
@[simp] theorem State.setPier_fuseVer (s : State) (p : Nat) (x : Pier) : (s.setPier p x).fuseVer = s.fuseVer := rfl
@[simp] theorem State.setPier_fuseKey (s : State) (p : Nat) (x : Pier) : (s.setPier p x).fuseKey = s.fuseKey := rfl
@[simp] theorem State.setPier_serial (s : State) (p : Nat) (x : Pier) : (s.setPier p x).serial = s.serial := rfl
@[simp] theorem State.setPier_hosts (s : State) (p : Nat) (x : Pier) : (s.setPier p x).hosts = s.hosts := rfl
@[simp] theorem State.setPier_tenantCfg (s : State) (p : Nat) (x : Pier) : (s.setPier p x).tenantCfg = s.tenantCfg := rfl
@[simp] theorem State.setPier_inlet (s : State) (p : Nat) (x : Pier) : (s.setPier p x).inlet = s.inlet := rfl
@[simp] theorem State.setPier_outlet (s : State) (p : Nat) (x : Pier) : (s.setPier p x).outlet = s.outlet := rfl
@[simp] theorem State.setPier_flow (s : State) (p : Nat) (x : Pier) : (s.setPier p x).flow = s.flow := rfl
@[simp] theorem State.setPier_inPower (s : State) (p : Nat) (x : Pier) : (s.setPier p x).inPower = s.inPower := rfl
@[simp] theorem State.setPier_ownPrefix (s : State) (p : Nat) (x : Pier) : (s.setPier p x).ownPrefix = s.ownPrefix := rfl
@[simp] theorem State.setPier_out (s : State) (p : Nat) (x : Pier) : (s.setPier p x).out = s.out := rfl
@[simp] theorem State.setPier_nextUid (s : State) (p : Nat) (x : Pier) : (s.setPier p x).nextUid = s.nextUid := rfl
@[simp] theorem State.setPier_broken (s : State) (p : Nat) (x : Pier) : (s.setPier p x).broken = s.broken := rfl
@[simp] theorem State.setPier_cur (s : State) (p : Nat) (x : Pier) : (s.setPier p x).cur = s.cur := rfl
@[simp] theorem State.setPier_agenda (s : State) (p : Nat) (x : Pier) : (s.setPier p x).agenda = s.agenda := rfl
@[simp] theorem State.setPier_free (s : State) (p : Nat) (x : Pier) : (s.setPier p x).free = s.free := rfl

/-! ### setDeck -/

@[simp] theorem State.setDeck_mem (s : State) (d : Nat) (x : Deck) : (s.setDeck d x).mem = s.mem := rfl
@[simp] theorem State.setDeck_spad (s : State) (d : Nat) (x : Deck) : (s.setDeck d x).spad = s.spad := rfl
@[simp] theorem State.setDeck_granEmpty (s : State) (d : Nat) (x : Deck) : (s.setDeck d x).granEmpty = s.granEmpty := rfl
@[simp] theorem State.setDeck_truss (s : State) (d : Nat) (x : Deck) : (s.setDeck d x).truss = s.truss := rfl
@[simp] theorem State.setDeck_acc (s : State) (d : Nat) (x : Deck) : (s.setDeck d x).acc = s.acc := rfl
@[simp] theorem State.setDeck_norms (s : State) (d : Nat) (x : Deck) : (s.setDeck d x).norms = s.norms := rfl
@[simp] theorem State.setDeck_poison (s : State) (d : Nat) (x : Deck) : (s.setDeck d x).poison = s.poison := rfl
@[simp] theorem State.setDeck_ctxs (s : State) (d : Nat) (x : Deck) : (s.setDeck d x).ctxs = s.ctxs := rfl
@[simp] theorem State.setDeck_cores (s : State) (d : Nat) (x : Deck) : (s.setDeck d x).cores = s.cores := rfl
@[simp] theorem State.setDeck_piers (s : State) (d : Nat) (x : Deck) : (s.setDeck d x).piers = s.piers := rfl
@[simp] theorem State.setDeck_vdevs (s : State) (d : Nat) (x : Deck) : (s.setDeck d x).vdevs = s.vdevs := rfl
@[simp] theorem State.setDeck_jobs (s : State) (d : Nat) (x : Deck) : (s.setDeck d x).jobs = s.jobs := rfl
@[simp] theorem State.setDeck_launches (s : State) (d : Nat) (x : Deck) : (s.setDeck d x).launches = s.launches := rfl
@[simp] theorem State.setDeck_queues (s : State) (d : Nat) (x : Deck) : (s.setDeck d x).queues = s.queues := rfl
@[simp] theorem State.setDeck_counters (s : State) (d : Nat) (x : Deck) : (s.setDeck d x).counters = s.counters := rfl
@[simp] theorem State.setDeck_reuse (s : State) (d : Nat) (x : Deck) : (s.setDeck d x).reuse = s.reuse := rfl
@[simp] theorem State.setDeck_reuseClock (s : State) (d : Nat) (x : Deck) : (s.setDeck d x).reuseClock = s.reuseClock := rfl
@[simp] theorem State.setDeck_convs (s : State) (d : Nat) (x : Deck) : (s.setDeck d x).convs = s.convs := rfl
@[simp] theorem State.setDeck_walkers (s : State) (d : Nat) (x : Deck) : (s.setDeck d x).walkers = s.walkers := rfl
@[simp] theorem State.setDeck_stolen (s : State) (d : Nat) (x : Deck) : (s.setDeck d x).stolen = s.stolen := rfl
@[simp] theorem State.setDeck_mesh (s : State) (d : Nat) (x : Deck) : (s.setDeck d x).mesh = s.mesh := rfl
@[simp] theorem State.setDeck_ctrReqs (s : State) (d : Nat) (x : Deck) : (s.setDeck d x).ctrReqs = s.ctrReqs := rfl
@[simp] theorem State.setDeck_sliceFaults (s : State) (d : Nat) (x : Deck) : (s.setDeck d x).sliceFaults = s.sliceFaults := rfl
@[simp] theorem State.setDeck_notices (s : State) (d : Nat) (x : Deck) : (s.setDeck d x).notices = s.notices := rfl
@[simp] theorem State.setDeck_dying (s : State) (d : Nat) (x : Deck) : (s.setDeck d x).dying = s.dying := rfl
@[simp] theorem State.setDeck_taints (s : State) (d : Nat) (x : Deck) : (s.setDeck d x).taints = s.taints := rfl
@[simp] theorem State.setDeck_places (s : State) (d : Nat) (x : Deck) : (s.setDeck d x).places = s.places := rfl
@[simp] theorem State.setDeck_remote (s : State) (d : Nat) (x : Deck) : (s.setDeck d x).remote = s.remote := rfl
@[simp] theorem State.setDeck_arrived (s : State) (d : Nat) (x : Deck) : (s.setDeck d x).arrived = s.arrived := rfl
@[simp] theorem State.setDeck_seqs (s : State) (d : Nat) (x : Deck) : (s.setDeck d x).seqs = s.seqs := rfl
@[simp] theorem State.setDeck_streams (s : State) (d : Nat) (x : Deck) : (s.setDeck d x).streams = s.streams := rfl
@[simp] theorem State.setDeck_linksDown (s : State) (d : Nat) (x : Deck) : (s.setDeck d x).linksDown = s.linksDown := rfl
@[simp] theorem State.setDeck_badPaths (s : State) (d : Nat) (x : Deck) : (s.setDeck d x).badPaths = s.badPaths := rfl
@[simp] theorem State.setDeck_transfers (s : State) (d : Nat) (x : Deck) : (s.setDeck d x).transfers = s.transfers := rfl
@[simp] theorem State.setDeck_counts (s : State) (d : Nat) (x : Deck) : (s.setDeck d x).counts = s.counts := rfl
@[simp] theorem State.setDeck_shoots (s : State) (d : Nat) (x : Deck) : (s.setDeck d x).shoots = s.shoots := rfl
@[simp] theorem State.setDeck_preempts (s : State) (d : Nat) (x : Deck) : (s.setDeck d x).preempts = s.preempts := rfl
@[simp] theorem State.setDeck_advice (s : State) (d : Nat) (x : Deck) : (s.setDeck d x).advice = s.advice := rfl
@[simp] theorem State.setDeck_leaseReqs (s : State) (d : Nat) (x : Deck) : (s.setDeck d x).leaseReqs = s.leaseReqs := rfl
@[simp] theorem State.setDeck_accnts (s : State) (d : Nat) (x : Deck) : (s.setDeck d x).accnts = s.accnts := rfl
@[simp] theorem State.setDeck_frameJobs (s : State) (d : Nat) (x : Deck) : (s.setDeck d x).frameJobs = s.frameJobs := rfl
@[simp] theorem State.setDeck_relocs (s : State) (d : Nat) (x : Deck) : (s.setDeck d x).relocs = s.relocs := rfl
@[simp] theorem State.setDeck_images (s : State) (d : Nat) (x : Deck) : (s.setDeck d x).images = s.images := rfl
@[simp] theorem State.setDeck_dupRanges (s : State) (d : Nat) (x : Deck) : (s.setDeck d x).dupRanges = s.dupRanges := rfl
@[simp] theorem State.setDeck_collapses (s : State) (d : Nat) (x : Deck) : (s.setDeck d x).collapses = s.collapses := rfl
@[simp] theorem State.setDeck_collapseWaits (s : State) (d : Nat) (x : Deck) : (s.setDeck d x).collapseWaits = s.collapseWaits := rfl
@[simp] theorem State.setDeck_exchanges (s : State) (d : Nat) (x : Deck) : (s.setDeck d x).exchanges = s.exchanges := rfl
@[simp] theorem State.setDeck_hostPages (s : State) (d : Nat) (x : Deck) : (s.setDeck d x).hostPages = s.hostPages := rfl
@[simp] theorem State.setDeck_storage (s : State) (d : Nat) (x : Deck) : (s.setDeck d x).storage = s.storage := rfl
@[simp] theorem State.setDeck_rodFlows (s : State) (d : Nat) (x : Deck) : (s.setDeck d x).rodFlows = s.rodFlows := rfl
@[simp] theorem State.setDeck_boots (s : State) (d : Nat) (x : Deck) : (s.setDeck d x).boots = s.boots := rfl
@[simp] theorem State.setDeck_fuseVer (s : State) (d : Nat) (x : Deck) : (s.setDeck d x).fuseVer = s.fuseVer := rfl
@[simp] theorem State.setDeck_fuseKey (s : State) (d : Nat) (x : Deck) : (s.setDeck d x).fuseKey = s.fuseKey := rfl
@[simp] theorem State.setDeck_serial (s : State) (d : Nat) (x : Deck) : (s.setDeck d x).serial = s.serial := rfl
@[simp] theorem State.setDeck_hosts (s : State) (d : Nat) (x : Deck) : (s.setDeck d x).hosts = s.hosts := rfl
@[simp] theorem State.setDeck_tenantCfg (s : State) (d : Nat) (x : Deck) : (s.setDeck d x).tenantCfg = s.tenantCfg := rfl
@[simp] theorem State.setDeck_inlet (s : State) (d : Nat) (x : Deck) : (s.setDeck d x).inlet = s.inlet := rfl
@[simp] theorem State.setDeck_outlet (s : State) (d : Nat) (x : Deck) : (s.setDeck d x).outlet = s.outlet := rfl
@[simp] theorem State.setDeck_flow (s : State) (d : Nat) (x : Deck) : (s.setDeck d x).flow = s.flow := rfl
@[simp] theorem State.setDeck_inPower (s : State) (d : Nat) (x : Deck) : (s.setDeck d x).inPower = s.inPower := rfl
@[simp] theorem State.setDeck_ownPrefix (s : State) (d : Nat) (x : Deck) : (s.setDeck d x).ownPrefix = s.ownPrefix := rfl
@[simp] theorem State.setDeck_out (s : State) (d : Nat) (x : Deck) : (s.setDeck d x).out = s.out := rfl
@[simp] theorem State.setDeck_nextUid (s : State) (d : Nat) (x : Deck) : (s.setDeck d x).nextUid = s.nextUid := rfl
@[simp] theorem State.setDeck_broken (s : State) (d : Nat) (x : Deck) : (s.setDeck d x).broken = s.broken := rfl
@[simp] theorem State.setDeck_cur (s : State) (d : Nat) (x : Deck) : (s.setDeck d x).cur = s.cur := rfl
@[simp] theorem State.setDeck_agenda (s : State) (d : Nat) (x : Deck) : (s.setDeck d x).agenda = s.agenda := rfl
@[simp] theorem State.setDeck_free (s : State) (d : Nat) (x : Deck) : (s.setDeck d x).free = s.free := rfl

/-! ### setVdev -/

@[simp] theorem State.setVdev_mem (s : State) (v : Nat) (x : VDev) : (s.setVdev v x).mem = s.mem := rfl
@[simp] theorem State.setVdev_spad (s : State) (v : Nat) (x : VDev) : (s.setVdev v x).spad = s.spad := rfl
@[simp] theorem State.setVdev_granEmpty (s : State) (v : Nat) (x : VDev) : (s.setVdev v x).granEmpty = s.granEmpty := rfl
@[simp] theorem State.setVdev_truss (s : State) (v : Nat) (x : VDev) : (s.setVdev v x).truss = s.truss := rfl
@[simp] theorem State.setVdev_acc (s : State) (v : Nat) (x : VDev) : (s.setVdev v x).acc = s.acc := rfl
@[simp] theorem State.setVdev_norms (s : State) (v : Nat) (x : VDev) : (s.setVdev v x).norms = s.norms := rfl
@[simp] theorem State.setVdev_poison (s : State) (v : Nat) (x : VDev) : (s.setVdev v x).poison = s.poison := rfl
@[simp] theorem State.setVdev_ctxs (s : State) (v : Nat) (x : VDev) : (s.setVdev v x).ctxs = s.ctxs := rfl
@[simp] theorem State.setVdev_cores (s : State) (v : Nat) (x : VDev) : (s.setVdev v x).cores = s.cores := rfl
@[simp] theorem State.setVdev_piers (s : State) (v : Nat) (x : VDev) : (s.setVdev v x).piers = s.piers := rfl
@[simp] theorem State.setVdev_decks (s : State) (v : Nat) (x : VDev) : (s.setVdev v x).decks = s.decks := rfl
@[simp] theorem State.setVdev_jobs (s : State) (v : Nat) (x : VDev) : (s.setVdev v x).jobs = s.jobs := rfl
@[simp] theorem State.setVdev_launches (s : State) (v : Nat) (x : VDev) : (s.setVdev v x).launches = s.launches := rfl
@[simp] theorem State.setVdev_queues (s : State) (v : Nat) (x : VDev) : (s.setVdev v x).queues = s.queues := rfl
@[simp] theorem State.setVdev_counters (s : State) (v : Nat) (x : VDev) : (s.setVdev v x).counters = s.counters := rfl
@[simp] theorem State.setVdev_reuse (s : State) (v : Nat) (x : VDev) : (s.setVdev v x).reuse = s.reuse := rfl
@[simp] theorem State.setVdev_reuseClock (s : State) (v : Nat) (x : VDev) : (s.setVdev v x).reuseClock = s.reuseClock := rfl
@[simp] theorem State.setVdev_convs (s : State) (v : Nat) (x : VDev) : (s.setVdev v x).convs = s.convs := rfl
@[simp] theorem State.setVdev_walkers (s : State) (v : Nat) (x : VDev) : (s.setVdev v x).walkers = s.walkers := rfl
@[simp] theorem State.setVdev_stolen (s : State) (v : Nat) (x : VDev) : (s.setVdev v x).stolen = s.stolen := rfl
@[simp] theorem State.setVdev_mesh (s : State) (v : Nat) (x : VDev) : (s.setVdev v x).mesh = s.mesh := rfl
@[simp] theorem State.setVdev_ctrReqs (s : State) (v : Nat) (x : VDev) : (s.setVdev v x).ctrReqs = s.ctrReqs := rfl
@[simp] theorem State.setVdev_sliceFaults (s : State) (v : Nat) (x : VDev) : (s.setVdev v x).sliceFaults = s.sliceFaults := rfl
@[simp] theorem State.setVdev_notices (s : State) (v : Nat) (x : VDev) : (s.setVdev v x).notices = s.notices := rfl
@[simp] theorem State.setVdev_dying (s : State) (v : Nat) (x : VDev) : (s.setVdev v x).dying = s.dying := rfl
@[simp] theorem State.setVdev_taints (s : State) (v : Nat) (x : VDev) : (s.setVdev v x).taints = s.taints := rfl
@[simp] theorem State.setVdev_places (s : State) (v : Nat) (x : VDev) : (s.setVdev v x).places = s.places := rfl
@[simp] theorem State.setVdev_remote (s : State) (v : Nat) (x : VDev) : (s.setVdev v x).remote = s.remote := rfl
@[simp] theorem State.setVdev_arrived (s : State) (v : Nat) (x : VDev) : (s.setVdev v x).arrived = s.arrived := rfl
@[simp] theorem State.setVdev_seqs (s : State) (v : Nat) (x : VDev) : (s.setVdev v x).seqs = s.seqs := rfl
@[simp] theorem State.setVdev_streams (s : State) (v : Nat) (x : VDev) : (s.setVdev v x).streams = s.streams := rfl
@[simp] theorem State.setVdev_linksDown (s : State) (v : Nat) (x : VDev) : (s.setVdev v x).linksDown = s.linksDown := rfl
@[simp] theorem State.setVdev_badPaths (s : State) (v : Nat) (x : VDev) : (s.setVdev v x).badPaths = s.badPaths := rfl
@[simp] theorem State.setVdev_transfers (s : State) (v : Nat) (x : VDev) : (s.setVdev v x).transfers = s.transfers := rfl
@[simp] theorem State.setVdev_counts (s : State) (v : Nat) (x : VDev) : (s.setVdev v x).counts = s.counts := rfl
@[simp] theorem State.setVdev_shoots (s : State) (v : Nat) (x : VDev) : (s.setVdev v x).shoots = s.shoots := rfl
@[simp] theorem State.setVdev_preempts (s : State) (v : Nat) (x : VDev) : (s.setVdev v x).preempts = s.preempts := rfl
@[simp] theorem State.setVdev_advice (s : State) (v : Nat) (x : VDev) : (s.setVdev v x).advice = s.advice := rfl
@[simp] theorem State.setVdev_leaseReqs (s : State) (v : Nat) (x : VDev) : (s.setVdev v x).leaseReqs = s.leaseReqs := rfl
@[simp] theorem State.setVdev_accnts (s : State) (v : Nat) (x : VDev) : (s.setVdev v x).accnts = s.accnts := rfl
@[simp] theorem State.setVdev_frameJobs (s : State) (v : Nat) (x : VDev) : (s.setVdev v x).frameJobs = s.frameJobs := rfl
@[simp] theorem State.setVdev_relocs (s : State) (v : Nat) (x : VDev) : (s.setVdev v x).relocs = s.relocs := rfl
@[simp] theorem State.setVdev_images (s : State) (v : Nat) (x : VDev) : (s.setVdev v x).images = s.images := rfl
@[simp] theorem State.setVdev_dupRanges (s : State) (v : Nat) (x : VDev) : (s.setVdev v x).dupRanges = s.dupRanges := rfl
@[simp] theorem State.setVdev_collapses (s : State) (v : Nat) (x : VDev) : (s.setVdev v x).collapses = s.collapses := rfl
@[simp] theorem State.setVdev_collapseWaits (s : State) (v : Nat) (x : VDev) : (s.setVdev v x).collapseWaits = s.collapseWaits := rfl
@[simp] theorem State.setVdev_exchanges (s : State) (v : Nat) (x : VDev) : (s.setVdev v x).exchanges = s.exchanges := rfl
@[simp] theorem State.setVdev_hostPages (s : State) (v : Nat) (x : VDev) : (s.setVdev v x).hostPages = s.hostPages := rfl
@[simp] theorem State.setVdev_storage (s : State) (v : Nat) (x : VDev) : (s.setVdev v x).storage = s.storage := rfl
@[simp] theorem State.setVdev_rodFlows (s : State) (v : Nat) (x : VDev) : (s.setVdev v x).rodFlows = s.rodFlows := rfl
@[simp] theorem State.setVdev_boots (s : State) (v : Nat) (x : VDev) : (s.setVdev v x).boots = s.boots := rfl
@[simp] theorem State.setVdev_fuseVer (s : State) (v : Nat) (x : VDev) : (s.setVdev v x).fuseVer = s.fuseVer := rfl
@[simp] theorem State.setVdev_fuseKey (s : State) (v : Nat) (x : VDev) : (s.setVdev v x).fuseKey = s.fuseKey := rfl
@[simp] theorem State.setVdev_serial (s : State) (v : Nat) (x : VDev) : (s.setVdev v x).serial = s.serial := rfl
@[simp] theorem State.setVdev_hosts (s : State) (v : Nat) (x : VDev) : (s.setVdev v x).hosts = s.hosts := rfl
@[simp] theorem State.setVdev_tenantCfg (s : State) (v : Nat) (x : VDev) : (s.setVdev v x).tenantCfg = s.tenantCfg := rfl
@[simp] theorem State.setVdev_inlet (s : State) (v : Nat) (x : VDev) : (s.setVdev v x).inlet = s.inlet := rfl
@[simp] theorem State.setVdev_outlet (s : State) (v : Nat) (x : VDev) : (s.setVdev v x).outlet = s.outlet := rfl
@[simp] theorem State.setVdev_flow (s : State) (v : Nat) (x : VDev) : (s.setVdev v x).flow = s.flow := rfl
@[simp] theorem State.setVdev_inPower (s : State) (v : Nat) (x : VDev) : (s.setVdev v x).inPower = s.inPower := rfl
@[simp] theorem State.setVdev_ownPrefix (s : State) (v : Nat) (x : VDev) : (s.setVdev v x).ownPrefix = s.ownPrefix := rfl
@[simp] theorem State.setVdev_out (s : State) (v : Nat) (x : VDev) : (s.setVdev v x).out = s.out := rfl
@[simp] theorem State.setVdev_nextUid (s : State) (v : Nat) (x : VDev) : (s.setVdev v x).nextUid = s.nextUid := rfl
@[simp] theorem State.setVdev_broken (s : State) (v : Nat) (x : VDev) : (s.setVdev v x).broken = s.broken := rfl
@[simp] theorem State.setVdev_cur (s : State) (v : Nat) (x : VDev) : (s.setVdev v x).cur = s.cur := rfl
@[simp] theorem State.setVdev_agenda (s : State) (v : Nat) (x : VDev) : (s.setVdev v x).agenda = s.agenda := rfl
@[simp] theorem State.setVdev_free (s : State) (v : Nat) (x : VDev) : (s.setVdev v x).free = s.free := rfl

/-! ### setJob -/

@[simp] theorem State.setJob_mem (s : State) (j : Nat) (x : JobRec) : (s.setJob j x).mem = s.mem := rfl
@[simp] theorem State.setJob_spad (s : State) (j : Nat) (x : JobRec) : (s.setJob j x).spad = s.spad := rfl
@[simp] theorem State.setJob_granEmpty (s : State) (j : Nat) (x : JobRec) : (s.setJob j x).granEmpty = s.granEmpty := rfl
@[simp] theorem State.setJob_truss (s : State) (j : Nat) (x : JobRec) : (s.setJob j x).truss = s.truss := rfl
@[simp] theorem State.setJob_acc (s : State) (j : Nat) (x : JobRec) : (s.setJob j x).acc = s.acc := rfl
@[simp] theorem State.setJob_norms (s : State) (j : Nat) (x : JobRec) : (s.setJob j x).norms = s.norms := rfl
@[simp] theorem State.setJob_poison (s : State) (j : Nat) (x : JobRec) : (s.setJob j x).poison = s.poison := rfl
@[simp] theorem State.setJob_ctxs (s : State) (j : Nat) (x : JobRec) : (s.setJob j x).ctxs = s.ctxs := rfl
@[simp] theorem State.setJob_cores (s : State) (j : Nat) (x : JobRec) : (s.setJob j x).cores = s.cores := rfl
@[simp] theorem State.setJob_piers (s : State) (j : Nat) (x : JobRec) : (s.setJob j x).piers = s.piers := rfl
@[simp] theorem State.setJob_decks (s : State) (j : Nat) (x : JobRec) : (s.setJob j x).decks = s.decks := rfl
@[simp] theorem State.setJob_vdevs (s : State) (j : Nat) (x : JobRec) : (s.setJob j x).vdevs = s.vdevs := rfl
@[simp] theorem State.setJob_launches (s : State) (j : Nat) (x : JobRec) : (s.setJob j x).launches = s.launches := rfl
@[simp] theorem State.setJob_queues (s : State) (j : Nat) (x : JobRec) : (s.setJob j x).queues = s.queues := rfl
@[simp] theorem State.setJob_counters (s : State) (j : Nat) (x : JobRec) : (s.setJob j x).counters = s.counters := rfl
@[simp] theorem State.setJob_reuse (s : State) (j : Nat) (x : JobRec) : (s.setJob j x).reuse = s.reuse := rfl
@[simp] theorem State.setJob_reuseClock (s : State) (j : Nat) (x : JobRec) : (s.setJob j x).reuseClock = s.reuseClock := rfl
@[simp] theorem State.setJob_convs (s : State) (j : Nat) (x : JobRec) : (s.setJob j x).convs = s.convs := rfl
@[simp] theorem State.setJob_walkers (s : State) (j : Nat) (x : JobRec) : (s.setJob j x).walkers = s.walkers := rfl
@[simp] theorem State.setJob_stolen (s : State) (j : Nat) (x : JobRec) : (s.setJob j x).stolen = s.stolen := rfl
@[simp] theorem State.setJob_mesh (s : State) (j : Nat) (x : JobRec) : (s.setJob j x).mesh = s.mesh := rfl
@[simp] theorem State.setJob_ctrReqs (s : State) (j : Nat) (x : JobRec) : (s.setJob j x).ctrReqs = s.ctrReqs := rfl
@[simp] theorem State.setJob_sliceFaults (s : State) (j : Nat) (x : JobRec) : (s.setJob j x).sliceFaults = s.sliceFaults := rfl
@[simp] theorem State.setJob_notices (s : State) (j : Nat) (x : JobRec) : (s.setJob j x).notices = s.notices := rfl
@[simp] theorem State.setJob_dying (s : State) (j : Nat) (x : JobRec) : (s.setJob j x).dying = s.dying := rfl
@[simp] theorem State.setJob_taints (s : State) (j : Nat) (x : JobRec) : (s.setJob j x).taints = s.taints := rfl
@[simp] theorem State.setJob_places (s : State) (j : Nat) (x : JobRec) : (s.setJob j x).places = s.places := rfl
@[simp] theorem State.setJob_remote (s : State) (j : Nat) (x : JobRec) : (s.setJob j x).remote = s.remote := rfl
@[simp] theorem State.setJob_arrived (s : State) (j : Nat) (x : JobRec) : (s.setJob j x).arrived = s.arrived := rfl
@[simp] theorem State.setJob_seqs (s : State) (j : Nat) (x : JobRec) : (s.setJob j x).seqs = s.seqs := rfl
@[simp] theorem State.setJob_streams (s : State) (j : Nat) (x : JobRec) : (s.setJob j x).streams = s.streams := rfl
@[simp] theorem State.setJob_linksDown (s : State) (j : Nat) (x : JobRec) : (s.setJob j x).linksDown = s.linksDown := rfl
@[simp] theorem State.setJob_badPaths (s : State) (j : Nat) (x : JobRec) : (s.setJob j x).badPaths = s.badPaths := rfl
@[simp] theorem State.setJob_transfers (s : State) (j : Nat) (x : JobRec) : (s.setJob j x).transfers = s.transfers := rfl
@[simp] theorem State.setJob_counts (s : State) (j : Nat) (x : JobRec) : (s.setJob j x).counts = s.counts := rfl
@[simp] theorem State.setJob_shoots (s : State) (j : Nat) (x : JobRec) : (s.setJob j x).shoots = s.shoots := rfl
@[simp] theorem State.setJob_preempts (s : State) (j : Nat) (x : JobRec) : (s.setJob j x).preempts = s.preempts := rfl
@[simp] theorem State.setJob_advice (s : State) (j : Nat) (x : JobRec) : (s.setJob j x).advice = s.advice := rfl
@[simp] theorem State.setJob_leaseReqs (s : State) (j : Nat) (x : JobRec) : (s.setJob j x).leaseReqs = s.leaseReqs := rfl
@[simp] theorem State.setJob_accnts (s : State) (j : Nat) (x : JobRec) : (s.setJob j x).accnts = s.accnts := rfl
@[simp] theorem State.setJob_frameJobs (s : State) (j : Nat) (x : JobRec) : (s.setJob j x).frameJobs = s.frameJobs := rfl
@[simp] theorem State.setJob_relocs (s : State) (j : Nat) (x : JobRec) : (s.setJob j x).relocs = s.relocs := rfl
@[simp] theorem State.setJob_images (s : State) (j : Nat) (x : JobRec) : (s.setJob j x).images = s.images := rfl
@[simp] theorem State.setJob_dupRanges (s : State) (j : Nat) (x : JobRec) : (s.setJob j x).dupRanges = s.dupRanges := rfl
@[simp] theorem State.setJob_collapses (s : State) (j : Nat) (x : JobRec) : (s.setJob j x).collapses = s.collapses := rfl
@[simp] theorem State.setJob_collapseWaits (s : State) (j : Nat) (x : JobRec) : (s.setJob j x).collapseWaits = s.collapseWaits := rfl
@[simp] theorem State.setJob_exchanges (s : State) (j : Nat) (x : JobRec) : (s.setJob j x).exchanges = s.exchanges := rfl
@[simp] theorem State.setJob_hostPages (s : State) (j : Nat) (x : JobRec) : (s.setJob j x).hostPages = s.hostPages := rfl
@[simp] theorem State.setJob_storage (s : State) (j : Nat) (x : JobRec) : (s.setJob j x).storage = s.storage := rfl
@[simp] theorem State.setJob_rodFlows (s : State) (j : Nat) (x : JobRec) : (s.setJob j x).rodFlows = s.rodFlows := rfl
@[simp] theorem State.setJob_boots (s : State) (j : Nat) (x : JobRec) : (s.setJob j x).boots = s.boots := rfl
@[simp] theorem State.setJob_fuseVer (s : State) (j : Nat) (x : JobRec) : (s.setJob j x).fuseVer = s.fuseVer := rfl
@[simp] theorem State.setJob_fuseKey (s : State) (j : Nat) (x : JobRec) : (s.setJob j x).fuseKey = s.fuseKey := rfl
@[simp] theorem State.setJob_serial (s : State) (j : Nat) (x : JobRec) : (s.setJob j x).serial = s.serial := rfl
@[simp] theorem State.setJob_hosts (s : State) (j : Nat) (x : JobRec) : (s.setJob j x).hosts = s.hosts := rfl
@[simp] theorem State.setJob_tenantCfg (s : State) (j : Nat) (x : JobRec) : (s.setJob j x).tenantCfg = s.tenantCfg := rfl
@[simp] theorem State.setJob_inlet (s : State) (j : Nat) (x : JobRec) : (s.setJob j x).inlet = s.inlet := rfl
@[simp] theorem State.setJob_outlet (s : State) (j : Nat) (x : JobRec) : (s.setJob j x).outlet = s.outlet := rfl
@[simp] theorem State.setJob_flow (s : State) (j : Nat) (x : JobRec) : (s.setJob j x).flow = s.flow := rfl
@[simp] theorem State.setJob_inPower (s : State) (j : Nat) (x : JobRec) : (s.setJob j x).inPower = s.inPower := rfl
@[simp] theorem State.setJob_ownPrefix (s : State) (j : Nat) (x : JobRec) : (s.setJob j x).ownPrefix = s.ownPrefix := rfl
@[simp] theorem State.setJob_out (s : State) (j : Nat) (x : JobRec) : (s.setJob j x).out = s.out := rfl
@[simp] theorem State.setJob_nextUid (s : State) (j : Nat) (x : JobRec) : (s.setJob j x).nextUid = s.nextUid := rfl
@[simp] theorem State.setJob_broken (s : State) (j : Nat) (x : JobRec) : (s.setJob j x).broken = s.broken := rfl
@[simp] theorem State.setJob_cur (s : State) (j : Nat) (x : JobRec) : (s.setJob j x).cur = s.cur := rfl
@[simp] theorem State.setJob_agenda (s : State) (j : Nat) (x : JobRec) : (s.setJob j x).agenda = s.agenda := rfl
@[simp] theorem State.setJob_free (s : State) (j : Nat) (x : JobRec) : (s.setJob j x).free = s.free := rfl

/-! ### setLaunch -/

@[simp] theorem State.setLaunch_mem (s : State) (l : Nat) (x : Launch) : (s.setLaunch l x).mem = s.mem := rfl
@[simp] theorem State.setLaunch_spad (s : State) (l : Nat) (x : Launch) : (s.setLaunch l x).spad = s.spad := rfl
@[simp] theorem State.setLaunch_granEmpty (s : State) (l : Nat) (x : Launch) : (s.setLaunch l x).granEmpty = s.granEmpty := rfl
@[simp] theorem State.setLaunch_truss (s : State) (l : Nat) (x : Launch) : (s.setLaunch l x).truss = s.truss := rfl
@[simp] theorem State.setLaunch_acc (s : State) (l : Nat) (x : Launch) : (s.setLaunch l x).acc = s.acc := rfl
@[simp] theorem State.setLaunch_norms (s : State) (l : Nat) (x : Launch) : (s.setLaunch l x).norms = s.norms := rfl
@[simp] theorem State.setLaunch_poison (s : State) (l : Nat) (x : Launch) : (s.setLaunch l x).poison = s.poison := rfl
@[simp] theorem State.setLaunch_ctxs (s : State) (l : Nat) (x : Launch) : (s.setLaunch l x).ctxs = s.ctxs := rfl
@[simp] theorem State.setLaunch_cores (s : State) (l : Nat) (x : Launch) : (s.setLaunch l x).cores = s.cores := rfl
@[simp] theorem State.setLaunch_piers (s : State) (l : Nat) (x : Launch) : (s.setLaunch l x).piers = s.piers := rfl
@[simp] theorem State.setLaunch_decks (s : State) (l : Nat) (x : Launch) : (s.setLaunch l x).decks = s.decks := rfl
@[simp] theorem State.setLaunch_vdevs (s : State) (l : Nat) (x : Launch) : (s.setLaunch l x).vdevs = s.vdevs := rfl
@[simp] theorem State.setLaunch_jobs (s : State) (l : Nat) (x : Launch) : (s.setLaunch l x).jobs = s.jobs := rfl
@[simp] theorem State.setLaunch_queues (s : State) (l : Nat) (x : Launch) : (s.setLaunch l x).queues = s.queues := rfl
@[simp] theorem State.setLaunch_counters (s : State) (l : Nat) (x : Launch) : (s.setLaunch l x).counters = s.counters := rfl
@[simp] theorem State.setLaunch_reuse (s : State) (l : Nat) (x : Launch) : (s.setLaunch l x).reuse = s.reuse := rfl
@[simp] theorem State.setLaunch_reuseClock (s : State) (l : Nat) (x : Launch) : (s.setLaunch l x).reuseClock = s.reuseClock := rfl
@[simp] theorem State.setLaunch_convs (s : State) (l : Nat) (x : Launch) : (s.setLaunch l x).convs = s.convs := rfl
@[simp] theorem State.setLaunch_walkers (s : State) (l : Nat) (x : Launch) : (s.setLaunch l x).walkers = s.walkers := rfl
@[simp] theorem State.setLaunch_stolen (s : State) (l : Nat) (x : Launch) : (s.setLaunch l x).stolen = s.stolen := rfl
@[simp] theorem State.setLaunch_mesh (s : State) (l : Nat) (x : Launch) : (s.setLaunch l x).mesh = s.mesh := rfl
@[simp] theorem State.setLaunch_ctrReqs (s : State) (l : Nat) (x : Launch) : (s.setLaunch l x).ctrReqs = s.ctrReqs := rfl
@[simp] theorem State.setLaunch_sliceFaults (s : State) (l : Nat) (x : Launch) : (s.setLaunch l x).sliceFaults = s.sliceFaults := rfl
@[simp] theorem State.setLaunch_notices (s : State) (l : Nat) (x : Launch) : (s.setLaunch l x).notices = s.notices := rfl
@[simp] theorem State.setLaunch_dying (s : State) (l : Nat) (x : Launch) : (s.setLaunch l x).dying = s.dying := rfl
@[simp] theorem State.setLaunch_taints (s : State) (l : Nat) (x : Launch) : (s.setLaunch l x).taints = s.taints := rfl
@[simp] theorem State.setLaunch_places (s : State) (l : Nat) (x : Launch) : (s.setLaunch l x).places = s.places := rfl
@[simp] theorem State.setLaunch_remote (s : State) (l : Nat) (x : Launch) : (s.setLaunch l x).remote = s.remote := rfl
@[simp] theorem State.setLaunch_arrived (s : State) (l : Nat) (x : Launch) : (s.setLaunch l x).arrived = s.arrived := rfl
@[simp] theorem State.setLaunch_seqs (s : State) (l : Nat) (x : Launch) : (s.setLaunch l x).seqs = s.seqs := rfl
@[simp] theorem State.setLaunch_streams (s : State) (l : Nat) (x : Launch) : (s.setLaunch l x).streams = s.streams := rfl
@[simp] theorem State.setLaunch_linksDown (s : State) (l : Nat) (x : Launch) : (s.setLaunch l x).linksDown = s.linksDown := rfl
@[simp] theorem State.setLaunch_badPaths (s : State) (l : Nat) (x : Launch) : (s.setLaunch l x).badPaths = s.badPaths := rfl
@[simp] theorem State.setLaunch_transfers (s : State) (l : Nat) (x : Launch) : (s.setLaunch l x).transfers = s.transfers := rfl
@[simp] theorem State.setLaunch_counts (s : State) (l : Nat) (x : Launch) : (s.setLaunch l x).counts = s.counts := rfl
@[simp] theorem State.setLaunch_shoots (s : State) (l : Nat) (x : Launch) : (s.setLaunch l x).shoots = s.shoots := rfl
@[simp] theorem State.setLaunch_preempts (s : State) (l : Nat) (x : Launch) : (s.setLaunch l x).preempts = s.preempts := rfl
@[simp] theorem State.setLaunch_advice (s : State) (l : Nat) (x : Launch) : (s.setLaunch l x).advice = s.advice := rfl
@[simp] theorem State.setLaunch_leaseReqs (s : State) (l : Nat) (x : Launch) : (s.setLaunch l x).leaseReqs = s.leaseReqs := rfl
@[simp] theorem State.setLaunch_accnts (s : State) (l : Nat) (x : Launch) : (s.setLaunch l x).accnts = s.accnts := rfl
@[simp] theorem State.setLaunch_frameJobs (s : State) (l : Nat) (x : Launch) : (s.setLaunch l x).frameJobs = s.frameJobs := rfl
@[simp] theorem State.setLaunch_relocs (s : State) (l : Nat) (x : Launch) : (s.setLaunch l x).relocs = s.relocs := rfl
@[simp] theorem State.setLaunch_images (s : State) (l : Nat) (x : Launch) : (s.setLaunch l x).images = s.images := rfl
@[simp] theorem State.setLaunch_dupRanges (s : State) (l : Nat) (x : Launch) : (s.setLaunch l x).dupRanges = s.dupRanges := rfl
@[simp] theorem State.setLaunch_collapses (s : State) (l : Nat) (x : Launch) : (s.setLaunch l x).collapses = s.collapses := rfl
@[simp] theorem State.setLaunch_collapseWaits (s : State) (l : Nat) (x : Launch) : (s.setLaunch l x).collapseWaits = s.collapseWaits := rfl
@[simp] theorem State.setLaunch_exchanges (s : State) (l : Nat) (x : Launch) : (s.setLaunch l x).exchanges = s.exchanges := rfl
@[simp] theorem State.setLaunch_hostPages (s : State) (l : Nat) (x : Launch) : (s.setLaunch l x).hostPages = s.hostPages := rfl
@[simp] theorem State.setLaunch_storage (s : State) (l : Nat) (x : Launch) : (s.setLaunch l x).storage = s.storage := rfl
@[simp] theorem State.setLaunch_rodFlows (s : State) (l : Nat) (x : Launch) : (s.setLaunch l x).rodFlows = s.rodFlows := rfl
@[simp] theorem State.setLaunch_boots (s : State) (l : Nat) (x : Launch) : (s.setLaunch l x).boots = s.boots := rfl
@[simp] theorem State.setLaunch_fuseVer (s : State) (l : Nat) (x : Launch) : (s.setLaunch l x).fuseVer = s.fuseVer := rfl
@[simp] theorem State.setLaunch_fuseKey (s : State) (l : Nat) (x : Launch) : (s.setLaunch l x).fuseKey = s.fuseKey := rfl
@[simp] theorem State.setLaunch_serial (s : State) (l : Nat) (x : Launch) : (s.setLaunch l x).serial = s.serial := rfl
@[simp] theorem State.setLaunch_hosts (s : State) (l : Nat) (x : Launch) : (s.setLaunch l x).hosts = s.hosts := rfl
@[simp] theorem State.setLaunch_tenantCfg (s : State) (l : Nat) (x : Launch) : (s.setLaunch l x).tenantCfg = s.tenantCfg := rfl
@[simp] theorem State.setLaunch_inlet (s : State) (l : Nat) (x : Launch) : (s.setLaunch l x).inlet = s.inlet := rfl
@[simp] theorem State.setLaunch_outlet (s : State) (l : Nat) (x : Launch) : (s.setLaunch l x).outlet = s.outlet := rfl
@[simp] theorem State.setLaunch_flow (s : State) (l : Nat) (x : Launch) : (s.setLaunch l x).flow = s.flow := rfl
@[simp] theorem State.setLaunch_inPower (s : State) (l : Nat) (x : Launch) : (s.setLaunch l x).inPower = s.inPower := rfl
@[simp] theorem State.setLaunch_ownPrefix (s : State) (l : Nat) (x : Launch) : (s.setLaunch l x).ownPrefix = s.ownPrefix := rfl
@[simp] theorem State.setLaunch_out (s : State) (l : Nat) (x : Launch) : (s.setLaunch l x).out = s.out := rfl
@[simp] theorem State.setLaunch_nextUid (s : State) (l : Nat) (x : Launch) : (s.setLaunch l x).nextUid = s.nextUid := rfl
@[simp] theorem State.setLaunch_broken (s : State) (l : Nat) (x : Launch) : (s.setLaunch l x).broken = s.broken := rfl
@[simp] theorem State.setLaunch_cur (s : State) (l : Nat) (x : Launch) : (s.setLaunch l x).cur = s.cur := rfl
@[simp] theorem State.setLaunch_agenda (s : State) (l : Nat) (x : Launch) : (s.setLaunch l x).agenda = s.agenda := rfl
@[simp] theorem State.setLaunch_free (s : State) (l : Nat) (x : Launch) : (s.setLaunch l x).free = s.free := rfl

/-! ### setQueue -/

@[simp] theorem State.setQueue_mem (s : State) (q : Nat) (x : Queue) : (s.setQueue q x).mem = s.mem := rfl
@[simp] theorem State.setQueue_spad (s : State) (q : Nat) (x : Queue) : (s.setQueue q x).spad = s.spad := rfl
@[simp] theorem State.setQueue_granEmpty (s : State) (q : Nat) (x : Queue) : (s.setQueue q x).granEmpty = s.granEmpty := rfl
@[simp] theorem State.setQueue_truss (s : State) (q : Nat) (x : Queue) : (s.setQueue q x).truss = s.truss := rfl
@[simp] theorem State.setQueue_acc (s : State) (q : Nat) (x : Queue) : (s.setQueue q x).acc = s.acc := rfl
@[simp] theorem State.setQueue_norms (s : State) (q : Nat) (x : Queue) : (s.setQueue q x).norms = s.norms := rfl
@[simp] theorem State.setQueue_poison (s : State) (q : Nat) (x : Queue) : (s.setQueue q x).poison = s.poison := rfl
@[simp] theorem State.setQueue_ctxs (s : State) (q : Nat) (x : Queue) : (s.setQueue q x).ctxs = s.ctxs := rfl
@[simp] theorem State.setQueue_cores (s : State) (q : Nat) (x : Queue) : (s.setQueue q x).cores = s.cores := rfl
@[simp] theorem State.setQueue_piers (s : State) (q : Nat) (x : Queue) : (s.setQueue q x).piers = s.piers := rfl
@[simp] theorem State.setQueue_decks (s : State) (q : Nat) (x : Queue) : (s.setQueue q x).decks = s.decks := rfl
@[simp] theorem State.setQueue_vdevs (s : State) (q : Nat) (x : Queue) : (s.setQueue q x).vdevs = s.vdevs := rfl
@[simp] theorem State.setQueue_jobs (s : State) (q : Nat) (x : Queue) : (s.setQueue q x).jobs = s.jobs := rfl
@[simp] theorem State.setQueue_launches (s : State) (q : Nat) (x : Queue) : (s.setQueue q x).launches = s.launches := rfl
@[simp] theorem State.setQueue_counters (s : State) (q : Nat) (x : Queue) : (s.setQueue q x).counters = s.counters := rfl
@[simp] theorem State.setQueue_reuse (s : State) (q : Nat) (x : Queue) : (s.setQueue q x).reuse = s.reuse := rfl
@[simp] theorem State.setQueue_reuseClock (s : State) (q : Nat) (x : Queue) : (s.setQueue q x).reuseClock = s.reuseClock := rfl
@[simp] theorem State.setQueue_convs (s : State) (q : Nat) (x : Queue) : (s.setQueue q x).convs = s.convs := rfl
@[simp] theorem State.setQueue_walkers (s : State) (q : Nat) (x : Queue) : (s.setQueue q x).walkers = s.walkers := rfl
@[simp] theorem State.setQueue_stolen (s : State) (q : Nat) (x : Queue) : (s.setQueue q x).stolen = s.stolen := rfl
@[simp] theorem State.setQueue_mesh (s : State) (q : Nat) (x : Queue) : (s.setQueue q x).mesh = s.mesh := rfl
@[simp] theorem State.setQueue_ctrReqs (s : State) (q : Nat) (x : Queue) : (s.setQueue q x).ctrReqs = s.ctrReqs := rfl
@[simp] theorem State.setQueue_sliceFaults (s : State) (q : Nat) (x : Queue) : (s.setQueue q x).sliceFaults = s.sliceFaults := rfl
@[simp] theorem State.setQueue_notices (s : State) (q : Nat) (x : Queue) : (s.setQueue q x).notices = s.notices := rfl
@[simp] theorem State.setQueue_dying (s : State) (q : Nat) (x : Queue) : (s.setQueue q x).dying = s.dying := rfl
@[simp] theorem State.setQueue_taints (s : State) (q : Nat) (x : Queue) : (s.setQueue q x).taints = s.taints := rfl
@[simp] theorem State.setQueue_places (s : State) (q : Nat) (x : Queue) : (s.setQueue q x).places = s.places := rfl
@[simp] theorem State.setQueue_remote (s : State) (q : Nat) (x : Queue) : (s.setQueue q x).remote = s.remote := rfl
@[simp] theorem State.setQueue_arrived (s : State) (q : Nat) (x : Queue) : (s.setQueue q x).arrived = s.arrived := rfl
@[simp] theorem State.setQueue_seqs (s : State) (q : Nat) (x : Queue) : (s.setQueue q x).seqs = s.seqs := rfl
@[simp] theorem State.setQueue_streams (s : State) (q : Nat) (x : Queue) : (s.setQueue q x).streams = s.streams := rfl
@[simp] theorem State.setQueue_linksDown (s : State) (q : Nat) (x : Queue) : (s.setQueue q x).linksDown = s.linksDown := rfl
@[simp] theorem State.setQueue_badPaths (s : State) (q : Nat) (x : Queue) : (s.setQueue q x).badPaths = s.badPaths := rfl
@[simp] theorem State.setQueue_transfers (s : State) (q : Nat) (x : Queue) : (s.setQueue q x).transfers = s.transfers := rfl
@[simp] theorem State.setQueue_counts (s : State) (q : Nat) (x : Queue) : (s.setQueue q x).counts = s.counts := rfl
@[simp] theorem State.setQueue_shoots (s : State) (q : Nat) (x : Queue) : (s.setQueue q x).shoots = s.shoots := rfl
@[simp] theorem State.setQueue_preempts (s : State) (q : Nat) (x : Queue) : (s.setQueue q x).preempts = s.preempts := rfl
@[simp] theorem State.setQueue_advice (s : State) (q : Nat) (x : Queue) : (s.setQueue q x).advice = s.advice := rfl
@[simp] theorem State.setQueue_leaseReqs (s : State) (q : Nat) (x : Queue) : (s.setQueue q x).leaseReqs = s.leaseReqs := rfl
@[simp] theorem State.setQueue_accnts (s : State) (q : Nat) (x : Queue) : (s.setQueue q x).accnts = s.accnts := rfl
@[simp] theorem State.setQueue_frameJobs (s : State) (q : Nat) (x : Queue) : (s.setQueue q x).frameJobs = s.frameJobs := rfl
@[simp] theorem State.setQueue_relocs (s : State) (q : Nat) (x : Queue) : (s.setQueue q x).relocs = s.relocs := rfl
@[simp] theorem State.setQueue_images (s : State) (q : Nat) (x : Queue) : (s.setQueue q x).images = s.images := rfl
@[simp] theorem State.setQueue_dupRanges (s : State) (q : Nat) (x : Queue) : (s.setQueue q x).dupRanges = s.dupRanges := rfl
@[simp] theorem State.setQueue_collapses (s : State) (q : Nat) (x : Queue) : (s.setQueue q x).collapses = s.collapses := rfl
@[simp] theorem State.setQueue_collapseWaits (s : State) (q : Nat) (x : Queue) : (s.setQueue q x).collapseWaits = s.collapseWaits := rfl
@[simp] theorem State.setQueue_exchanges (s : State) (q : Nat) (x : Queue) : (s.setQueue q x).exchanges = s.exchanges := rfl
@[simp] theorem State.setQueue_hostPages (s : State) (q : Nat) (x : Queue) : (s.setQueue q x).hostPages = s.hostPages := rfl
@[simp] theorem State.setQueue_storage (s : State) (q : Nat) (x : Queue) : (s.setQueue q x).storage = s.storage := rfl
@[simp] theorem State.setQueue_rodFlows (s : State) (q : Nat) (x : Queue) : (s.setQueue q x).rodFlows = s.rodFlows := rfl
@[simp] theorem State.setQueue_boots (s : State) (q : Nat) (x : Queue) : (s.setQueue q x).boots = s.boots := rfl
@[simp] theorem State.setQueue_fuseVer (s : State) (q : Nat) (x : Queue) : (s.setQueue q x).fuseVer = s.fuseVer := rfl
@[simp] theorem State.setQueue_fuseKey (s : State) (q : Nat) (x : Queue) : (s.setQueue q x).fuseKey = s.fuseKey := rfl
@[simp] theorem State.setQueue_serial (s : State) (q : Nat) (x : Queue) : (s.setQueue q x).serial = s.serial := rfl
@[simp] theorem State.setQueue_hosts (s : State) (q : Nat) (x : Queue) : (s.setQueue q x).hosts = s.hosts := rfl
@[simp] theorem State.setQueue_tenantCfg (s : State) (q : Nat) (x : Queue) : (s.setQueue q x).tenantCfg = s.tenantCfg := rfl
@[simp] theorem State.setQueue_inlet (s : State) (q : Nat) (x : Queue) : (s.setQueue q x).inlet = s.inlet := rfl
@[simp] theorem State.setQueue_outlet (s : State) (q : Nat) (x : Queue) : (s.setQueue q x).outlet = s.outlet := rfl
@[simp] theorem State.setQueue_flow (s : State) (q : Nat) (x : Queue) : (s.setQueue q x).flow = s.flow := rfl
@[simp] theorem State.setQueue_inPower (s : State) (q : Nat) (x : Queue) : (s.setQueue q x).inPower = s.inPower := rfl
@[simp] theorem State.setQueue_ownPrefix (s : State) (q : Nat) (x : Queue) : (s.setQueue q x).ownPrefix = s.ownPrefix := rfl
@[simp] theorem State.setQueue_out (s : State) (q : Nat) (x : Queue) : (s.setQueue q x).out = s.out := rfl
@[simp] theorem State.setQueue_nextUid (s : State) (q : Nat) (x : Queue) : (s.setQueue q x).nextUid = s.nextUid := rfl
@[simp] theorem State.setQueue_broken (s : State) (q : Nat) (x : Queue) : (s.setQueue q x).broken = s.broken := rfl
@[simp] theorem State.setQueue_cur (s : State) (q : Nat) (x : Queue) : (s.setQueue q x).cur = s.cur := rfl
@[simp] theorem State.setQueue_agenda (s : State) (q : Nat) (x : Queue) : (s.setQueue q x).agenda = s.agenda := rfl
@[simp] theorem State.setQueue_free (s : State) (q : Nat) (x : Queue) : (s.setQueue q x).free = s.free := rfl

/-! ### takeFree -/

@[simp] theorem State.takeFree_mem (s : State) : (s.takeFree).mem = s.mem := rfl
@[simp] theorem State.takeFree_spad (s : State) : (s.takeFree).spad = s.spad := rfl
@[simp] theorem State.takeFree_granEmpty (s : State) : (s.takeFree).granEmpty = s.granEmpty := rfl
@[simp] theorem State.takeFree_truss (s : State) : (s.takeFree).truss = s.truss := rfl
@[simp] theorem State.takeFree_acc (s : State) : (s.takeFree).acc = s.acc := rfl
@[simp] theorem State.takeFree_norms (s : State) : (s.takeFree).norms = s.norms := rfl
@[simp] theorem State.takeFree_poison (s : State) : (s.takeFree).poison = s.poison := rfl
@[simp] theorem State.takeFree_ctxs (s : State) : (s.takeFree).ctxs = s.ctxs := rfl
@[simp] theorem State.takeFree_cores (s : State) : (s.takeFree).cores = s.cores := rfl
@[simp] theorem State.takeFree_piers (s : State) : (s.takeFree).piers = s.piers := rfl
@[simp] theorem State.takeFree_decks (s : State) : (s.takeFree).decks = s.decks := rfl
@[simp] theorem State.takeFree_vdevs (s : State) : (s.takeFree).vdevs = s.vdevs := rfl
@[simp] theorem State.takeFree_jobs (s : State) : (s.takeFree).jobs = s.jobs := rfl
@[simp] theorem State.takeFree_launches (s : State) : (s.takeFree).launches = s.launches := rfl
@[simp] theorem State.takeFree_queues (s : State) : (s.takeFree).queues = s.queues := rfl
@[simp] theorem State.takeFree_counters (s : State) : (s.takeFree).counters = s.counters := rfl
@[simp] theorem State.takeFree_reuse (s : State) : (s.takeFree).reuse = s.reuse := rfl
@[simp] theorem State.takeFree_reuseClock (s : State) : (s.takeFree).reuseClock = s.reuseClock := rfl
@[simp] theorem State.takeFree_convs (s : State) : (s.takeFree).convs = s.convs := rfl
@[simp] theorem State.takeFree_walkers (s : State) : (s.takeFree).walkers = s.walkers := rfl
@[simp] theorem State.takeFree_stolen (s : State) : (s.takeFree).stolen = s.stolen := rfl
@[simp] theorem State.takeFree_mesh (s : State) : (s.takeFree).mesh = s.mesh := rfl
@[simp] theorem State.takeFree_ctrReqs (s : State) : (s.takeFree).ctrReqs = s.ctrReqs := rfl
@[simp] theorem State.takeFree_sliceFaults (s : State) : (s.takeFree).sliceFaults = s.sliceFaults := rfl
@[simp] theorem State.takeFree_notices (s : State) : (s.takeFree).notices = s.notices := rfl
@[simp] theorem State.takeFree_dying (s : State) : (s.takeFree).dying = s.dying := rfl
@[simp] theorem State.takeFree_taints (s : State) : (s.takeFree).taints = s.taints := rfl
@[simp] theorem State.takeFree_places (s : State) : (s.takeFree).places = s.places := rfl
@[simp] theorem State.takeFree_remote (s : State) : (s.takeFree).remote = s.remote := rfl
@[simp] theorem State.takeFree_arrived (s : State) : (s.takeFree).arrived = s.arrived := rfl
@[simp] theorem State.takeFree_seqs (s : State) : (s.takeFree).seqs = s.seqs := rfl
@[simp] theorem State.takeFree_streams (s : State) : (s.takeFree).streams = s.streams := rfl
@[simp] theorem State.takeFree_linksDown (s : State) : (s.takeFree).linksDown = s.linksDown := rfl
@[simp] theorem State.takeFree_badPaths (s : State) : (s.takeFree).badPaths = s.badPaths := rfl
@[simp] theorem State.takeFree_transfers (s : State) : (s.takeFree).transfers = s.transfers := rfl
@[simp] theorem State.takeFree_counts (s : State) : (s.takeFree).counts = s.counts := rfl
@[simp] theorem State.takeFree_shoots (s : State) : (s.takeFree).shoots = s.shoots := rfl
@[simp] theorem State.takeFree_preempts (s : State) : (s.takeFree).preempts = s.preempts := rfl
@[simp] theorem State.takeFree_advice (s : State) : (s.takeFree).advice = s.advice := rfl
@[simp] theorem State.takeFree_leaseReqs (s : State) : (s.takeFree).leaseReqs = s.leaseReqs := rfl
@[simp] theorem State.takeFree_accnts (s : State) : (s.takeFree).accnts = s.accnts := rfl
@[simp] theorem State.takeFree_frameJobs (s : State) : (s.takeFree).frameJobs = s.frameJobs := rfl
@[simp] theorem State.takeFree_relocs (s : State) : (s.takeFree).relocs = s.relocs := rfl
@[simp] theorem State.takeFree_images (s : State) : (s.takeFree).images = s.images := rfl
@[simp] theorem State.takeFree_dupRanges (s : State) : (s.takeFree).dupRanges = s.dupRanges := rfl
@[simp] theorem State.takeFree_collapses (s : State) : (s.takeFree).collapses = s.collapses := rfl
@[simp] theorem State.takeFree_collapseWaits (s : State) : (s.takeFree).collapseWaits = s.collapseWaits := rfl
@[simp] theorem State.takeFree_exchanges (s : State) : (s.takeFree).exchanges = s.exchanges := rfl
@[simp] theorem State.takeFree_hostPages (s : State) : (s.takeFree).hostPages = s.hostPages := rfl
@[simp] theorem State.takeFree_storage (s : State) : (s.takeFree).storage = s.storage := rfl
@[simp] theorem State.takeFree_rodFlows (s : State) : (s.takeFree).rodFlows = s.rodFlows := rfl
@[simp] theorem State.takeFree_boots (s : State) : (s.takeFree).boots = s.boots := rfl
@[simp] theorem State.takeFree_fuseVer (s : State) : (s.takeFree).fuseVer = s.fuseVer := rfl
@[simp] theorem State.takeFree_fuseKey (s : State) : (s.takeFree).fuseKey = s.fuseKey := rfl
@[simp] theorem State.takeFree_serial (s : State) : (s.takeFree).serial = s.serial := rfl
@[simp] theorem State.takeFree_hosts (s : State) : (s.takeFree).hosts = s.hosts := rfl
@[simp] theorem State.takeFree_tenantCfg (s : State) : (s.takeFree).tenantCfg = s.tenantCfg := rfl
@[simp] theorem State.takeFree_inlet (s : State) : (s.takeFree).inlet = s.inlet := rfl
@[simp] theorem State.takeFree_outlet (s : State) : (s.takeFree).outlet = s.outlet := rfl
@[simp] theorem State.takeFree_flow (s : State) : (s.takeFree).flow = s.flow := rfl
@[simp] theorem State.takeFree_inPower (s : State) : (s.takeFree).inPower = s.inPower := rfl
@[simp] theorem State.takeFree_ownPrefix (s : State) : (s.takeFree).ownPrefix = s.ownPrefix := rfl
@[simp] theorem State.takeFree_out (s : State) : (s.takeFree).out = s.out := rfl
@[simp] theorem State.takeFree_nextUid (s : State) : (s.takeFree).nextUid = s.nextUid := rfl
@[simp] theorem State.takeFree_broken (s : State) : (s.takeFree).broken = s.broken := rfl
@[simp] theorem State.takeFree_cur (s : State) : (s.takeFree).cur = s.cur := rfl
@[simp] theorem State.takeFree_agenda (s : State) : (s.takeFree).agenda = s.agenda := rfl

/-! ### emit -/

@[simp] theorem State.emit_mem (s : State) (m : OutMsg) : (s.emit m).mem = s.mem := rfl
@[simp] theorem State.emit_spad (s : State) (m : OutMsg) : (s.emit m).spad = s.spad := rfl
@[simp] theorem State.emit_granEmpty (s : State) (m : OutMsg) : (s.emit m).granEmpty = s.granEmpty := rfl
@[simp] theorem State.emit_truss (s : State) (m : OutMsg) : (s.emit m).truss = s.truss := rfl
@[simp] theorem State.emit_acc (s : State) (m : OutMsg) : (s.emit m).acc = s.acc := rfl
@[simp] theorem State.emit_norms (s : State) (m : OutMsg) : (s.emit m).norms = s.norms := rfl
@[simp] theorem State.emit_poison (s : State) (m : OutMsg) : (s.emit m).poison = s.poison := rfl
@[simp] theorem State.emit_ctxs (s : State) (m : OutMsg) : (s.emit m).ctxs = s.ctxs := rfl
@[simp] theorem State.emit_cores (s : State) (m : OutMsg) : (s.emit m).cores = s.cores := rfl
@[simp] theorem State.emit_piers (s : State) (m : OutMsg) : (s.emit m).piers = s.piers := rfl
@[simp] theorem State.emit_decks (s : State) (m : OutMsg) : (s.emit m).decks = s.decks := rfl
@[simp] theorem State.emit_vdevs (s : State) (m : OutMsg) : (s.emit m).vdevs = s.vdevs := rfl
@[simp] theorem State.emit_jobs (s : State) (m : OutMsg) : (s.emit m).jobs = s.jobs := rfl
@[simp] theorem State.emit_launches (s : State) (m : OutMsg) : (s.emit m).launches = s.launches := rfl
@[simp] theorem State.emit_queues (s : State) (m : OutMsg) : (s.emit m).queues = s.queues := rfl
@[simp] theorem State.emit_counters (s : State) (m : OutMsg) : (s.emit m).counters = s.counters := rfl
@[simp] theorem State.emit_reuse (s : State) (m : OutMsg) : (s.emit m).reuse = s.reuse := rfl
@[simp] theorem State.emit_reuseClock (s : State) (m : OutMsg) : (s.emit m).reuseClock = s.reuseClock := rfl
@[simp] theorem State.emit_convs (s : State) (m : OutMsg) : (s.emit m).convs = s.convs := rfl
@[simp] theorem State.emit_walkers (s : State) (m : OutMsg) : (s.emit m).walkers = s.walkers := rfl
@[simp] theorem State.emit_stolen (s : State) (m : OutMsg) : (s.emit m).stolen = s.stolen := rfl
@[simp] theorem State.emit_mesh (s : State) (m : OutMsg) : (s.emit m).mesh = s.mesh := rfl
@[simp] theorem State.emit_ctrReqs (s : State) (m : OutMsg) : (s.emit m).ctrReqs = s.ctrReqs := rfl
@[simp] theorem State.emit_sliceFaults (s : State) (m : OutMsg) : (s.emit m).sliceFaults = s.sliceFaults := rfl
@[simp] theorem State.emit_notices (s : State) (m : OutMsg) : (s.emit m).notices = s.notices := rfl
@[simp] theorem State.emit_dying (s : State) (m : OutMsg) : (s.emit m).dying = s.dying := rfl
@[simp] theorem State.emit_taints (s : State) (m : OutMsg) : (s.emit m).taints = s.taints := rfl
@[simp] theorem State.emit_places (s : State) (m : OutMsg) : (s.emit m).places = s.places := rfl
@[simp] theorem State.emit_remote (s : State) (m : OutMsg) : (s.emit m).remote = s.remote := rfl
@[simp] theorem State.emit_arrived (s : State) (m : OutMsg) : (s.emit m).arrived = s.arrived := rfl
@[simp] theorem State.emit_seqs (s : State) (m : OutMsg) : (s.emit m).seqs = s.seqs := rfl
@[simp] theorem State.emit_streams (s : State) (m : OutMsg) : (s.emit m).streams = s.streams := rfl
@[simp] theorem State.emit_linksDown (s : State) (m : OutMsg) : (s.emit m).linksDown = s.linksDown := rfl
@[simp] theorem State.emit_badPaths (s : State) (m : OutMsg) : (s.emit m).badPaths = s.badPaths := rfl
@[simp] theorem State.emit_transfers (s : State) (m : OutMsg) : (s.emit m).transfers = s.transfers := rfl
@[simp] theorem State.emit_counts (s : State) (m : OutMsg) : (s.emit m).counts = s.counts := rfl
@[simp] theorem State.emit_shoots (s : State) (m : OutMsg) : (s.emit m).shoots = s.shoots := rfl
@[simp] theorem State.emit_preempts (s : State) (m : OutMsg) : (s.emit m).preempts = s.preempts := rfl
@[simp] theorem State.emit_advice (s : State) (m : OutMsg) : (s.emit m).advice = s.advice := rfl
@[simp] theorem State.emit_leaseReqs (s : State) (m : OutMsg) : (s.emit m).leaseReqs = s.leaseReqs := rfl
@[simp] theorem State.emit_accnts (s : State) (m : OutMsg) : (s.emit m).accnts = s.accnts := rfl
@[simp] theorem State.emit_frameJobs (s : State) (m : OutMsg) : (s.emit m).frameJobs = s.frameJobs := rfl
@[simp] theorem State.emit_relocs (s : State) (m : OutMsg) : (s.emit m).relocs = s.relocs := rfl
@[simp] theorem State.emit_images (s : State) (m : OutMsg) : (s.emit m).images = s.images := rfl
@[simp] theorem State.emit_dupRanges (s : State) (m : OutMsg) : (s.emit m).dupRanges = s.dupRanges := rfl
@[simp] theorem State.emit_collapses (s : State) (m : OutMsg) : (s.emit m).collapses = s.collapses := rfl
@[simp] theorem State.emit_collapseWaits (s : State) (m : OutMsg) : (s.emit m).collapseWaits = s.collapseWaits := rfl
@[simp] theorem State.emit_exchanges (s : State) (m : OutMsg) : (s.emit m).exchanges = s.exchanges := rfl
@[simp] theorem State.emit_hostPages (s : State) (m : OutMsg) : (s.emit m).hostPages = s.hostPages := rfl
@[simp] theorem State.emit_storage (s : State) (m : OutMsg) : (s.emit m).storage = s.storage := rfl
@[simp] theorem State.emit_rodFlows (s : State) (m : OutMsg) : (s.emit m).rodFlows = s.rodFlows := rfl
@[simp] theorem State.emit_boots (s : State) (m : OutMsg) : (s.emit m).boots = s.boots := rfl
@[simp] theorem State.emit_fuseVer (s : State) (m : OutMsg) : (s.emit m).fuseVer = s.fuseVer := rfl
@[simp] theorem State.emit_fuseKey (s : State) (m : OutMsg) : (s.emit m).fuseKey = s.fuseKey := rfl
@[simp] theorem State.emit_serial (s : State) (m : OutMsg) : (s.emit m).serial = s.serial := rfl
@[simp] theorem State.emit_hosts (s : State) (m : OutMsg) : (s.emit m).hosts = s.hosts := rfl
@[simp] theorem State.emit_tenantCfg (s : State) (m : OutMsg) : (s.emit m).tenantCfg = s.tenantCfg := rfl
@[simp] theorem State.emit_inlet (s : State) (m : OutMsg) : (s.emit m).inlet = s.inlet := rfl
@[simp] theorem State.emit_outlet (s : State) (m : OutMsg) : (s.emit m).outlet = s.outlet := rfl
@[simp] theorem State.emit_flow (s : State) (m : OutMsg) : (s.emit m).flow = s.flow := rfl
@[simp] theorem State.emit_inPower (s : State) (m : OutMsg) : (s.emit m).inPower = s.inPower := rfl
@[simp] theorem State.emit_ownPrefix (s : State) (m : OutMsg) : (s.emit m).ownPrefix = s.ownPrefix := rfl
@[simp] theorem State.emit_nextUid (s : State) (m : OutMsg) : (s.emit m).nextUid = s.nextUid := rfl
@[simp] theorem State.emit_broken (s : State) (m : OutMsg) : (s.emit m).broken = s.broken := rfl
@[simp] theorem State.emit_cur (s : State) (m : OutMsg) : (s.emit m).cur = s.cur := rfl
@[simp] theorem State.emit_agenda (s : State) (m : OutMsg) : (s.emit m).agenda = s.agenda := rfl
@[simp] theorem State.emit_free (s : State) (m : OutMsg) : (s.emit m).free = s.free := rfl

/-! ### setS -/

@[simp] theorem Ctx.setS_role (c : Ctx) (r : SReg) (w : Word) : (c.setS r w).role = c.role := by unfold Ctx.setS; split <;> rfl
@[simp] theorem Ctx.setS_v (c : Ctx) (r : SReg) (w : Word) : (c.setS r w).v = c.v := by unfold Ctx.setS; split <;> rfl
@[simp] theorem Ctx.setS_vEmpty (c : Ctx) (r : SReg) (w : Word) : (c.setS r w).vEmpty = c.vEmpty := by unfold Ctx.setS; split <;> rfl
@[simp] theorem Ctx.setS_k (c : Ctx) (r : SReg) (w : Word) : (c.setS r w).k = c.k := by unfold Ctx.setS; split <;> rfl
@[simp] theorem Ctx.setS_kEmpty (c : Ctx) (r : SReg) (w : Word) : (c.setS r w).kEmpty = c.kEmpty := by unfold Ctx.setS; split <;> rfl
@[simp] theorem Ctx.setS_h (c : Ctx) (r : SReg) (w : Word) : (c.setS r w).h = c.h := by unfold Ctx.setS; split <;> rfl
@[simp] theorem Ctx.setS_pc (c : Ctx) (r : SReg) (w : Word) : (c.setS r w).pc = c.pc := by unfold Ctx.setS; split <;> rfl
@[simp] theorem Ctx.setS_pfx (c : Ctx) (r : SReg) (w : Word) : (c.setS r w).pfx = c.pfx := by unfold Ctx.setS; split <;> rfl
@[simp] theorem Ctx.setS_flags (c : Ctx) (r : SReg) (w : Word) : (c.setS r w).flags = c.flags := by unfold Ctx.setS; split <;> rfl
@[simp] theorem Ctx.setS_rmode (c : Ctx) (r : SReg) (w : Word) : (c.setS r w).rmode = c.rmode := by unfold Ctx.setS; split <;> rfl
@[simp] theorem Ctx.setS_urgency (c : Ctx) (r : SReg) (w : Word) : (c.setS r w).urgency = c.urgency := by unfold Ctx.setS; split <;> rfl
@[simp] theorem Ctx.setS_budget (c : Ctx) (r : SReg) (w : Word) : (c.setS r w).budget = c.budget := by unfold Ctx.setS; split <;> rfl
@[simp] theorem Ctx.setS_stkbase (c : Ctx) (r : SReg) (w : Word) : (c.setS r w).stkbase = c.stkbase := by unfold Ctx.setS; split <;> rfl
@[simp] theorem Ctx.setS_frame (c : Ctx) (r : SReg) (w : Word) : (c.setS r w).frame = c.frame := by unfold Ctx.setS; split <;> rfl
@[simp] theorem Ctx.setS_cause (c : Ctx) (r : SReg) (w : Word) : (c.setS r w).cause = c.cause := by unfold Ctx.setS; split <;> rfl
@[simp] theorem Ctx.setS_faddr (c : Ctx) (r : SReg) (w : Word) : (c.setS r w).faddr = c.faddr := by unfold Ctx.setS; split <;> rfl
@[simp] theorem Ctx.setS_fpc (c : Ctx) (r : SReg) (w : Word) : (c.setS r w).fpc = c.fpc := by unfold Ctx.setS; split <;> rfl
@[simp] theorem Ctx.setS_enck (c : Ctx) (r : SReg) (w : Word) : (c.setS r w).enck = c.enck := by unfold Ctx.setS; split <;> rfl
@[simp] theorem Ctx.setS_enctau (c : Ctx) (r : SReg) (w : Word) : (c.setS r w).enctau = c.enctau := by unfold Ctx.setS; split <;> rfl
@[simp] theorem Ctx.setS_enceps (c : Ctx) (r : SReg) (w : Word) : (c.setS r w).enceps = c.enceps := by unfold Ctx.setS; split <;> rfl
@[simp] theorem Ctx.setS_encdict (c : Ctx) (r : SReg) (w : Word) : (c.setS r w).encdict = c.encdict := by unfold Ctx.setS; split <;> rfl
@[simp] theorem Ctx.setS_lastjob (c : Ctx) (r : SReg) (w : Word) : (c.setS r w).lastjob = c.lastjob := by unfold Ctx.setS; split <;> rfl
@[simp] theorem Ctx.setS_handlercap (c : Ctx) (r : SReg) (w : Word) : (c.setS r w).handlercap = c.handlercap := by unfold Ctx.setS; split <;> rfl
@[simp] theorem Ctx.setS_vd (c : Ctx) (r : SReg) (w : Word) : (c.setS r w).vd = c.vd := by unfold Ctx.setS; split <;> rfl
@[simp] theorem Ctx.setS_tenant (c : Ctx) (r : SReg) (w : Word) : (c.setS r w).tenant = c.tenant := by unfold Ctx.setS; split <;> rfl
@[simp] theorem Ctx.setS_jobid (c : Ctx) (r : SReg) (w : Word) : (c.setS r w).jobid = c.jobid := by unfold Ctx.setS; split <;> rfl
@[simp] theorem Ctx.setS_launchid (c : Ctx) (r : SReg) (w : Word) : (c.setS r w).launchid = c.launchid := by unfold Ctx.setS; split <;> rfl
@[simp] theorem Ctx.setS_unitidx (c : Ctx) (r : SReg) (w : Word) : (c.setS r w).unitidx = c.unitidx := by unfold Ctx.setS; split <;> rfl
@[simp] theorem Ctx.setS_record (c : Ctx) (r : SReg) (w : Word) : (c.setS r w).record = c.record := by unfold Ctx.setS; split <;> rfl
@[simp] theorem Ctx.setS_strict (c : Ctx) (r : SReg) (w : Word) : (c.setS r w).strict = c.strict := by unfold Ctx.setS; split <;> rfl
@[simp] theorem Ctx.setS_pure (c : Ctx) (r : SReg) (w : Word) : (c.setS r w).pure = c.pure := by unfold Ctx.setS; split <;> rfl
@[simp] theorem Ctx.setS_coresUnit (c : Ctx) (r : SReg) (w : Word) : (c.setS r w).coresUnit = c.coresUnit := by unfold Ctx.setS; split <;> rfl
@[simp] theorem Ctx.setS_loads (c : Ctx) (r : SReg) (w : Word) : (c.setS r w).loads = c.loads := by unfold Ctx.setS; split <;> rfl
@[simp] theorem Ctx.setS_stop (c : Ctx) (r : SReg) (w : Word) : (c.setS r w).stop = c.stop := by unfold Ctx.setS; split <;> rfl
@[simp] theorem Ctx.setS_preemptReq (c : Ctx) (r : SReg) (w : Word) : (c.setS r w).preemptReq = c.preemptReq := by unfold Ctx.setS; split <;> rfl
@[simp] theorem Ctx.setS_cancelReq (c : Ctx) (r : SReg) (w : Word) : (c.setS r w).cancelReq = c.cancelReq := by unfold Ctx.setS; split <;> rfl
@[simp] theorem Ctx.setS_memerr (c : Ctx) (r : SReg) (w : Word) : (c.setS r w).memerr = c.memerr := by unfold Ctx.setS; split <;> rfl
@[simp] theorem Ctx.setS_unknown (c : Ctx) (r : SReg) (w : Word) : (c.setS r w).unknown = c.unknown := by unfold Ctx.setS; split <;> rfl
@[simp] theorem Ctx.setS_fencing (c : Ctx) (r : SReg) (w : Word) : (c.setS r w).fencing = c.fencing := by unfold Ctx.setS; split <;> rfl
@[simp] theorem Ctx.setS_fenceLines (c : Ctx) (r : SReg) (w : Word) : (c.setS r w).fenceLines = c.fenceLines := by unfold Ctx.setS; split <;> rfl
@[simp] theorem Ctx.setS_sbWait (c : Ctx) (r : SReg) (w : Word) : (c.setS r w).sbWait = c.sbWait := by unfold Ctx.setS; split <;> rfl
@[simp] theorem Ctx.setS_fifoWait (c : Ctx) (r : SReg) (w : Word) : (c.setS r w).fifoWait = c.fifoWait := by unfold Ctx.setS; split <;> rfl
@[simp] theorem Ctx.setS_ending (c : Ctx) (r : SReg) (w : Word) : (c.setS r w).ending = c.ending := by unfold Ctx.setS; split <;> rfl
@[simp] theorem Ctx.setS_reply (c : Ctx) (r : SReg) (w : Word) : (c.setS r w).reply = c.reply := by unfold Ctx.setS; split <;> rfl
@[simp] theorem Ctx.setS_asked (c : Ctx) (r : SReg) (w : Word) : (c.setS r w).asked = c.asked := by unfold Ctx.setS; split <;> rfl
@[simp] theorem Ctx.setS_pageWait (c : Ctx) (r : SReg) (w : Word) : (c.setS r w).pageWait = c.pageWait := by unfold Ctx.setS; split <;> rfl
@[simp] theorem Ctx.setS_reserved (c : Ctx) (r : SReg) (w : Word) : (c.setS r w).reserved = c.reserved := by unfold Ctx.setS; split <;> rfl
@[simp] theorem Ctx.setS_heldUnit (c : Ctx) (r : SReg) (w : Word) : (c.setS r w).heldUnit = c.heldUnit := by unfold Ctx.setS; split <;> rfl
@[simp] theorem Ctx.setS_freed (c : Ctx) (r : SReg) (w : Word) : (c.setS r w).freed = c.freed := by unfold Ctx.setS; split <;> rfl
@[simp] theorem Ctx.setS_stealing (c : Ctx) (r : SReg) (w : Word) : (c.setS r w).stealing = c.stealing := by unfold Ctx.setS; split <;> rfl
@[simp] theorem Ctx.setS_probe (c : Ctx) (r : SReg) (w : Word) : (c.setS r w).probe = c.probe := by unfold Ctx.setS; split <;> rfl

/-! ### emptyS -/

@[simp] theorem Ctx.emptyS_role (c : Ctx) (r : SReg) : (c.emptyS r).role = c.role := by unfold Ctx.emptyS; split <;> rfl
@[simp] theorem Ctx.emptyS_s (c : Ctx) (r : SReg) : (c.emptyS r).s = c.s := by unfold Ctx.emptyS; split <;> rfl
@[simp] theorem Ctx.emptyS_v (c : Ctx) (r : SReg) : (c.emptyS r).v = c.v := by unfold Ctx.emptyS; split <;> rfl
@[simp] theorem Ctx.emptyS_vEmpty (c : Ctx) (r : SReg) : (c.emptyS r).vEmpty = c.vEmpty := by unfold Ctx.emptyS; split <;> rfl
@[simp] theorem Ctx.emptyS_k (c : Ctx) (r : SReg) : (c.emptyS r).k = c.k := by unfold Ctx.emptyS; split <;> rfl
@[simp] theorem Ctx.emptyS_kEmpty (c : Ctx) (r : SReg) : (c.emptyS r).kEmpty = c.kEmpty := by unfold Ctx.emptyS; split <;> rfl
@[simp] theorem Ctx.emptyS_h (c : Ctx) (r : SReg) : (c.emptyS r).h = c.h := by unfold Ctx.emptyS; split <;> rfl
@[simp] theorem Ctx.emptyS_pc (c : Ctx) (r : SReg) : (c.emptyS r).pc = c.pc := by unfold Ctx.emptyS; split <;> rfl
@[simp] theorem Ctx.emptyS_pfx (c : Ctx) (r : SReg) : (c.emptyS r).pfx = c.pfx := by unfold Ctx.emptyS; split <;> rfl
@[simp] theorem Ctx.emptyS_flags (c : Ctx) (r : SReg) : (c.emptyS r).flags = c.flags := by unfold Ctx.emptyS; split <;> rfl
@[simp] theorem Ctx.emptyS_rmode (c : Ctx) (r : SReg) : (c.emptyS r).rmode = c.rmode := by unfold Ctx.emptyS; split <;> rfl
@[simp] theorem Ctx.emptyS_urgency (c : Ctx) (r : SReg) : (c.emptyS r).urgency = c.urgency := by unfold Ctx.emptyS; split <;> rfl
@[simp] theorem Ctx.emptyS_budget (c : Ctx) (r : SReg) : (c.emptyS r).budget = c.budget := by unfold Ctx.emptyS; split <;> rfl
@[simp] theorem Ctx.emptyS_stkbase (c : Ctx) (r : SReg) : (c.emptyS r).stkbase = c.stkbase := by unfold Ctx.emptyS; split <;> rfl
@[simp] theorem Ctx.emptyS_frame (c : Ctx) (r : SReg) : (c.emptyS r).frame = c.frame := by unfold Ctx.emptyS; split <;> rfl
@[simp] theorem Ctx.emptyS_cause (c : Ctx) (r : SReg) : (c.emptyS r).cause = c.cause := by unfold Ctx.emptyS; split <;> rfl
@[simp] theorem Ctx.emptyS_faddr (c : Ctx) (r : SReg) : (c.emptyS r).faddr = c.faddr := by unfold Ctx.emptyS; split <;> rfl
@[simp] theorem Ctx.emptyS_fpc (c : Ctx) (r : SReg) : (c.emptyS r).fpc = c.fpc := by unfold Ctx.emptyS; split <;> rfl
@[simp] theorem Ctx.emptyS_enck (c : Ctx) (r : SReg) : (c.emptyS r).enck = c.enck := by unfold Ctx.emptyS; split <;> rfl
@[simp] theorem Ctx.emptyS_enctau (c : Ctx) (r : SReg) : (c.emptyS r).enctau = c.enctau := by unfold Ctx.emptyS; split <;> rfl
@[simp] theorem Ctx.emptyS_enceps (c : Ctx) (r : SReg) : (c.emptyS r).enceps = c.enceps := by unfold Ctx.emptyS; split <;> rfl
@[simp] theorem Ctx.emptyS_encdict (c : Ctx) (r : SReg) : (c.emptyS r).encdict = c.encdict := by unfold Ctx.emptyS; split <;> rfl
@[simp] theorem Ctx.emptyS_lastjob (c : Ctx) (r : SReg) : (c.emptyS r).lastjob = c.lastjob := by unfold Ctx.emptyS; split <;> rfl
@[simp] theorem Ctx.emptyS_handlercap (c : Ctx) (r : SReg) : (c.emptyS r).handlercap = c.handlercap := by unfold Ctx.emptyS; split <;> rfl
@[simp] theorem Ctx.emptyS_vd (c : Ctx) (r : SReg) : (c.emptyS r).vd = c.vd := by unfold Ctx.emptyS; split <;> rfl
@[simp] theorem Ctx.emptyS_tenant (c : Ctx) (r : SReg) : (c.emptyS r).tenant = c.tenant := by unfold Ctx.emptyS; split <;> rfl
@[simp] theorem Ctx.emptyS_jobid (c : Ctx) (r : SReg) : (c.emptyS r).jobid = c.jobid := by unfold Ctx.emptyS; split <;> rfl
@[simp] theorem Ctx.emptyS_launchid (c : Ctx) (r : SReg) : (c.emptyS r).launchid = c.launchid := by unfold Ctx.emptyS; split <;> rfl
@[simp] theorem Ctx.emptyS_unitidx (c : Ctx) (r : SReg) : (c.emptyS r).unitidx = c.unitidx := by unfold Ctx.emptyS; split <;> rfl
@[simp] theorem Ctx.emptyS_record (c : Ctx) (r : SReg) : (c.emptyS r).record = c.record := by unfold Ctx.emptyS; split <;> rfl
@[simp] theorem Ctx.emptyS_strict (c : Ctx) (r : SReg) : (c.emptyS r).strict = c.strict := by unfold Ctx.emptyS; split <;> rfl
@[simp] theorem Ctx.emptyS_pure (c : Ctx) (r : SReg) : (c.emptyS r).pure = c.pure := by unfold Ctx.emptyS; split <;> rfl
@[simp] theorem Ctx.emptyS_coresUnit (c : Ctx) (r : SReg) : (c.emptyS r).coresUnit = c.coresUnit := by unfold Ctx.emptyS; split <;> rfl
@[simp] theorem Ctx.emptyS_loads (c : Ctx) (r : SReg) : (c.emptyS r).loads = c.loads := by unfold Ctx.emptyS; split <;> rfl
@[simp] theorem Ctx.emptyS_stop (c : Ctx) (r : SReg) : (c.emptyS r).stop = c.stop := by unfold Ctx.emptyS; split <;> rfl
@[simp] theorem Ctx.emptyS_preemptReq (c : Ctx) (r : SReg) : (c.emptyS r).preemptReq = c.preemptReq := by unfold Ctx.emptyS; split <;> rfl
@[simp] theorem Ctx.emptyS_cancelReq (c : Ctx) (r : SReg) : (c.emptyS r).cancelReq = c.cancelReq := by unfold Ctx.emptyS; split <;> rfl
@[simp] theorem Ctx.emptyS_memerr (c : Ctx) (r : SReg) : (c.emptyS r).memerr = c.memerr := by unfold Ctx.emptyS; split <;> rfl
@[simp] theorem Ctx.emptyS_unknown (c : Ctx) (r : SReg) : (c.emptyS r).unknown = c.unknown := by unfold Ctx.emptyS; split <;> rfl
@[simp] theorem Ctx.emptyS_fencing (c : Ctx) (r : SReg) : (c.emptyS r).fencing = c.fencing := by unfold Ctx.emptyS; split <;> rfl
@[simp] theorem Ctx.emptyS_fenceLines (c : Ctx) (r : SReg) : (c.emptyS r).fenceLines = c.fenceLines := by unfold Ctx.emptyS; split <;> rfl
@[simp] theorem Ctx.emptyS_sbWait (c : Ctx) (r : SReg) : (c.emptyS r).sbWait = c.sbWait := by unfold Ctx.emptyS; split <;> rfl
@[simp] theorem Ctx.emptyS_fifoWait (c : Ctx) (r : SReg) : (c.emptyS r).fifoWait = c.fifoWait := by unfold Ctx.emptyS; split <;> rfl
@[simp] theorem Ctx.emptyS_ending (c : Ctx) (r : SReg) : (c.emptyS r).ending = c.ending := by unfold Ctx.emptyS; split <;> rfl
@[simp] theorem Ctx.emptyS_reply (c : Ctx) (r : SReg) : (c.emptyS r).reply = c.reply := by unfold Ctx.emptyS; split <;> rfl
@[simp] theorem Ctx.emptyS_asked (c : Ctx) (r : SReg) : (c.emptyS r).asked = c.asked := by unfold Ctx.emptyS; split <;> rfl
@[simp] theorem Ctx.emptyS_pageWait (c : Ctx) (r : SReg) : (c.emptyS r).pageWait = c.pageWait := by unfold Ctx.emptyS; split <;> rfl
@[simp] theorem Ctx.emptyS_reserved (c : Ctx) (r : SReg) : (c.emptyS r).reserved = c.reserved := by unfold Ctx.emptyS; split <;> rfl
@[simp] theorem Ctx.emptyS_heldUnit (c : Ctx) (r : SReg) : (c.emptyS r).heldUnit = c.heldUnit := by unfold Ctx.emptyS; split <;> rfl
@[simp] theorem Ctx.emptyS_freed (c : Ctx) (r : SReg) : (c.emptyS r).freed = c.freed := by unfold Ctx.emptyS; split <;> rfl
@[simp] theorem Ctx.emptyS_stealing (c : Ctx) (r : SReg) : (c.emptyS r).stealing = c.stealing := by unfold Ctx.emptyS; split <;> rfl
@[simp] theorem Ctx.emptyS_probe (c : Ctx) (r : SReg) : (c.emptyS r).probe = c.probe := by unfold Ctx.emptyS; split <;> rfl

/-! ### setK -/

@[simp] theorem Ctx.setK_role (c : Ctx) (r : KReg) (w : Word) : (c.setK r w).role = c.role := by unfold Ctx.setK; split <;> rfl
@[simp] theorem Ctx.setK_s (c : Ctx) (r : KReg) (w : Word) : (c.setK r w).s = c.s := by unfold Ctx.setK; split <;> rfl
@[simp] theorem Ctx.setK_sEmpty (c : Ctx) (r : KReg) (w : Word) : (c.setK r w).sEmpty = c.sEmpty := by unfold Ctx.setK; split <;> rfl
@[simp] theorem Ctx.setK_v (c : Ctx) (r : KReg) (w : Word) : (c.setK r w).v = c.v := by unfold Ctx.setK; split <;> rfl
@[simp] theorem Ctx.setK_vEmpty (c : Ctx) (r : KReg) (w : Word) : (c.setK r w).vEmpty = c.vEmpty := by unfold Ctx.setK; split <;> rfl
@[simp] theorem Ctx.setK_h (c : Ctx) (r : KReg) (w : Word) : (c.setK r w).h = c.h := by unfold Ctx.setK; split <;> rfl
@[simp] theorem Ctx.setK_pc (c : Ctx) (r : KReg) (w : Word) : (c.setK r w).pc = c.pc := by unfold Ctx.setK; split <;> rfl
@[simp] theorem Ctx.setK_pfx (c : Ctx) (r : KReg) (w : Word) : (c.setK r w).pfx = c.pfx := by unfold Ctx.setK; split <;> rfl
@[simp] theorem Ctx.setK_flags (c : Ctx) (r : KReg) (w : Word) : (c.setK r w).flags = c.flags := by unfold Ctx.setK; split <;> rfl
@[simp] theorem Ctx.setK_rmode (c : Ctx) (r : KReg) (w : Word) : (c.setK r w).rmode = c.rmode := by unfold Ctx.setK; split <;> rfl
@[simp] theorem Ctx.setK_urgency (c : Ctx) (r : KReg) (w : Word) : (c.setK r w).urgency = c.urgency := by unfold Ctx.setK; split <;> rfl
@[simp] theorem Ctx.setK_budget (c : Ctx) (r : KReg) (w : Word) : (c.setK r w).budget = c.budget := by unfold Ctx.setK; split <;> rfl
@[simp] theorem Ctx.setK_stkbase (c : Ctx) (r : KReg) (w : Word) : (c.setK r w).stkbase = c.stkbase := by unfold Ctx.setK; split <;> rfl
@[simp] theorem Ctx.setK_frame (c : Ctx) (r : KReg) (w : Word) : (c.setK r w).frame = c.frame := by unfold Ctx.setK; split <;> rfl
@[simp] theorem Ctx.setK_cause (c : Ctx) (r : KReg) (w : Word) : (c.setK r w).cause = c.cause := by unfold Ctx.setK; split <;> rfl
@[simp] theorem Ctx.setK_faddr (c : Ctx) (r : KReg) (w : Word) : (c.setK r w).faddr = c.faddr := by unfold Ctx.setK; split <;> rfl
@[simp] theorem Ctx.setK_fpc (c : Ctx) (r : KReg) (w : Word) : (c.setK r w).fpc = c.fpc := by unfold Ctx.setK; split <;> rfl
@[simp] theorem Ctx.setK_enck (c : Ctx) (r : KReg) (w : Word) : (c.setK r w).enck = c.enck := by unfold Ctx.setK; split <;> rfl
@[simp] theorem Ctx.setK_enctau (c : Ctx) (r : KReg) (w : Word) : (c.setK r w).enctau = c.enctau := by unfold Ctx.setK; split <;> rfl
@[simp] theorem Ctx.setK_enceps (c : Ctx) (r : KReg) (w : Word) : (c.setK r w).enceps = c.enceps := by unfold Ctx.setK; split <;> rfl
@[simp] theorem Ctx.setK_encdict (c : Ctx) (r : KReg) (w : Word) : (c.setK r w).encdict = c.encdict := by unfold Ctx.setK; split <;> rfl
@[simp] theorem Ctx.setK_lastjob (c : Ctx) (r : KReg) (w : Word) : (c.setK r w).lastjob = c.lastjob := by unfold Ctx.setK; split <;> rfl
@[simp] theorem Ctx.setK_handlercap (c : Ctx) (r : KReg) (w : Word) : (c.setK r w).handlercap = c.handlercap := by unfold Ctx.setK; split <;> rfl
@[simp] theorem Ctx.setK_vd (c : Ctx) (r : KReg) (w : Word) : (c.setK r w).vd = c.vd := by unfold Ctx.setK; split <;> rfl
@[simp] theorem Ctx.setK_tenant (c : Ctx) (r : KReg) (w : Word) : (c.setK r w).tenant = c.tenant := by unfold Ctx.setK; split <;> rfl
@[simp] theorem Ctx.setK_jobid (c : Ctx) (r : KReg) (w : Word) : (c.setK r w).jobid = c.jobid := by unfold Ctx.setK; split <;> rfl
@[simp] theorem Ctx.setK_launchid (c : Ctx) (r : KReg) (w : Word) : (c.setK r w).launchid = c.launchid := by unfold Ctx.setK; split <;> rfl
@[simp] theorem Ctx.setK_unitidx (c : Ctx) (r : KReg) (w : Word) : (c.setK r w).unitidx = c.unitidx := by unfold Ctx.setK; split <;> rfl
@[simp] theorem Ctx.setK_record (c : Ctx) (r : KReg) (w : Word) : (c.setK r w).record = c.record := by unfold Ctx.setK; split <;> rfl
@[simp] theorem Ctx.setK_strict (c : Ctx) (r : KReg) (w : Word) : (c.setK r w).strict = c.strict := by unfold Ctx.setK; split <;> rfl
@[simp] theorem Ctx.setK_pure (c : Ctx) (r : KReg) (w : Word) : (c.setK r w).pure = c.pure := by unfold Ctx.setK; split <;> rfl
@[simp] theorem Ctx.setK_coresUnit (c : Ctx) (r : KReg) (w : Word) : (c.setK r w).coresUnit = c.coresUnit := by unfold Ctx.setK; split <;> rfl
@[simp] theorem Ctx.setK_loads (c : Ctx) (r : KReg) (w : Word) : (c.setK r w).loads = c.loads := by unfold Ctx.setK; split <;> rfl
@[simp] theorem Ctx.setK_stop (c : Ctx) (r : KReg) (w : Word) : (c.setK r w).stop = c.stop := by unfold Ctx.setK; split <;> rfl
@[simp] theorem Ctx.setK_preemptReq (c : Ctx) (r : KReg) (w : Word) : (c.setK r w).preemptReq = c.preemptReq := by unfold Ctx.setK; split <;> rfl
@[simp] theorem Ctx.setK_cancelReq (c : Ctx) (r : KReg) (w : Word) : (c.setK r w).cancelReq = c.cancelReq := by unfold Ctx.setK; split <;> rfl
@[simp] theorem Ctx.setK_memerr (c : Ctx) (r : KReg) (w : Word) : (c.setK r w).memerr = c.memerr := by unfold Ctx.setK; split <;> rfl
@[simp] theorem Ctx.setK_unknown (c : Ctx) (r : KReg) (w : Word) : (c.setK r w).unknown = c.unknown := by unfold Ctx.setK; split <;> rfl
@[simp] theorem Ctx.setK_fencing (c : Ctx) (r : KReg) (w : Word) : (c.setK r w).fencing = c.fencing := by unfold Ctx.setK; split <;> rfl
@[simp] theorem Ctx.setK_fenceLines (c : Ctx) (r : KReg) (w : Word) : (c.setK r w).fenceLines = c.fenceLines := by unfold Ctx.setK; split <;> rfl
@[simp] theorem Ctx.setK_sbWait (c : Ctx) (r : KReg) (w : Word) : (c.setK r w).sbWait = c.sbWait := by unfold Ctx.setK; split <;> rfl
@[simp] theorem Ctx.setK_fifoWait (c : Ctx) (r : KReg) (w : Word) : (c.setK r w).fifoWait = c.fifoWait := by unfold Ctx.setK; split <;> rfl
@[simp] theorem Ctx.setK_ending (c : Ctx) (r : KReg) (w : Word) : (c.setK r w).ending = c.ending := by unfold Ctx.setK; split <;> rfl
@[simp] theorem Ctx.setK_reply (c : Ctx) (r : KReg) (w : Word) : (c.setK r w).reply = c.reply := by unfold Ctx.setK; split <;> rfl
@[simp] theorem Ctx.setK_asked (c : Ctx) (r : KReg) (w : Word) : (c.setK r w).asked = c.asked := by unfold Ctx.setK; split <;> rfl
@[simp] theorem Ctx.setK_pageWait (c : Ctx) (r : KReg) (w : Word) : (c.setK r w).pageWait = c.pageWait := by unfold Ctx.setK; split <;> rfl
@[simp] theorem Ctx.setK_reserved (c : Ctx) (r : KReg) (w : Word) : (c.setK r w).reserved = c.reserved := by unfold Ctx.setK; split <;> rfl
@[simp] theorem Ctx.setK_heldUnit (c : Ctx) (r : KReg) (w : Word) : (c.setK r w).heldUnit = c.heldUnit := by unfold Ctx.setK; split <;> rfl
@[simp] theorem Ctx.setK_freed (c : Ctx) (r : KReg) (w : Word) : (c.setK r w).freed = c.freed := by unfold Ctx.setK; split <;> rfl
@[simp] theorem Ctx.setK_stealing (c : Ctx) (r : KReg) (w : Word) : (c.setK r w).stealing = c.stealing := by unfold Ctx.setK; split <;> rfl
@[simp] theorem Ctx.setK_probe (c : Ctx) (r : KReg) (w : Word) : (c.setK r w).probe = c.probe := by unfold Ctx.setK; split <;> rfl

/-! ### emptyK -/

@[simp] theorem Ctx.emptyK_role (c : Ctx) (r : KReg) : (c.emptyK r).role = c.role := by unfold Ctx.emptyK; split <;> rfl
@[simp] theorem Ctx.emptyK_s (c : Ctx) (r : KReg) : (c.emptyK r).s = c.s := by unfold Ctx.emptyK; split <;> rfl
@[simp] theorem Ctx.emptyK_sEmpty (c : Ctx) (r : KReg) : (c.emptyK r).sEmpty = c.sEmpty := by unfold Ctx.emptyK; split <;> rfl
@[simp] theorem Ctx.emptyK_v (c : Ctx) (r : KReg) : (c.emptyK r).v = c.v := by unfold Ctx.emptyK; split <;> rfl
@[simp] theorem Ctx.emptyK_vEmpty (c : Ctx) (r : KReg) : (c.emptyK r).vEmpty = c.vEmpty := by unfold Ctx.emptyK; split <;> rfl
@[simp] theorem Ctx.emptyK_k (c : Ctx) (r : KReg) : (c.emptyK r).k = c.k := by unfold Ctx.emptyK; split <;> rfl
@[simp] theorem Ctx.emptyK_h (c : Ctx) (r : KReg) : (c.emptyK r).h = c.h := by unfold Ctx.emptyK; split <;> rfl
@[simp] theorem Ctx.emptyK_pc (c : Ctx) (r : KReg) : (c.emptyK r).pc = c.pc := by unfold Ctx.emptyK; split <;> rfl
@[simp] theorem Ctx.emptyK_pfx (c : Ctx) (r : KReg) : (c.emptyK r).pfx = c.pfx := by unfold Ctx.emptyK; split <;> rfl
@[simp] theorem Ctx.emptyK_flags (c : Ctx) (r : KReg) : (c.emptyK r).flags = c.flags := by unfold Ctx.emptyK; split <;> rfl
@[simp] theorem Ctx.emptyK_rmode (c : Ctx) (r : KReg) : (c.emptyK r).rmode = c.rmode := by unfold Ctx.emptyK; split <;> rfl
@[simp] theorem Ctx.emptyK_urgency (c : Ctx) (r : KReg) : (c.emptyK r).urgency = c.urgency := by unfold Ctx.emptyK; split <;> rfl
@[simp] theorem Ctx.emptyK_budget (c : Ctx) (r : KReg) : (c.emptyK r).budget = c.budget := by unfold Ctx.emptyK; split <;> rfl
@[simp] theorem Ctx.emptyK_stkbase (c : Ctx) (r : KReg) : (c.emptyK r).stkbase = c.stkbase := by unfold Ctx.emptyK; split <;> rfl
@[simp] theorem Ctx.emptyK_frame (c : Ctx) (r : KReg) : (c.emptyK r).frame = c.frame := by unfold Ctx.emptyK; split <;> rfl
@[simp] theorem Ctx.emptyK_cause (c : Ctx) (r : KReg) : (c.emptyK r).cause = c.cause := by unfold Ctx.emptyK; split <;> rfl
@[simp] theorem Ctx.emptyK_faddr (c : Ctx) (r : KReg) : (c.emptyK r).faddr = c.faddr := by unfold Ctx.emptyK; split <;> rfl
@[simp] theorem Ctx.emptyK_fpc (c : Ctx) (r : KReg) : (c.emptyK r).fpc = c.fpc := by unfold Ctx.emptyK; split <;> rfl
@[simp] theorem Ctx.emptyK_enck (c : Ctx) (r : KReg) : (c.emptyK r).enck = c.enck := by unfold Ctx.emptyK; split <;> rfl
@[simp] theorem Ctx.emptyK_enctau (c : Ctx) (r : KReg) : (c.emptyK r).enctau = c.enctau := by unfold Ctx.emptyK; split <;> rfl
@[simp] theorem Ctx.emptyK_enceps (c : Ctx) (r : KReg) : (c.emptyK r).enceps = c.enceps := by unfold Ctx.emptyK; split <;> rfl
@[simp] theorem Ctx.emptyK_encdict (c : Ctx) (r : KReg) : (c.emptyK r).encdict = c.encdict := by unfold Ctx.emptyK; split <;> rfl
@[simp] theorem Ctx.emptyK_lastjob (c : Ctx) (r : KReg) : (c.emptyK r).lastjob = c.lastjob := by unfold Ctx.emptyK; split <;> rfl
@[simp] theorem Ctx.emptyK_handlercap (c : Ctx) (r : KReg) : (c.emptyK r).handlercap = c.handlercap := by unfold Ctx.emptyK; split <;> rfl
@[simp] theorem Ctx.emptyK_vd (c : Ctx) (r : KReg) : (c.emptyK r).vd = c.vd := by unfold Ctx.emptyK; split <;> rfl
@[simp] theorem Ctx.emptyK_tenant (c : Ctx) (r : KReg) : (c.emptyK r).tenant = c.tenant := by unfold Ctx.emptyK; split <;> rfl
@[simp] theorem Ctx.emptyK_jobid (c : Ctx) (r : KReg) : (c.emptyK r).jobid = c.jobid := by unfold Ctx.emptyK; split <;> rfl
@[simp] theorem Ctx.emptyK_launchid (c : Ctx) (r : KReg) : (c.emptyK r).launchid = c.launchid := by unfold Ctx.emptyK; split <;> rfl
@[simp] theorem Ctx.emptyK_unitidx (c : Ctx) (r : KReg) : (c.emptyK r).unitidx = c.unitidx := by unfold Ctx.emptyK; split <;> rfl
@[simp] theorem Ctx.emptyK_record (c : Ctx) (r : KReg) : (c.emptyK r).record = c.record := by unfold Ctx.emptyK; split <;> rfl
@[simp] theorem Ctx.emptyK_strict (c : Ctx) (r : KReg) : (c.emptyK r).strict = c.strict := by unfold Ctx.emptyK; split <;> rfl
@[simp] theorem Ctx.emptyK_pure (c : Ctx) (r : KReg) : (c.emptyK r).pure = c.pure := by unfold Ctx.emptyK; split <;> rfl
@[simp] theorem Ctx.emptyK_coresUnit (c : Ctx) (r : KReg) : (c.emptyK r).coresUnit = c.coresUnit := by unfold Ctx.emptyK; split <;> rfl
@[simp] theorem Ctx.emptyK_loads (c : Ctx) (r : KReg) : (c.emptyK r).loads = c.loads := by unfold Ctx.emptyK; split <;> rfl
@[simp] theorem Ctx.emptyK_stop (c : Ctx) (r : KReg) : (c.emptyK r).stop = c.stop := by unfold Ctx.emptyK; split <;> rfl
@[simp] theorem Ctx.emptyK_preemptReq (c : Ctx) (r : KReg) : (c.emptyK r).preemptReq = c.preemptReq := by unfold Ctx.emptyK; split <;> rfl
@[simp] theorem Ctx.emptyK_cancelReq (c : Ctx) (r : KReg) : (c.emptyK r).cancelReq = c.cancelReq := by unfold Ctx.emptyK; split <;> rfl
@[simp] theorem Ctx.emptyK_memerr (c : Ctx) (r : KReg) : (c.emptyK r).memerr = c.memerr := by unfold Ctx.emptyK; split <;> rfl
@[simp] theorem Ctx.emptyK_unknown (c : Ctx) (r : KReg) : (c.emptyK r).unknown = c.unknown := by unfold Ctx.emptyK; split <;> rfl
@[simp] theorem Ctx.emptyK_fencing (c : Ctx) (r : KReg) : (c.emptyK r).fencing = c.fencing := by unfold Ctx.emptyK; split <;> rfl
@[simp] theorem Ctx.emptyK_fenceLines (c : Ctx) (r : KReg) : (c.emptyK r).fenceLines = c.fenceLines := by unfold Ctx.emptyK; split <;> rfl
@[simp] theorem Ctx.emptyK_sbWait (c : Ctx) (r : KReg) : (c.emptyK r).sbWait = c.sbWait := by unfold Ctx.emptyK; split <;> rfl
@[simp] theorem Ctx.emptyK_fifoWait (c : Ctx) (r : KReg) : (c.emptyK r).fifoWait = c.fifoWait := by unfold Ctx.emptyK; split <;> rfl
@[simp] theorem Ctx.emptyK_ending (c : Ctx) (r : KReg) : (c.emptyK r).ending = c.ending := by unfold Ctx.emptyK; split <;> rfl
@[simp] theorem Ctx.emptyK_reply (c : Ctx) (r : KReg) : (c.emptyK r).reply = c.reply := by unfold Ctx.emptyK; split <;> rfl
@[simp] theorem Ctx.emptyK_asked (c : Ctx) (r : KReg) : (c.emptyK r).asked = c.asked := by unfold Ctx.emptyK; split <;> rfl
@[simp] theorem Ctx.emptyK_pageWait (c : Ctx) (r : KReg) : (c.emptyK r).pageWait = c.pageWait := by unfold Ctx.emptyK; split <;> rfl
@[simp] theorem Ctx.emptyK_reserved (c : Ctx) (r : KReg) : (c.emptyK r).reserved = c.reserved := by unfold Ctx.emptyK; split <;> rfl
@[simp] theorem Ctx.emptyK_heldUnit (c : Ctx) (r : KReg) : (c.emptyK r).heldUnit = c.heldUnit := by unfold Ctx.emptyK; split <;> rfl
@[simp] theorem Ctx.emptyK_freed (c : Ctx) (r : KReg) : (c.emptyK r).freed = c.freed := by unfold Ctx.emptyK; split <;> rfl
@[simp] theorem Ctx.emptyK_stealing (c : Ctx) (r : KReg) : (c.emptyK r).stealing = c.stealing := by unfold Ctx.emptyK; split <;> rfl
@[simp] theorem Ctx.emptyK_probe (c : Ctx) (r : KReg) : (c.emptyK r).probe = c.probe := by unfold Ctx.emptyK; split <;> rfl

/-! ### setV -/

@[simp] theorem Ctx.setV_role (c : Ctx) (r : VNum) (x : VReg) : (c.setV r x).role = c.role := rfl
@[simp] theorem Ctx.setV_s (c : Ctx) (r : VNum) (x : VReg) : (c.setV r x).s = c.s := rfl
@[simp] theorem Ctx.setV_sEmpty (c : Ctx) (r : VNum) (x : VReg) : (c.setV r x).sEmpty = c.sEmpty := rfl
@[simp] theorem Ctx.setV_k (c : Ctx) (r : VNum) (x : VReg) : (c.setV r x).k = c.k := rfl
@[simp] theorem Ctx.setV_kEmpty (c : Ctx) (r : VNum) (x : VReg) : (c.setV r x).kEmpty = c.kEmpty := rfl
@[simp] theorem Ctx.setV_h (c : Ctx) (r : VNum) (x : VReg) : (c.setV r x).h = c.h := rfl
@[simp] theorem Ctx.setV_pc (c : Ctx) (r : VNum) (x : VReg) : (c.setV r x).pc = c.pc := rfl
@[simp] theorem Ctx.setV_pfx (c : Ctx) (r : VNum) (x : VReg) : (c.setV r x).pfx = c.pfx := rfl
@[simp] theorem Ctx.setV_flags (c : Ctx) (r : VNum) (x : VReg) : (c.setV r x).flags = c.flags := rfl
@[simp] theorem Ctx.setV_rmode (c : Ctx) (r : VNum) (x : VReg) : (c.setV r x).rmode = c.rmode := rfl
@[simp] theorem Ctx.setV_urgency (c : Ctx) (r : VNum) (x : VReg) : (c.setV r x).urgency = c.urgency := rfl
@[simp] theorem Ctx.setV_budget (c : Ctx) (r : VNum) (x : VReg) : (c.setV r x).budget = c.budget := rfl
@[simp] theorem Ctx.setV_stkbase (c : Ctx) (r : VNum) (x : VReg) : (c.setV r x).stkbase = c.stkbase := rfl
@[simp] theorem Ctx.setV_frame (c : Ctx) (r : VNum) (x : VReg) : (c.setV r x).frame = c.frame := rfl
@[simp] theorem Ctx.setV_cause (c : Ctx) (r : VNum) (x : VReg) : (c.setV r x).cause = c.cause := rfl
@[simp] theorem Ctx.setV_faddr (c : Ctx) (r : VNum) (x : VReg) : (c.setV r x).faddr = c.faddr := rfl
@[simp] theorem Ctx.setV_fpc (c : Ctx) (r : VNum) (x : VReg) : (c.setV r x).fpc = c.fpc := rfl
@[simp] theorem Ctx.setV_enck (c : Ctx) (r : VNum) (x : VReg) : (c.setV r x).enck = c.enck := rfl
@[simp] theorem Ctx.setV_enctau (c : Ctx) (r : VNum) (x : VReg) : (c.setV r x).enctau = c.enctau := rfl
@[simp] theorem Ctx.setV_enceps (c : Ctx) (r : VNum) (x : VReg) : (c.setV r x).enceps = c.enceps := rfl
@[simp] theorem Ctx.setV_encdict (c : Ctx) (r : VNum) (x : VReg) : (c.setV r x).encdict = c.encdict := rfl
@[simp] theorem Ctx.setV_lastjob (c : Ctx) (r : VNum) (x : VReg) : (c.setV r x).lastjob = c.lastjob := rfl
@[simp] theorem Ctx.setV_handlercap (c : Ctx) (r : VNum) (x : VReg) : (c.setV r x).handlercap = c.handlercap := rfl
@[simp] theorem Ctx.setV_vd (c : Ctx) (r : VNum) (x : VReg) : (c.setV r x).vd = c.vd := rfl
@[simp] theorem Ctx.setV_tenant (c : Ctx) (r : VNum) (x : VReg) : (c.setV r x).tenant = c.tenant := rfl
@[simp] theorem Ctx.setV_jobid (c : Ctx) (r : VNum) (x : VReg) : (c.setV r x).jobid = c.jobid := rfl
@[simp] theorem Ctx.setV_launchid (c : Ctx) (r : VNum) (x : VReg) : (c.setV r x).launchid = c.launchid := rfl
@[simp] theorem Ctx.setV_unitidx (c : Ctx) (r : VNum) (x : VReg) : (c.setV r x).unitidx = c.unitidx := rfl
@[simp] theorem Ctx.setV_record (c : Ctx) (r : VNum) (x : VReg) : (c.setV r x).record = c.record := rfl
@[simp] theorem Ctx.setV_strict (c : Ctx) (r : VNum) (x : VReg) : (c.setV r x).strict = c.strict := rfl
@[simp] theorem Ctx.setV_pure (c : Ctx) (r : VNum) (x : VReg) : (c.setV r x).pure = c.pure := rfl
@[simp] theorem Ctx.setV_coresUnit (c : Ctx) (r : VNum) (x : VReg) : (c.setV r x).coresUnit = c.coresUnit := rfl
@[simp] theorem Ctx.setV_loads (c : Ctx) (r : VNum) (x : VReg) : (c.setV r x).loads = c.loads := rfl
@[simp] theorem Ctx.setV_stop (c : Ctx) (r : VNum) (x : VReg) : (c.setV r x).stop = c.stop := rfl
@[simp] theorem Ctx.setV_preemptReq (c : Ctx) (r : VNum) (x : VReg) : (c.setV r x).preemptReq = c.preemptReq := rfl
@[simp] theorem Ctx.setV_cancelReq (c : Ctx) (r : VNum) (x : VReg) : (c.setV r x).cancelReq = c.cancelReq := rfl
@[simp] theorem Ctx.setV_memerr (c : Ctx) (r : VNum) (x : VReg) : (c.setV r x).memerr = c.memerr := rfl
@[simp] theorem Ctx.setV_unknown (c : Ctx) (r : VNum) (x : VReg) : (c.setV r x).unknown = c.unknown := rfl
@[simp] theorem Ctx.setV_fencing (c : Ctx) (r : VNum) (x : VReg) : (c.setV r x).fencing = c.fencing := rfl
@[simp] theorem Ctx.setV_fenceLines (c : Ctx) (r : VNum) (x : VReg) : (c.setV r x).fenceLines = c.fenceLines := rfl
@[simp] theorem Ctx.setV_sbWait (c : Ctx) (r : VNum) (x : VReg) : (c.setV r x).sbWait = c.sbWait := rfl
@[simp] theorem Ctx.setV_fifoWait (c : Ctx) (r : VNum) (x : VReg) : (c.setV r x).fifoWait = c.fifoWait := rfl
@[simp] theorem Ctx.setV_ending (c : Ctx) (r : VNum) (x : VReg) : (c.setV r x).ending = c.ending := rfl
@[simp] theorem Ctx.setV_reply (c : Ctx) (r : VNum) (x : VReg) : (c.setV r x).reply = c.reply := rfl
@[simp] theorem Ctx.setV_asked (c : Ctx) (r : VNum) (x : VReg) : (c.setV r x).asked = c.asked := rfl
@[simp] theorem Ctx.setV_pageWait (c : Ctx) (r : VNum) (x : VReg) : (c.setV r x).pageWait = c.pageWait := rfl
@[simp] theorem Ctx.setV_reserved (c : Ctx) (r : VNum) (x : VReg) : (c.setV r x).reserved = c.reserved := rfl
@[simp] theorem Ctx.setV_heldUnit (c : Ctx) (r : VNum) (x : VReg) : (c.setV r x).heldUnit = c.heldUnit := rfl
@[simp] theorem Ctx.setV_freed (c : Ctx) (r : VNum) (x : VReg) : (c.setV r x).freed = c.freed := rfl
@[simp] theorem Ctx.setV_stealing (c : Ctx) (r : VNum) (x : VReg) : (c.setV r x).stealing = c.stealing := rfl
@[simp] theorem Ctx.setV_probe (c : Ctx) (r : VNum) (x : VReg) : (c.setV r x).probe = c.probe := rfl

/-! ### emptyV -/

@[simp] theorem Ctx.emptyV_role (c : Ctx) (r : VNum) : (c.emptyV r).role = c.role := rfl
@[simp] theorem Ctx.emptyV_s (c : Ctx) (r : VNum) : (c.emptyV r).s = c.s := rfl
@[simp] theorem Ctx.emptyV_sEmpty (c : Ctx) (r : VNum) : (c.emptyV r).sEmpty = c.sEmpty := rfl
@[simp] theorem Ctx.emptyV_v (c : Ctx) (r : VNum) : (c.emptyV r).v = c.v := rfl
@[simp] theorem Ctx.emptyV_k (c : Ctx) (r : VNum) : (c.emptyV r).k = c.k := rfl
@[simp] theorem Ctx.emptyV_kEmpty (c : Ctx) (r : VNum) : (c.emptyV r).kEmpty = c.kEmpty := rfl
@[simp] theorem Ctx.emptyV_h (c : Ctx) (r : VNum) : (c.emptyV r).h = c.h := rfl
@[simp] theorem Ctx.emptyV_pc (c : Ctx) (r : VNum) : (c.emptyV r).pc = c.pc := rfl
@[simp] theorem Ctx.emptyV_pfx (c : Ctx) (r : VNum) : (c.emptyV r).pfx = c.pfx := rfl
@[simp] theorem Ctx.emptyV_flags (c : Ctx) (r : VNum) : (c.emptyV r).flags = c.flags := rfl
@[simp] theorem Ctx.emptyV_rmode (c : Ctx) (r : VNum) : (c.emptyV r).rmode = c.rmode := rfl
@[simp] theorem Ctx.emptyV_urgency (c : Ctx) (r : VNum) : (c.emptyV r).urgency = c.urgency := rfl
@[simp] theorem Ctx.emptyV_budget (c : Ctx) (r : VNum) : (c.emptyV r).budget = c.budget := rfl
@[simp] theorem Ctx.emptyV_stkbase (c : Ctx) (r : VNum) : (c.emptyV r).stkbase = c.stkbase := rfl
@[simp] theorem Ctx.emptyV_frame (c : Ctx) (r : VNum) : (c.emptyV r).frame = c.frame := rfl
@[simp] theorem Ctx.emptyV_cause (c : Ctx) (r : VNum) : (c.emptyV r).cause = c.cause := rfl
@[simp] theorem Ctx.emptyV_faddr (c : Ctx) (r : VNum) : (c.emptyV r).faddr = c.faddr := rfl
@[simp] theorem Ctx.emptyV_fpc (c : Ctx) (r : VNum) : (c.emptyV r).fpc = c.fpc := rfl
@[simp] theorem Ctx.emptyV_enck (c : Ctx) (r : VNum) : (c.emptyV r).enck = c.enck := rfl
@[simp] theorem Ctx.emptyV_enctau (c : Ctx) (r : VNum) : (c.emptyV r).enctau = c.enctau := rfl
@[simp] theorem Ctx.emptyV_enceps (c : Ctx) (r : VNum) : (c.emptyV r).enceps = c.enceps := rfl
@[simp] theorem Ctx.emptyV_encdict (c : Ctx) (r : VNum) : (c.emptyV r).encdict = c.encdict := rfl
@[simp] theorem Ctx.emptyV_lastjob (c : Ctx) (r : VNum) : (c.emptyV r).lastjob = c.lastjob := rfl
@[simp] theorem Ctx.emptyV_handlercap (c : Ctx) (r : VNum) : (c.emptyV r).handlercap = c.handlercap := rfl
@[simp] theorem Ctx.emptyV_vd (c : Ctx) (r : VNum) : (c.emptyV r).vd = c.vd := rfl
@[simp] theorem Ctx.emptyV_tenant (c : Ctx) (r : VNum) : (c.emptyV r).tenant = c.tenant := rfl
@[simp] theorem Ctx.emptyV_jobid (c : Ctx) (r : VNum) : (c.emptyV r).jobid = c.jobid := rfl
@[simp] theorem Ctx.emptyV_launchid (c : Ctx) (r : VNum) : (c.emptyV r).launchid = c.launchid := rfl
@[simp] theorem Ctx.emptyV_unitidx (c : Ctx) (r : VNum) : (c.emptyV r).unitidx = c.unitidx := rfl
@[simp] theorem Ctx.emptyV_record (c : Ctx) (r : VNum) : (c.emptyV r).record = c.record := rfl
@[simp] theorem Ctx.emptyV_strict (c : Ctx) (r : VNum) : (c.emptyV r).strict = c.strict := rfl
@[simp] theorem Ctx.emptyV_pure (c : Ctx) (r : VNum) : (c.emptyV r).pure = c.pure := rfl
@[simp] theorem Ctx.emptyV_coresUnit (c : Ctx) (r : VNum) : (c.emptyV r).coresUnit = c.coresUnit := rfl
@[simp] theorem Ctx.emptyV_loads (c : Ctx) (r : VNum) : (c.emptyV r).loads = c.loads := rfl
@[simp] theorem Ctx.emptyV_stop (c : Ctx) (r : VNum) : (c.emptyV r).stop = c.stop := rfl
@[simp] theorem Ctx.emptyV_preemptReq (c : Ctx) (r : VNum) : (c.emptyV r).preemptReq = c.preemptReq := rfl
@[simp] theorem Ctx.emptyV_cancelReq (c : Ctx) (r : VNum) : (c.emptyV r).cancelReq = c.cancelReq := rfl
@[simp] theorem Ctx.emptyV_memerr (c : Ctx) (r : VNum) : (c.emptyV r).memerr = c.memerr := rfl
@[simp] theorem Ctx.emptyV_unknown (c : Ctx) (r : VNum) : (c.emptyV r).unknown = c.unknown := rfl
@[simp] theorem Ctx.emptyV_fencing (c : Ctx) (r : VNum) : (c.emptyV r).fencing = c.fencing := rfl
@[simp] theorem Ctx.emptyV_fenceLines (c : Ctx) (r : VNum) : (c.emptyV r).fenceLines = c.fenceLines := rfl
@[simp] theorem Ctx.emptyV_sbWait (c : Ctx) (r : VNum) : (c.emptyV r).sbWait = c.sbWait := rfl
@[simp] theorem Ctx.emptyV_fifoWait (c : Ctx) (r : VNum) : (c.emptyV r).fifoWait = c.fifoWait := rfl
@[simp] theorem Ctx.emptyV_ending (c : Ctx) (r : VNum) : (c.emptyV r).ending = c.ending := rfl
@[simp] theorem Ctx.emptyV_reply (c : Ctx) (r : VNum) : (c.emptyV r).reply = c.reply := rfl
@[simp] theorem Ctx.emptyV_asked (c : Ctx) (r : VNum) : (c.emptyV r).asked = c.asked := rfl
@[simp] theorem Ctx.emptyV_pageWait (c : Ctx) (r : VNum) : (c.emptyV r).pageWait = c.pageWait := rfl
@[simp] theorem Ctx.emptyV_reserved (c : Ctx) (r : VNum) : (c.emptyV r).reserved = c.reserved := rfl
@[simp] theorem Ctx.emptyV_heldUnit (c : Ctx) (r : VNum) : (c.emptyV r).heldUnit = c.heldUnit := rfl
@[simp] theorem Ctx.emptyV_freed (c : Ctx) (r : VNum) : (c.emptyV r).freed = c.freed := rfl
@[simp] theorem Ctx.emptyV_stealing (c : Ctx) (r : VNum) : (c.emptyV r).stealing = c.stealing := rfl
@[simp] theorem Ctx.emptyV_probe (c : Ctx) (r : VNum) : (c.emptyV r).probe = c.probe := rfl

/-! ### addFlags -/

@[simp] theorem Ctx.addFlags_role (c : Ctx) (f : Flags) : (c.addFlags f).role = c.role := rfl
@[simp] theorem Ctx.addFlags_s (c : Ctx) (f : Flags) : (c.addFlags f).s = c.s := rfl
@[simp] theorem Ctx.addFlags_sEmpty (c : Ctx) (f : Flags) : (c.addFlags f).sEmpty = c.sEmpty := rfl
@[simp] theorem Ctx.addFlags_v (c : Ctx) (f : Flags) : (c.addFlags f).v = c.v := rfl
@[simp] theorem Ctx.addFlags_vEmpty (c : Ctx) (f : Flags) : (c.addFlags f).vEmpty = c.vEmpty := rfl
@[simp] theorem Ctx.addFlags_k (c : Ctx) (f : Flags) : (c.addFlags f).k = c.k := rfl
@[simp] theorem Ctx.addFlags_kEmpty (c : Ctx) (f : Flags) : (c.addFlags f).kEmpty = c.kEmpty := rfl
@[simp] theorem Ctx.addFlags_h (c : Ctx) (f : Flags) : (c.addFlags f).h = c.h := rfl
@[simp] theorem Ctx.addFlags_pc (c : Ctx) (f : Flags) : (c.addFlags f).pc = c.pc := rfl
@[simp] theorem Ctx.addFlags_pfx (c : Ctx) (f : Flags) : (c.addFlags f).pfx = c.pfx := rfl
@[simp] theorem Ctx.addFlags_rmode (c : Ctx) (f : Flags) : (c.addFlags f).rmode = c.rmode := rfl
@[simp] theorem Ctx.addFlags_urgency (c : Ctx) (f : Flags) : (c.addFlags f).urgency = c.urgency := rfl
@[simp] theorem Ctx.addFlags_budget (c : Ctx) (f : Flags) : (c.addFlags f).budget = c.budget := rfl
@[simp] theorem Ctx.addFlags_stkbase (c : Ctx) (f : Flags) : (c.addFlags f).stkbase = c.stkbase := rfl
@[simp] theorem Ctx.addFlags_frame (c : Ctx) (f : Flags) : (c.addFlags f).frame = c.frame := rfl
@[simp] theorem Ctx.addFlags_cause (c : Ctx) (f : Flags) : (c.addFlags f).cause = c.cause := rfl
@[simp] theorem Ctx.addFlags_faddr (c : Ctx) (f : Flags) : (c.addFlags f).faddr = c.faddr := rfl
@[simp] theorem Ctx.addFlags_fpc (c : Ctx) (f : Flags) : (c.addFlags f).fpc = c.fpc := rfl
@[simp] theorem Ctx.addFlags_enck (c : Ctx) (f : Flags) : (c.addFlags f).enck = c.enck := rfl
@[simp] theorem Ctx.addFlags_enctau (c : Ctx) (f : Flags) : (c.addFlags f).enctau = c.enctau := rfl
@[simp] theorem Ctx.addFlags_enceps (c : Ctx) (f : Flags) : (c.addFlags f).enceps = c.enceps := rfl
@[simp] theorem Ctx.addFlags_encdict (c : Ctx) (f : Flags) : (c.addFlags f).encdict = c.encdict := rfl
@[simp] theorem Ctx.addFlags_lastjob (c : Ctx) (f : Flags) : (c.addFlags f).lastjob = c.lastjob := rfl
@[simp] theorem Ctx.addFlags_handlercap (c : Ctx) (f : Flags) : (c.addFlags f).handlercap = c.handlercap := rfl
@[simp] theorem Ctx.addFlags_vd (c : Ctx) (f : Flags) : (c.addFlags f).vd = c.vd := rfl
@[simp] theorem Ctx.addFlags_tenant (c : Ctx) (f : Flags) : (c.addFlags f).tenant = c.tenant := rfl
@[simp] theorem Ctx.addFlags_jobid (c : Ctx) (f : Flags) : (c.addFlags f).jobid = c.jobid := rfl
@[simp] theorem Ctx.addFlags_launchid (c : Ctx) (f : Flags) : (c.addFlags f).launchid = c.launchid := rfl
@[simp] theorem Ctx.addFlags_unitidx (c : Ctx) (f : Flags) : (c.addFlags f).unitidx = c.unitidx := rfl
@[simp] theorem Ctx.addFlags_record (c : Ctx) (f : Flags) : (c.addFlags f).record = c.record := rfl
@[simp] theorem Ctx.addFlags_strict (c : Ctx) (f : Flags) : (c.addFlags f).strict = c.strict := rfl
@[simp] theorem Ctx.addFlags_pure (c : Ctx) (f : Flags) : (c.addFlags f).pure = c.pure := rfl
@[simp] theorem Ctx.addFlags_coresUnit (c : Ctx) (f : Flags) : (c.addFlags f).coresUnit = c.coresUnit := rfl
@[simp] theorem Ctx.addFlags_loads (c : Ctx) (f : Flags) : (c.addFlags f).loads = c.loads := rfl
@[simp] theorem Ctx.addFlags_stop (c : Ctx) (f : Flags) : (c.addFlags f).stop = c.stop := rfl
@[simp] theorem Ctx.addFlags_preemptReq (c : Ctx) (f : Flags) : (c.addFlags f).preemptReq = c.preemptReq := rfl
@[simp] theorem Ctx.addFlags_cancelReq (c : Ctx) (f : Flags) : (c.addFlags f).cancelReq = c.cancelReq := rfl
@[simp] theorem Ctx.addFlags_memerr (c : Ctx) (f : Flags) : (c.addFlags f).memerr = c.memerr := rfl
@[simp] theorem Ctx.addFlags_unknown (c : Ctx) (f : Flags) : (c.addFlags f).unknown = c.unknown := rfl
@[simp] theorem Ctx.addFlags_fencing (c : Ctx) (f : Flags) : (c.addFlags f).fencing = c.fencing := rfl
@[simp] theorem Ctx.addFlags_fenceLines (c : Ctx) (f : Flags) : (c.addFlags f).fenceLines = c.fenceLines := rfl
@[simp] theorem Ctx.addFlags_sbWait (c : Ctx) (f : Flags) : (c.addFlags f).sbWait = c.sbWait := rfl
@[simp] theorem Ctx.addFlags_fifoWait (c : Ctx) (f : Flags) : (c.addFlags f).fifoWait = c.fifoWait := rfl
@[simp] theorem Ctx.addFlags_ending (c : Ctx) (f : Flags) : (c.addFlags f).ending = c.ending := rfl
@[simp] theorem Ctx.addFlags_reply (c : Ctx) (f : Flags) : (c.addFlags f).reply = c.reply := rfl
@[simp] theorem Ctx.addFlags_asked (c : Ctx) (f : Flags) : (c.addFlags f).asked = c.asked := rfl
@[simp] theorem Ctx.addFlags_pageWait (c : Ctx) (f : Flags) : (c.addFlags f).pageWait = c.pageWait := rfl
@[simp] theorem Ctx.addFlags_reserved (c : Ctx) (f : Flags) : (c.addFlags f).reserved = c.reserved := rfl
@[simp] theorem Ctx.addFlags_heldUnit (c : Ctx) (f : Flags) : (c.addFlags f).heldUnit = c.heldUnit := rfl
@[simp] theorem Ctx.addFlags_freed (c : Ctx) (f : Flags) : (c.addFlags f).freed = c.freed := rfl
@[simp] theorem Ctx.addFlags_stealing (c : Ctx) (f : Flags) : (c.addFlags f).stealing = c.stealing := rfl
@[simp] theorem Ctx.addFlags_probe (c : Ctx) (f : Flags) : (c.addFlags f).probe = c.probe := rfl

end Sys2Proof.Machine
end

