-- ==== Sys2Proof/Laws/Registers.lean ====
section
/-!
SUPPORT. Parts of the state and registers of a context: a read after a write, and what a write leaves.
-/
namespace Sys2Proof.Machine

/-! ### Parts of the state -/

theorem State.ctx_setCtx (s : State) (c d : Nat) (x : Ctx) : (s.setCtx c x).ctx d = if d = c then x else s.ctx d :=
  kget_kput _ _ _ _ _
@[simp] theorem State.ctx_setCtx_same (s : State) (c : Nat) (x : Ctx) : (s.setCtx c x).ctx c = x := kget_kput_same ..
@[simp] theorem State.ctx_setCore (s : State) (k c : Nat) (x : Core) : (s.setCore k x).ctx c = s.ctx c := rfl
@[simp] theorem State.ctx_setPier (s : State) (p c : Nat) (x : Pier) : (s.setPier p x).ctx c = s.ctx c := rfl
@[simp] theorem State.core_setCtx (s : State) (c k : Nat) (x : Ctx) : (s.setCtx c x).core k = s.core k := rfl
@[simp] theorem State.core_setPier (s : State) (p k : Nat) (x : Pier) : (s.setPier p x).core k = s.core k := rfl
@[simp] theorem State.pier_setCtx (s : State) (c p : Nat) (x : Ctx) : (s.setCtx c x).pier p = s.pier p := rfl
@[simp] theorem State.pier_setCore (s : State) (k p : Nat) (x : Core) : (s.setCore k x).pier p = s.pier p := rfl
theorem State.core_setCore (s : State) (k l : Nat) (x : Core) : (s.setCore k x).core l = if l = k then x else s.core l :=
  kget_kput _ _ _ _ _
@[simp] theorem State.core_setCore_same (s : State) (k : Nat) (x : Core) : (s.setCore k x).core k = x := kget_kput_same ..
theorem State.pier_setPier (s : State) (p q : Nat) (x : Pier) : (s.setPier p x).pier q = if q = p then x else s.pier q :=
  kget_kput _ _ _ _ _
@[simp] theorem State.pier_setPier_same (s : State) (p : Nat) (x : Pier) : (s.setPier p x).pier p = x := kget_kput_same ..
@[simp] theorem State.deck_setDeck_same (s : State) (d : Nat) (x : Deck) : (s.setDeck d x).deck d = x := kget_kput_same ..
@[simp] theorem State.vdev?_setVdev_same (s : State) (v : Nat) (x : VDev) : (s.setVdev v x).vdev? v = some x :=
  kget?_kput_same ..
@[simp] theorem State.job?_setJob_same (s : State) (j : Nat) (x : JobRec) : (s.setJob j x).job? j = some x :=
  kget?_kput_same ..
@[simp] theorem State.launch?_setLaunch_same (s : State) (l : Nat) (x : Launch) : (s.setLaunch l x).launch? l = some x :=
  kget?_kput_same ..
@[simp] theorem State.queue?_setQueue_same (s : State) (q : Nat) (x : Queue) : (s.setQueue q x).queue? q = some x :=
  kget?_kput_same ..
@[simp] theorem State.me_setMe (s : State) (x : Ctx) : (s.setMe x).me = x := kget_kput_same ..
@[simp] theorem State.core_setMe (s : State) (k : Nat) (x : Ctx) : (s.setMe x).core k = s.core k := rfl
@[simp] theorem State.pier_setMe (s : State) (p : Nat) (x : Ctx) : (s.setMe x).pier p = s.pier p := rfl
@[simp] theorem State.me_setCore (s : State) (k : Nat) (x : Core) : (s.setCore k x).me = s.me := rfl
@[simp] theorem State.me_setPier (s : State) (p : Nat) (x : Pier) : (s.setPier p x).me = s.me := rfl
@[simp] theorem State.me_takeFree (s : State) : s.takeFree.me = s.me := rfl

/-- A step ends in the next state exactly where no system access failed. -/
theorem State.done_of {s : State} (h : s.broken = none) : s.done = .next s := by simp [State.done, h]

theorem State.done_next {s t : State} (h : s.done = .next t) : t = s ∧ s.broken = none := by
  unfold State.done at h
  split at h
  · cases h; exact ⟨rfl, by assumption⟩
  · cases h

/-! ### Scalars (R91, R92) -/

theorem Ctx.getS_setS (c : Ctx) (r q : SReg) (w : Word) :
    (c.setS r w).getS q = if q = 0 then 0 else if q = r then w else c.getS q := by
  unfold Ctx.getS Ctx.setS
  by_cases hq : q = 0
  · simp [hq]
  · by_cases hr : r = 0
    · subst hr; simp_all
    · simp only [if_neg hq, if_neg hr, kget_kput]
      by_cases h : q = r
      · simp [h]
      · rw [if_neg (fun e => h (BitVec.eq_of_toNat_eq e)), if_neg h]

theorem lsb_clear {n : Nat} (b : BitVec n) (i j : Nat) (hj : j < n) :
    (b &&& ~~~(1#n <<< i)).getLsbD j = (b.getLsbD j && (j ≠ i)) := by
  simp only [BitVec.getLsbD_and, BitVec.getLsbD_not, BitVec.getLsbD_shiftLeft, BitVec.getLsbD_one, hj]
  by_cases h : j = i
  · subst h; simp; omega
  · rcases Nat.lt_or_ge j i with hl | hl
    · simp [h, hl]
    · have : j - i ≠ 0 := by omega
      simp [h, this]

theorem lsb_set {n : Nat} (b : BitVec n) (i j : Nat) (hj : j < n) :
    (b ||| (1#n <<< i)).getLsbD j = (b.getLsbD j || (j = i)) := by
  simp only [BitVec.getLsbD_or, BitVec.getLsbD_shiftLeft, BitVec.getLsbD_one, hj]
  by_cases h : j = i
  · subst h; simp; omega
  · rcases Nat.lt_or_ge j i with hl | hl
    · simp [h, hl]
    · have : j - i ≠ 0 := by omega
      simp [h, this]

theorem Ctx.fullS_setS (c : Ctx) (r q : SReg) (w : Word) :
    (c.setS r w).fullS q = (decide (q = r) || c.fullS q) := by
  unfold Ctx.fullS Ctx.setS
  by_cases hq : q = 0
  · simp [hq]
  · by_cases hr : r = 0
    · subst hr; simp_all
    · simp only [hq, if_neg hr, lsb_clear _ _ _ q.isLt]
      by_cases h : q = r
      · simp [h]
      · have : q.toNat ≠ r.toNat := fun e => h (BitVec.eq_of_toNat_eq e)
        simp [h, this]

@[simp] theorem Ctx.getS_zero (c : Ctx) : c.getS 0#6 = 0#64 := by simp [Ctx.getS]
@[simp] theorem Ctx.fullS_zero (c : Ctx) : c.fullS 0#6 = true := by simp [Ctx.fullS]

@[simp] theorem Ctx.getS_emptyS (c : Ctx) (r q : SReg) : (c.emptyS r).getS q = c.getS q := by
  simp [Ctx.getS]

theorem Ctx.fullS_emptyS (c : Ctx) (r q : SReg) :
    (c.emptyS r).fullS q = (decide (q = 0) || (decide (q ≠ r) && c.fullS q)) := by
  unfold Ctx.fullS Ctx.emptyS
  by_cases hq : q = 0
  · simp [hq]
  · by_cases hr : r = 0
    · subst hr; simp_all
    · simp only [if_neg hr, lsb_set _ _ _ q.isLt]
      by_cases h : q = r
      · simp_all
      · have : q.toNat ≠ r.toNat := fun e => h (BitVec.eq_of_toNat_eq e)
        simp_all

/-! ### Guards (R94, R106) -/

theorem Ctx.getK_setK (c : Ctx) (r q : KReg) (w : Word) :
    (c.setK r w).getK q = if q = 0 then BitVec.allOnes 64 else if q = r then w else c.getK q := by
  unfold Ctx.getK Ctx.setK
  by_cases hq : q = 0
  · simp [hq]
  · by_cases hr : r = 0
    · subst hr; simp_all
    · simp only [if_neg hq, if_neg hr, kget_kput]
      by_cases h : q = r
      · simp [h]
      · rw [if_neg (fun e => h (BitVec.eq_of_toNat_eq e)), if_neg h]

theorem Ctx.fullK_setK (c : Ctx) (r q : KReg) (w : Word) :
    (c.setK r w).fullK q = (decide (q = r) || c.fullK q) := by
  unfold Ctx.fullK Ctx.setK
  by_cases hq : q = 0
  · simp [hq]
  · by_cases hr : r = 0
    · subst hr; simp_all
    · simp only [hq, if_neg hr, lsb_clear _ _ _ q.isLt]
      by_cases h : q = r
      · simp [h]
      · have : q.toNat ≠ r.toNat := fun e => h (BitVec.eq_of_toNat_eq e)
        simp [h, this]

@[simp] theorem Ctx.getK_zero (c : Ctx) : c.getK 0#3 = BitVec.allOnes 64 := by simp [Ctx.getK]
@[simp] theorem Ctx.fullK_zero (c : Ctx) : c.fullK 0#3 = true := by simp [Ctx.fullK]
@[simp] theorem Ctx.getK_emptyK (c : Ctx) (r q : KReg) : (c.emptyK r).getK q = c.getK q := by
  simp [Ctx.getK]

theorem Ctx.fullK_emptyK (c : Ctx) (r q : KReg) :
    (c.emptyK r).fullK q = (decide (q = 0) || (decide (q ≠ r) && c.fullK q)) := by
  unfold Ctx.fullK Ctx.emptyK
  by_cases hq : q = 0
  · simp [hq]
  · by_cases hr : r = 0
    · subst hr; simp_all
    · simp only [if_neg hr, lsb_set _ _ _ q.isLt]
      by_cases h : q = r
      · simp_all
      · have : q.toNat ≠ r.toNat := fun e => h (BitVec.eq_of_toNat_eq e)
        simp_all

/-! ### Vectors (R120) -/

theorem Ctx.getV_setV (c : Ctx) (r q : VNum) (x : VReg) : (c.setV r x).getV q = if q = r then x else c.getV q := by
  unfold Ctx.getV Ctx.setV
  simp only [kget_kput]
  by_cases h : q = r
  · simp [h]
  · rw [if_neg (fun e => h (BitVec.eq_of_toNat_eq e)), if_neg h]

theorem Ctx.fullV_setV (c : Ctx) (r q : VNum) (x : VReg) :
    (c.setV r x).fullV q = (decide (q = r) || c.fullV q) := by
  unfold Ctx.fullV Ctx.setV
  simp only [lsb_clear _ _ _ q.isLt]
  by_cases h : q = r
  · simp [h]
  · have : q.toNat ≠ r.toNat := fun e => h (BitVec.eq_of_toNat_eq e)
    simp [h, this]

@[simp] theorem Ctx.getV_emptyV (c : Ctx) (r q : VNum) : (c.emptyV r).getV q = c.getV q := rfl

theorem Ctx.fullV_emptyV (c : Ctx) (r q : VNum) : (c.emptyV r).fullV q = (decide (q ≠ r) && c.fullV q) := by
  unfold Ctx.fullV Ctx.emptyV
  simp only [lsb_set _ _ _ q.isLt]
  by_cases h : q = r
  · simp [h]
  · have : q.toNat ≠ r.toNat := fun e => h (BitVec.eq_of_toNat_eq e)
    simp [h, this]

/-! ### Registers under the other updates -/

@[simp] theorem Ctx.getK_setS (c : Ctx) (r : SReg) (q : KReg) (w : Word) : (c.setS r w).getK q = c.getK q := by
  simp [Ctx.getK]
@[simp] theorem Ctx.fullK_setS (c : Ctx) (r : SReg) (q : KReg) (w : Word) : (c.setS r w).fullK q = c.fullK q := by
  simp [Ctx.fullK]
@[simp] theorem Ctx.getV_setS (c : Ctx) (r : SReg) (q : VNum) (w : Word) : (c.setS r w).getV q = c.getV q := by
  simp [Ctx.getV]
@[simp] theorem Ctx.fullV_setS (c : Ctx) (r : SReg) (q : VNum) (w : Word) : (c.setS r w).fullV q = c.fullV q := by
  simp [Ctx.fullV]
@[simp] theorem Ctx.getS_setK (c : Ctx) (r : KReg) (q : SReg) (w : Word) : (c.setK r w).getS q = c.getS q := by
  simp [Ctx.getS]
@[simp] theorem Ctx.fullS_setK (c : Ctx) (r : KReg) (q : SReg) (w : Word) : (c.setK r w).fullS q = c.fullS q := by
  simp [Ctx.fullS]
@[simp] theorem Ctx.getV_setK (c : Ctx) (r : KReg) (q : VNum) (w : Word) : (c.setK r w).getV q = c.getV q := by
  simp [Ctx.getV]
@[simp] theorem Ctx.fullV_setK (c : Ctx) (r : KReg) (q : VNum) (w : Word) : (c.setK r w).fullV q = c.fullV q := by
  simp [Ctx.fullV]
@[simp] theorem Ctx.getS_setV (c : Ctx) (r : VNum) (q : SReg) (x : VReg) : (c.setV r x).getS q = c.getS q := rfl
@[simp] theorem Ctx.fullS_setV (c : Ctx) (r : VNum) (q : SReg) (x : VReg) : (c.setV r x).fullS q = c.fullS q := rfl
@[simp] theorem Ctx.getK_setV (c : Ctx) (r : VNum) (q : KReg) (x : VReg) : (c.setV r x).getK q = c.getK q := rfl
@[simp] theorem Ctx.fullK_setV (c : Ctx) (r : VNum) (q : KReg) (x : VReg) : (c.setV r x).fullK q = c.fullK q := rfl
@[simp] theorem Ctx.getS_addFlags (c : Ctx) (f : Flags) (q : SReg) : (c.addFlags f).getS q = c.getS q := rfl
@[simp] theorem Ctx.fullS_addFlags (c : Ctx) (f : Flags) (q : SReg) : (c.addFlags f).fullS q = c.fullS q := rfl

end Sys2Proof.Machine
end

