-- ==== Sys2Proof/Laws/Issue.lean ====
section
/-!
SUPPORT. What the gate and the end of an instruction can do: the body runs exactly when nothing stops the group before it,
and a completed group changes the executing context, the step mark of its core, and answers kept for it.
-/
namespace Sys2Proof.Machine

/-- Where nothing stops the group, the gate is the body. -/
theorem gate_body {s : State} {f : Form} {body : Ctx → Verdict}
    (h1 : groupBad s.me.pfx f.acc = false) (h2 : f.illegal = false) (h3 : s.me.fullK f.guard.slot = true)
    (h4 : f.scalarGuard = true → (guardWord s.me f.guard).getLsbD 0 = true) (h5 : ¬ s.me.level < f.minLevel)
    (h6 : f.srcs.all (fun r => srcFull s.me r) = true) (h7 : f.badTag s.me = false)
    (h8 : f.dsts.all (fun d => !dstPending s d) = true) : gate s f body = body s.me := by
  have a1 : f.srcs.any (fun r => !srcTraps r && !srcFull s.me r) = false := by
    rw [List.any_eq_false]; rw [List.all_eq_true] at h6
    intro r hr; simp [h6 r hr]
  have a2 : f.srcs.any (fun r => !srcFull s.me r) = false := by
    rw [List.any_eq_false]; rw [List.all_eq_true] at h6
    intro r hr; simp [h6 r hr]
  have a3 : f.dsts.any (dstPending s) = false := by
    rw [List.any_eq_false]; rw [List.all_eq_true] at h8
    intro r hr; simpa using h8 r hr
  unfold gate
  simp only [h1, h2, h3, h5, a1, h7, a2, a3, Bool.or_self, Bool.false_eq_true, if_false, Bool.not_true]
  split
  · rename_i h
    simp only [Bool.and_eq_true, Bool.not_eq_true'] at h
    rw [h4 h.1] at h; exact absurd h.2 (by simp)
  · rfl

/-- A guard that is full and false lets the group pass without effect. -/
theorem gate_off {s : State} {f : Form} {body : Ctx → Verdict}
    (h1 : groupBad s.me.pfx f.acc = false) (h2 : f.illegal = false) (h3 : s.me.fullK f.guard.slot = true)
    (h4 : f.scalarGuard = true) (h5 : (guardWord s.me f.guard).getLsbD 0 = false) : gate s f body = .ok s := by
  unfold gate
  simp only [h1, h2, h3, h4, h5, Bool.or_self, Bool.false_eq_true, if_false, Bool.not_true, Bool.not_false, Bool.and_self,
    if_true]

/-- A group whose prefixes it does not accept is ILLEGAL, whatever else holds. -/
theorem gate_illegal {s : State} {f : Form} {body : Ctx → Verdict}
    (h : groupBad s.me.pfx f.acc = true ∨ f.illegal = true) : gate s f body = trapFree s .illegal := by
  unfold gate
  rw [if_pos]
  rcases h with h | h <;> simp [h]

/-- A register that is full has no producer to wait for (R92). -/
theorem dstPending_full {s : State} {r : SReg} (h : s.me.fullS r = true) : dstPending s (.s r) = false := by
  simp [dstPending, h]

@[simp] theorem dstPending_v (s : State) (r : VNum) : dstPending s (.v r) = s.me.pendingV r := rfl

theorem Ctx.pendingV_full {x : Ctx} {r : VNum} (h : x.fullV r = true) : x.pendingV r = false := by
  simp [Ctx.pendingV, h]

/-! ### The end of a group -/

@[simp] theorem stepUsed_broken (s : State) (k : Nat) : (stepUsed s k).broken = s.broken := by
  unfold stepUsed; split <;> rfl
@[simp] theorem stepUsed_me (s : State) (k : Nat) : (stepUsed s k).me = s.me := by
  unfold stepUsed; split <;> rfl
@[simp] theorem stepUsed_cur (s : State) (k : Nat) : (stepUsed s k).cur = s.cur := by
  unfold stepUsed; split <;> rfl
@[simp] theorem stepUsed_ctxs (s : State) (k : Nat) : (stepUsed s k).ctxs = s.ctxs := by
  unfold stepUsed; split <;> rfl

theorem stepUsed_frame (s : State) (k : Nat) : stepUsed s k = { s with cores := (stepUsed s k).cores } := by
  unfold stepUsed; split <;> rfl

theorem stepUsed_core (s : State) (k l : Nat) :
    (stepUsed s k).core l = { s.core l with stepping := ((stepUsed s k).core l).stepping } := by
  unfold stepUsed
  split
  · rw [State.core_setCore]; split
    · subst_vars; rfl
    · rfl
  · rfl

@[simp] theorem dropArrived_broken (s : State) (c : Nat) : (dropArrived s c).broken = s.broken := by
  unfold dropArrived; split <;> rfl
@[simp] theorem dropArrived_ctxs (s : State) (c : Nat) : (dropArrived s c).ctxs = s.ctxs := by
  unfold dropArrived; split <;> rfl
@[simp] theorem dropArrived_cur (s : State) (c : Nat) : (dropArrived s c).cur = s.cur := by
  unfold dropArrived; split <;> rfl
@[simp] theorem dropArrived_me (s : State) (c : Nat) : (dropArrived s c).me = s.me := by
  unfold dropArrived; split <;> rfl

theorem dropArrived_frame (s : State) (c : Nat) :
    dropArrived s c = { s with arrived := (dropArrived s c).arrived, remote := (dropArrived s c).remote } := by
  unfold dropArrived; split <;> rfl

/-- A remote access keeps all but whose operand it is. -/
theorem dropArrived_remote (s : State) (c : Nat) :
    (dropArrived s c).remote.map (fun r => { r with who := .operand 0 }) =
      s.remote.map (fun r => { r with who := .operand 0 }) := by
  unfold dropArrived
  split
  · rfl
  · simp only [List.map_map]
    apply List.map_congr_left
    intro r _
    simp only [Function.comp]
    split <;> rfl

@[simp] theorem retire_broken (s : State) (pc : Nat) : (retire s pc).broken = s.broken := by
  unfold retire; simp
@[simp] theorem retire_cur (s : State) (pc : Nat) : (retire s pc).cur = s.cur := by
  unfold retire; simp

/-- What a retired group leaves of its context. -/
theorem retire_me (s : State) (pc : Nat) :
    (retire s pc).me = { s.me with pc := pc % 2 ^ 48, pfx := [], reply := none, asked := false, sbWait := false, fifoWait := none
                                   probe := false } := by
  unfold retire; simp

theorem retire_frame (s : State) (pc : Nat) :
    retire s pc = { s with ctxs := (retire s pc).ctxs, arrived := (retire s pc).arrived
                           remote := (retire s pc).remote } := by
  unfold retire State.setMe State.setCtx dropArrived; split <;> rfl

theorem retire_remote (s : State) (pc : Nat) :
    (retire s pc).remote.map (fun r => { r with who := .operand 0 }) =
      s.remote.map (fun r => { r with who := .operand 0 }) := by
  unfold retire; simp only [State.setMe_remote]; exact dropArrived_remote _ _

theorem retire_ctx (s : State) (pc c : Nat) (h : c ≠ s.cur) : (retire s pc).ctx c = s.ctx c := by
  unfold retire State.setMe; rw [State.ctx_setCtx, if_neg (by simpa using h)]; simp [State.ctx]

theorem conclude_ok {s0 s : State} (h : s.broken = none) :
    conclude s0 (.ok s) = .next (retire (stepUsed s (coreOfCtx s0.cur)) (nextPc s0.me)) :=
  State.done_of (by rw [retire_broken, stepUsed_broken, h])

theorem conclude_jump {s0 s : State} (h : s.broken = none) (pc : Nat) :
    conclude s0 (.jump s pc) = .next (retire (stepUsed s (coreOfCtx s0.cur)) pc) :=
  State.done_of (by rw [retire_broken, stepUsed_broken, h])

theorem conclude_left {s0 s : State} (h : s.broken = none) :
    conclude s0 (.left s) = .next (stepUsed s (coreOfCtx s0.cur)) :=
  State.done_of (by rw [stepUsed_broken, h])

theorem conclude_wait {s0 s : State} (h : s.broken = none) (h2 : stopDue s.me = false) :
    conclude s0 (.wait s) = .next s := by
  simp [conclude, h2, State.done_of h]

end Sys2Proof.Machine
end

