-- ==== Sys2Proof/Laws/Results.lean ====
section
/-!
SUPPORT. An instruction that ends with a register written gives the states that the statements describe.
-/
namespace Sys2Proof.Machine

theorem sameBytes_of {s t : State}
    (h : t = { s with ctxs := t.ctxs, cores := t.cores, arrived := t.arrived, remote := t.remote }) : SameBytes s t := by
  rw [h]; exact ⟨fun _ => rfl, fun _ => rfl, fun _ => rfl, fun _ => rfl, rfl⟩

/-- The group of a state whose context became y has retired. -/
theorem retired (s : State) (y : Ctx) (k pc : Nat) :
    (retire (stepUsed (s.setMe y) k) pc).me =
      { y with pc := pc % 2 ^ 48, pfx := [], reply := none, asked := false, sbWait := false, fifoWait := none, probe := false } ∧
    Elsewhere s (retire (stepUsed (s.setMe y) k) pc) := by
  have hme : (retire (stepUsed (s.setMe y) k) pc).me = { y with pc := pc % 2 ^ 48, pfx := [], reply := none, asked := false, sbWait := false, fifoWait := none, probe := false } := by
    rw [retire_me]; simp
  refine ⟨hme, ?_⟩
  have h4 : ∀ l, (retire (stepUsed (s.setMe y) k) pc).core l = { s.core l with stepping := ((retire (stepUsed (s.setMe y) k) pc).core l).stepping } := by
    intro l
    have e : ∀ l, (retire (stepUsed (s.setMe y) k) pc).core l = (stepUsed (s.setMe y) k).core l := by
      intro l; rw [retire_frame]; rfl
    rw [e, stepUsed_core]; rfl
  have h3 : ∀ c, c ≠ s.cur → (retire (stepUsed (s.setMe y) k) pc).ctx c = s.ctx c := by
    intro c hc
    rw [retire_ctx _ _ _ (by simpa using hc)]
    simp only [State.ctx, stepUsed_ctxs, State.setMe, State.setCtx]
    exact kget_kput_ne _ hc _ _
  have h2 := retire_remote (stepUsed (s.setMe y) k) pc
  have hr : (stepUsed (s.setMe y) k).remote = s.remote := by rw [stepUsed_frame]; rfl
  rw [hr] at h2
  have hf : (retire (stepUsed (s.setMe y) k) pc) = { s with ctxs := (retire (stepUsed (s.setMe y) k) pc).ctxs, cores := (retire (stepUsed (s.setMe y) k) pc).cores, arrived := (retire (stepUsed (s.setMe y) k) pc).arrived, remote := (retire (stepUsed (s.setMe y) k) pc).remote } := by
    obtain ⟨cs, hx⟩ : ∃ cs, stepUsed (s.setMe y) k = { s.setMe y with cores := cs } := ⟨_, stepUsed_frame _ _⟩
    obtain ⟨a, b, c, hy⟩ : ∃ a b c, retire (stepUsed (s.setMe y) k) pc = { stepUsed (s.setMe y) k with ctxs := a, arrived := b, remote := c } := ⟨_, _, _, retire_frame _ _⟩
    rw [hy, hx]; rfl
  exact ⟨hf, h2, h3, h4, sameBytes_of hf⟩

/-- The PC holds 48 bits (R95), so that narrowing the next address again changes nothing. -/
theorem nextPc_mod (x : Ctx) : nextPc x % 2 ^ 48 = (x.pc + 4 * x.pfx.length + 4) % 2 ^ 48 := Nat.mod_mod _ _

theorem wroteS_of {s : State} (hb : s.broken = none) (d : SReg) (w : Word) :
    ∃ t, conclude s (.ok (setD s d w)) = .next t ∧ WroteS s d w t := by
  refine ⟨_, conclude_ok (by simpa [setD] using hb), ?_⟩
  obtain ⟨hm, he⟩ := retired s (s.me.setS d w) (coreOfCtx s.cur) (nextPc s.me)
  unfold setD
  unfold WroteS Goes
  refine ⟨?_, ?_, ?_, ?_, ?_, ?_, ?_, he⟩
  · rw [hm]; exact (Ctx.getS_setS _ _ _ _).trans (by split <;> simp)
  · rw [hm]; exact (Ctx.fullS_setS _ _ _ _).trans (by simp)
  · rw [hm]; simp
  · intro q hq; rw [hm]
    simp only [List.mem_singleton] at hq
    constructor
    · refine (Ctx.getS_setS _ _ _ _).trans ?_
      rw [if_neg hq]; split
      · subst_vars; simp
      · rfl
    · exact (Ctx.fullS_setS _ _ _ _).trans (by simp [hq])
  · intro q _; rw [hm]; exact ⟨Ctx.getK_setS .., Ctx.fullK_setS ..⟩
  · intro q _; rw [hm]; exact ⟨Ctx.getV_setS .., Ctx.fullV_setS ..⟩
  · rw [hm, nextPc_mod]; unfold SameControls
    unfold Ctx.setS; split <;> rfl

theorem wroteK_of {s : State} (hb : s.broken = none) (d : KReg) (w : Word) :
    ∃ t, conclude s (.ok (s.setMe (s.me.setK d w))) = .next t ∧ WroteK s d w t := by
  refine ⟨_, conclude_ok (by simpa using hb), ?_⟩
  obtain ⟨hm, he⟩ := retired s (s.me.setK d w) (coreOfCtx s.cur) (nextPc s.me)
  unfold WroteK Goes
  refine ⟨?_, ?_, ?_, ?_, ?_, ?_, ?_, he⟩
  · rw [hm]; exact (Ctx.getK_setK _ _ _ _).trans (by split <;> simp)
  · rw [hm]; exact (Ctx.fullK_setK _ _ _ _).trans (by simp)
  · rw [hm]; simp
  · intro q _; rw [hm]; exact ⟨Ctx.getS_setK .., Ctx.fullS_setK ..⟩
  · intro q hq; rw [hm]
    simp only [List.mem_singleton] at hq
    constructor
    · refine (Ctx.getK_setK _ _ _ _).trans ?_
      rw [if_neg hq]; split
      · subst_vars; simp
      · rfl
    · exact (Ctx.fullK_setK _ _ _ _).trans (by simp [hq])
  · intro q _; rw [hm]; exact ⟨Ctx.getV_setK .., Ctx.fullV_setK ..⟩
  · rw [hm, nextPc_mod]; unfold SameControls
    unfold Ctx.setK; split <;> rfl

/-! ### The shapes of the scalar instructions -/

theorem scalar3_gives {s : State} {acc : Accept} {o : R3} {f : Bool → Word → Word → Word} {w : Word}
    (h1 : FullS s [o.a, o.b, o.d]) (h2 : GuardOn s o.g) (h3 : Accepts s acc)
    (hw : f (modsOf s.me.pfx).sat (s.me.getS o.a) (s.me.getS o.b) = w) :
    ∃ t, scalar3 s acc o f = .next t ∧ WroteS s o.d w t := by
  subst hw
  unfold scalar3
  rw [gate_body h3.2 rfl h2.1 (fun _ => h2.2) (by simp [formR]) _ rfl _]
  · exact wroteS_of h3.1 _ _
  · simp [formR, srcFull, h1 o.a (by simp), h1 o.b (by simp)]
  · simp [formR, dstPending_full (h1 o.d (by simp))]

theorem scalar2_gives {s : State} {o : R2} {f : Word → Word} {w : Word}
    (h1 : FullS s [o.a, o.d]) (h2 : GuardOn s o.g) (h3 : Accepts s accNone) (hw : f (s.me.getS o.a) = w) :
    ∃ t, scalar2 s o f = .next t ∧ WroteS s o.d w t := by
  subst hw
  unfold scalar2
  rw [gate_body h3.2 rfl h2.1 (fun _ => h2.2) (by simp [formR]) _ rfl _]
  · exact wroteS_of h3.1 _ _
  · simp [formR, srcFull, h1 o.a (by simp)]
  · simp [formR, dstPending_full (h1 o.d (by simp))]

theorem scalarI_gives {s : State} {acc : Accept} {o : I2} {f : Bool → Word → Word → Word} {w : Word}
    (h1 : FullS s [o.a, o.d]) (h2 : GuardOn s (modGuard s.me.pfx)) (h3 : Accepts s acc)
    (hw : f (modsOf s.me.pfx).sat (s.me.getS o.a) (immOf o.imm s.me.pfx) = w) :
    ∃ t, scalarI s acc o f = .next t ∧ WroteS s o.d w t := by
  subst hw
  unfold scalarI
  rw [gate_body h3.2 rfl h2.1 (fun _ => h2.2) (by simp) _ rfl _]
  · exact wroteS_of h3.1 _ _
  · simp [srcFull, h1 o.a (by simp)]
  · simp [dstPending_full (h1 o.d (by simp))]

theorem scalarSh_gives {s : State} {o : ISh} {f : Word → Word → Word} {w : Word}
    (h1 : FullS s [o.a, o.d]) (h2 : GuardOn s (modGuard s.me.pfx)) (h3 : Accepts s accG)
    (hw : f (s.me.getS o.a) (o.n.setWidth 64) = w) :
    ∃ t, scalarSh s o f = .next t ∧ WroteS s o.d w t := by
  subst hw
  unfold scalarSh
  rw [gate_body h3.2 rfl h2.1 (fun _ => h2.2) (by simp) _ rfl _]
  · exact wroteS_of h3.1 _ _
  · simp [srcFull, h1 o.a (by simp)]
  · simp [dstPending_full (h1 o.d (by simp))]

theorem compareR_gives {s : State} {o : RCmp} {f : Word → Word → Bool} {b : Bool}
    (h1 : FullS s [o.a, o.b]) (h2 : GuardOn s o.g) (h3 : Accepts s accNone)
    (hw : f (s.me.getS o.a) (s.me.getS o.b) = b) :
    ∃ t, compareR s o f = .next t ∧ WroteK s o.k (if b then BitVec.allOnes 64 else 0) t := by
  subst hw
  unfold compareR
  rw [gate_body h3.2 rfl h2.1 (fun _ => h2.2) (by simp [formR]) _ rfl _]
  · exact wroteK_of h3.1 _ _
  · simp [formR, srcFull, h1 o.a (by simp), h1 o.b (by simp)]
  · simp [formR]

theorem compareI_gives {s : State} {o : ICmp} {f : Word → Word → Bool} {b : Bool}
    (h1 : FullS s [o.a]) (h2 : GuardOn s (modGuard s.me.pfx)) (h3 : Accepts s accXG)
    (hw : f (s.me.getS o.a) (immOf o.imm s.me.pfx) = b) :
    ∃ t, compareI s o f = .next t ∧ WroteK s o.k (if b then BitVec.allOnes 64 else 0) t := by
  subst hw
  unfold compareI
  rw [gate_body h3.2 rfl h2.1 (fun _ => h2.2) (by simp) _ rfl _]
  · exact wroteK_of h3.1 _ _
  · simp [srcFull, h1 o.a (by simp)]
  · simp

end Sys2Proof.Machine
end

