-- ==== Sys2Proof/Tests/Slice0.lean ====
section
/-!
SUPPORT. Tests of this model, and witnesses that the hypotheses of the statements can be met. Expected values are those of the
spec's rules and examples, not of the model.
-/
namespace Sys2Proof.Tests
open Sys2Proof Sys2Proof.Machine

/- The proofs below are evaluations; one after the other they need little memory. -/
set_option Elab.async false

/-! ### Small states -/

/-- A unit of pier 0 about to fetch; nothing else is under way. -/
def s0 : State := State.reset.withFetchWord 32 0

/-- s with a changed context. -/
def me (s : State) (f : Ctx → Ctx) : State := s.setMe (f s.me)

/-- Scalars of the executing context. -/
def sc (s : State) (l : List (SReg × Word)) : State := me s (fun x => l.foldl (fun x e => x.setS e.1 e.2) x)

/-- Vectors of the executing context. -/
def vc (s : State) (l : List (VNum × VReg)) : State := me s (fun x => l.foldl (fun x e => x.setV e.1 e.2) x)

/-- A vector with this tag and these bits. -/
def vr (f : Fmt) (n : Nat) (side : Word := 0) : VReg := ⟨BitVec.ofNat 1024 n, BitVec.ofNat 4 f.code, side⟩

/-- Prefixes before the instruction. -/
def pf (s : State) (ws : List IWord) : State := me s (fun x => { x with pfx := ws })

/-- The unguarded guard field. -/
def g0 : Guard := ⟨0, false⟩

/-- Every condition of a list holds. -/
def holds (l : List Bool) : Bool := l.all id

/-- A read is done, and what it gives satisfies a condition. -/
def gives {α : Type} (x : Got α) (f : State → α → Bool) : Bool :=
  match x with
  | .ok s a => f s a
  | _ => false

/-- `PlacedAt`, as a test. -/
def placed (s : State) (w : Who) (k : AKind) (as : List Nat) (ls : List Loc) : Bool :=
  match placeAll s w k true as with
  | .ok ps => decide (ps.map (fun p => p.loc) = ls) &&
      ps.all (fun p => decide (p.strong = false ∧ (k = .write → p.trk = false) ∧ nearLoc p.loc = true))
  | .error _ => false

theorem placed_spec {s : State} {w : Who} {k : AKind} {as : List Nat} {ls : List Loc} (h : placed s w k as ls = true) :
    PlacedAt s w k as ls := by
  unfold placed at h
  split at h
  · rename_i ps hp
    simp only [Bool.and_eq_true, decide_eq_true_eq, List.all_eq_true] at h
    exact ⟨ps, hp, h.1, h.2⟩
  · exact absurd h (by simp)

/-- `Reaches`, as a test. -/
def reaches (s : State) (k : AKind) (as : List Nat) (ls : List Loc) : Bool := placed s (meWho s) k as ls

/-- `MappedApart`, as a test. -/
def apart (s : State) (vd va pa : Nat) (rs : List (Nat × Nat)) : Bool :=
  (match walk s.mem (rootOf s vd) va with
   | some x => leafPeer x == 0 && !bit x 11 && !absentPa pa && pa == leafFrame x * 65536 + va % leafPages x
   | none => false) &&
  (walkReads s.mem va 4 1 (rootOf s vd)).all (fun e => rs.all (fun r => decide (e + 8 ≤ r.1 ∨ r.1 + r.2 ≤ e)))

theorem apart_spec {s : State} {vd va pa : Nat} {rs : List (Nat × Nat)} (h : apart s vd va pa rs = true) :
    MappedApart s vd va pa rs := by
  unfold apart at h
  rw [Bool.and_eq_true] at h
  obtain ⟨h1, h2⟩ := h
  refine ⟨?_, fun e he r hr => ?_⟩
  · split at h1
    · rename_i x hx
      simp only [Bool.and_eq_true, beq_iff_eq, Bool.not_eq_true'] at h1
      exact ⟨x, hx, h1.1.1.1, h1.1.1.2, h1.1.2, h1.2⟩
    · exact absurd h1 (by simp)
  · rw [List.all_eq_true] at h2
    have h3 := h2 e he
    rw [List.all_eq_true] at h3
    simpa using h3 r hr

/-- `RecordAndFrame`, as a test. -/
def recFrame (s : State) (vd r rpa f fpa : Nat) : Bool :=
  apart s vd r rpa [(rpa, 64), (fpa, 8192)] && apart s vd f fpa [(rpa, 64), (fpa, 8192)] &&
  decide (r % 64 = 0 ∧ f % 8192 = 0 ∧ (rpa + 64 ≤ fpa ∨ fpa + 8192 ≤ rpa))

/-! ### Decoding -/

/-- Words written out from the encodings of R70, R81 and R82 decode to these instructions, also by the numbering of the table. -/
def decodes (l : List (Nat × Instr)) : Bool :=
  l.all (fun e => match decodeWord e.1 with | .ok i => i == e.2 && decodeTableWord 32 e.1 == some i | .error _ => false)

theorem test_words_1 : decodes [
    (0x02BDDDAB, .add ⟨47, 29, 54, true, false, ⟨5, true⟩⟩), (0x03C1EDAB, .sub ⟨48, 30, 54, true, false, ⟨5, true⟩⟩),
    (0x04C5FDAB, .mul ⟨49, 31, 54, true, false, ⟨5, true⟩⟩), (0x05CA0DAB, .mulh ⟨50, 32, 54, true, false, ⟨5, true⟩⟩),
    (0x06CE1DAB, .mulhn ⟨51, 33, 54, true, false, ⟨5, true⟩⟩), (0x07B5BDAB, .div ⟨45, 27, 54, true, false, ⟨5, true⟩⟩),
    (0x08B9CDAB, .divn ⟨46, 28, 54, true, false, ⟨5, true⟩⟩), (0x09BDDDAB, .rem ⟨47, 29, 54, true, false, ⟨5, true⟩⟩),
    (0x0AC1EDAB, .remn ⟨48, 30, 54, true, false, ⟨5, true⟩⟩), (0x0BC5FDAB, .and ⟨49, 31, 54, true, false, ⟨5, true⟩⟩),
    (0x0CCA0DAB, .or ⟨50, 32, 54, true, false, ⟨5, true⟩⟩), (0x0DCE1DAB, .xor ⟨51, 33, 54, true, false, ⟨5, true⟩⟩),
    (0x0EB5BDAB, .shl ⟨45, 27, 54, true, false, ⟨5, true⟩⟩), (0x0FB9CDAB, .shr ⟨46, 28, 54, true, false, ⟨5, true⟩⟩),
    (0x10BDDDAB, .sar ⟨47, 29, 54, true, false, ⟨5, true⟩⟩)] = true := by decide +kernel

theorem test_words_2 : decodes [
    (0x11C1EDAB, .rot ⟨48, 30, 54, true, false, ⟨5, true⟩⟩), (0x12C5FDAB, .min ⟨49, 31, 54, true, false, ⟨5, true⟩⟩),
    (0x13CA0DAB, .max ⟨50, 32, 54, true, false, ⟨5, true⟩⟩), (0x14CE1DAB, .minn ⟨51, 33, 54, true, false, ⟨5, true⟩⟩),
    (0x15B5BDAB, .maxn ⟨45, 27, 54, true, false, ⟨5, true⟩⟩), (0x18C1EDAB, .bfx ⟨48, 30, 54, true, false, ⟨5, true⟩⟩),
    (0x19C5FDAB, .bfi ⟨49, 31, 54, true, false, ⟨5, true⟩⟩), (0x1ACA0DAB, .sel ⟨50, 32, 54, true, false, ⟨5, true⟩⟩),
    (0x1BCE1DAB, .lea ⟨51, 33, 54, true, false, ⟨5, true⟩⟩), (0x34B5BDAB, .fadd ⟨45, 27, 54, true, false, ⟨5, true⟩⟩),
    (0x35B9CDAB, .fsub ⟨46, 28, 54, true, false, ⟨5, true⟩⟩), (0x36BDDDAB, .fmul ⟨47, 29, 54, true, false, ⟨5, true⟩⟩),
    (0x37C1EDAB, .ffma ⟨48, 30, 54, true, false, ⟨5, true⟩⟩), (0x38C5FDAB, .fdiv ⟨49, 31, 54, true, false, ⟨5, true⟩⟩),
    (0x3CBDDDAB, .fmin ⟨47, 29, 54, true, false, ⟨5, true⟩⟩)] = true := by decide +kernel

theorem test_words_3 : decodes [
    (0x3DC1EDAB, .fmax ⟨48, 30, 54, true, false, ⟨5, true⟩⟩), (0x16B9C02B, .clz ⟨46, 28, true, ⟨5, true⟩⟩),
    (0x17BDD02B, .popc ⟨47, 29, true, ⟨5, true⟩⟩), (0x1CB5B02B, .mov ⟨45, 27, true, ⟨5, true⟩⟩), (0x39CA002B, .fsqrt ⟨50, 32, true, ⟨5, true⟩⟩),
    (0x41B5B02B, .jrl ⟨45, 27, true, ⟨5, true⟩⟩), (0x20B9CCD2, .addi ⟨46, 28, true, 1234⟩), (0x21BDDCD2, .andi ⟨47, 29, true, 1234⟩),
    (0x22C1ECD2, .ori ⟨48, 30, true, 1234⟩), (0x23C5FCD2, .xori ⟨49, 31, true, 1234⟩), (0x28BDDCD2, .muli ⟨47, 29, true, 1234⟩),
    (0x24CA0829, .shli ⟨50, 32, true, 41⟩), (0x25CE1829, .shri ⟨51, 33, true, 41⟩), (0x26B5B829, .sari ⟨45, 27, true, 41⟩),
    (0x27B804D2, .movi ⟨46, 1234⟩)] = true := by decide +kernel

theorem test_words_4 : decodes [
    (0x42B804D2, .loop ⟨46, 1234⟩), (0x29D5EDAB, .cmp ⟨6, 5, 30, 54, true, false, ⟨5, true⟩⟩),
    (0x2AD5FDAB, .cmpn ⟨6, 5, 31, 54, true, false, ⟨5, true⟩⟩), (0x3AD61DAB, .fcmp ⟨6, 5, 33, 54, true, false, ⟨5, true⟩⟩),
    (0x2BD60CD2, .cmpi ⟨6, 5, 32, true, 1234⟩), (0x2CD61CD2, .cmpni ⟨6, 5, 33, true, 1234⟩), (0x2D0C60AB, .kand ⟨3, 6, 2, true, false, ⟨5, true⟩⟩),
    (0x2E0C60AB, .kor ⟨3, 6, 2, true, false, ⟨5, true⟩⟩), (0x2F0C60AB, .kxor ⟨3, 6, 2, true, false, ⟨5, true⟩⟩),
    (0x300C602B, .knot ⟨3, 6, true, ⟨5, true⟩⟩), (0x310C602B, .kmov ⟨3, 6, true, ⟨5, true⟩⟩), (0x32C8602B, .kget ⟨50, 6, true, ⟨5, true⟩⟩),
    (0x330C000B, .kclr ⟨3, ⟨5, true⟩⟩), (0x3BB5B22B, .fcvtTo ⟨45, 27, .bf16, true, ⟨5, true⟩⟩),
    (0x3BB9C62B, .fcvtFrom ⟨46, 28, .bf16, true, ⟨5, true⟩⟩)] = true := by decide +kernel

theorem test_words_5 : decodes [
    (0x3EB9ABCD, .br ⟨⟨5, true⟩, 633805⟩), (0x3FB9ABCD, .brl ⟨⟨5, true⟩, 633805⟩), (0x4002102B, .jr ⟨33, true, ⟨5, true⟩⟩), (0x4401E000, .susp ⟨30⟩),
    (0xA701D000, .jwait ⟨29⟩), (0xCF01B000, .join ⟨27⟩), (0xDD01C001, .cancelLaunch ⟨28⟩), (0xDD01D002, .cancelGraph ⟨29⟩),
    (0xDD01E003, .cancelPhase ⟨30⟩), (0xDD01F004, .cancelJob ⟨31⟩), (0xE201E000, .unlease ⟨30⟩), (0xE301F000, .pgadv ⟨31⟩),
    (0x47CC0013, .getc ⟨51, 19⟩), (0x4801B813, .setc ⟨27, true, 19⟩), (0x49B8000B, .rdcyc ⟨46, ⟨5, true⟩⟩)] = true := by decide +kernel

theorem test_words_6 : decodes [
    (0x5050C26B, .vadd ⟨20, 12, 9, true, false, ⟨5, true⟩⟩), (0x5150C26B, .vsub ⟨20, 12, 9, true, false, ⟨5, true⟩⟩),
    (0x5250C26B, .vmul ⟨20, 12, 9, true, false, ⟨5, true⟩⟩), (0x5350C26B, .vfma ⟨20, 12, 9, true, false, ⟨5, true⟩⟩),
    (0x5450C26B, .vmin ⟨20, 12, 9, true, false, ⟨5, true⟩⟩), (0x5550C26B, .vmax ⟨20, 12, 9, true, false, ⟨5, true⟩⟩),
    (0x5650C26B, .vdiv ⟨20, 12, 9, true, false, ⟨5, true⟩⟩), (0x5D50C26B, .viadd ⟨20, 12, 9, true, false, ⟨5, true⟩⟩),
    (0x5E50C26B, .visub ⟨20, 12, 9, true, false, ⟨5, true⟩⟩), (0x5F50C26B, .vimul ⟨20, 12, 9, true, false, ⟨5, true⟩⟩),
    (0x6050C26B, .vand ⟨20, 12, 9, true, false, ⟨5, true⟩⟩), (0x6150C26B, .vor ⟨20, 12, 9, true, false, ⟨5, true⟩⟩),
    (0x6250C26B, .vxor ⟨20, 12, 9, true, false, ⟨5, true⟩⟩), (0x6350C26B, .vshl ⟨20, 12, 9, true, false, ⟨5, true⟩⟩),
    (0x6450C26B, .vshr ⟨20, 12, 9, true, false, ⟨5, true⟩⟩)] = true := by decide +kernel

theorem test_words_7 : decodes [
    (0x6550C26B, .vsar ⟨20, 12, 9, true, false, ⟨5, true⟩⟩), (0x6650C26B, .vimin ⟨20, 12, 9, true, false, ⟨5, true⟩⟩),
    (0x6750C26B, .vimax ⟨20, 12, 9, true, false, ⟨5, true⟩⟩), (0x6D50C26B, .vperm ⟨20, 12, 9, true, false, ⟨5, true⟩⟩),
    (0x6F50C26B, .vsel ⟨20, 12, 9, true, false, ⟨5, true⟩⟩), (0x5750C02B, .vsqrt ⟨20, 12, true, ⟨5, true⟩⟩),
    (0x5850C02B, .vrcp ⟨20, 12, true, ⟨5, true⟩⟩), (0x5950C02B, .vrsq ⟨20, 12, true, ⟨5, true⟩⟩), (0x5A50C02B, .vexp2 ⟨20, 12, true, ⟨5, true⟩⟩),
    (0x5B50C02B, .vlog2 ⟨20, 12, true, ⟨5, true⟩⟩), (0x6950C02B, .vmov ⟨20, 12, true, ⟨5, true⟩⟩), (0x7050C02B, .vcomp ⟨20, 12, true, ⟨5, true⟩⟩),
    (0x7150C02B, .vexpd ⟨20, 12, true, ⟨5, true⟩⟩), (0x7951002B, .vpack ⟨20, 16, true, ⟨5, true⟩⟩),
    (0x7A40C02B, .vunpk ⟨16, 12, true, ⟨5, true⟩⟩)] = true := by decide +kernel

theorem test_words_8 : decodes [
    (0x5CD4C26B, .vcmp ⟨6, 5, 12, 9, true, false, ⟨5, true⟩⟩), (0x68D4C26B, .vicmp ⟨6, 5, 12, 9, true, false, ⟨5, true⟩⟩),
    (0x6A51B22B, .vbcast ⟨20, 27, .bf16, true, ⟨5, true⟩⟩), (0x6BB8CDAB, .vextr ⟨46, 12, 54, true, false, ⟨5, true⟩⟩),
    (0x6C51D96B, .vins ⟨20, 29, 37, true, false, ⟨5, true⟩⟩), (0x6E50C96B, .vslide ⟨20, 12, 37, true, false, ⟨5, true⟩⟩),
    (0x720CC02B, .vnz ⟨3, 12, true, ⟨5, true⟩⟩), (0x7350020B, .viota ⟨20, .bf16, ⟨5, true⟩⟩), (0x7B5002CB, .vtag ⟨20, .e4m3, ⟨5, true⟩⟩),
    (0x7D5002CB, .vzero ⟨20, .e4m3, ⟨5, true⟩⟩), (0x74C0C02B, .vrsum ⟨48, 12, true, ⟨5, true⟩⟩), (0x75C4C02B, .vrmax ⟨49, 12, true, ⟨5, true⟩⟩),
    (0x76C8C02B, .vrmin ⟨50, 12, true, ⟨5, true⟩⟩), (0x77CCC26B, .vdot ⟨51, 12, 9, true, false, ⟨5, true⟩⟩),
    (0x7850C22B, .vcvt ⟨20, 12, .bf16, true, ⟨5, true⟩⟩)] = true := by decide +kernel

theorem test_words_9 : decodes [
    (0x7CC4C02B, .vsideGet ⟨49, 12, true, ⟨5, true⟩⟩), (0x7C52006B, .vsideSet ⟨20, 32, true, ⟨5, true⟩⟩), (0x90B5BAD5, .ldb ⟨45, 27, 2, 725⟩),
    (0x91B9CAD5, .ldh ⟨46, 28, 2, 725⟩), (0x92BDDAD5, .ldw ⟨47, 29, 2, 725⟩), (0x93C1EAD5, .ldd ⟨48, 30, 2, 725⟩),
    (0x94C5FAD5, .ldbn ⟨49, 31, 2, 725⟩), (0x95CA0AD5, .ldhn ⟨50, 32, 2, 725⟩), (0x96CE1AD5, .ldwn ⟨51, 33, 2, 725⟩),
    (0x9799BAD5, .stb ⟨38, 27, 2, 725⟩), (0x9899CAD5, .sth ⟨38, 28, 2, 725⟩), (0x9999DAD5, .stw ⟨38, 29, 2, 725⟩),
    (0x9A99EAD5, .std ⟨38, 30, 2, 725⟩), (0x9B55FA15, .ldv ⟨21, 31, 2, .bf16, 21⟩),
    (0x9C560A15, .stv ⟨21, 32, 2, .bf16, 21⟩)] = true := by decide +kernel

theorem test_words_10 : decodes [
    (0x9D52526A, .ldx ⟨20, 37, 9, 2, true, 2⟩), (0x9E52526A, .stx ⟨20, 37, 9, 2, true, 2⟩), (0x9F51C2E0, .tld ⟨20, 28, 11, 2⟩),
    (0xA051D2E0, .tst ⟨20, 29, 11, 2⟩), (0xA1C1ED97, .atom ⟨48, 30, 54, true, .or⟩), (0xA2C5FD90, .cas ⟨49, 31, 54, true⟩),
    (0xA300001A, .fence ⟨.device, .release⟩), (0xA4021D81, .feset ⟨33, 54, true⟩), (0xA5B5BD80, .copy ⟨45, 27, 54⟩),
    (0xA6B9CD80, .copyg ⟨46, 28, 54⟩), (0xA9C5FD80, .zscan ⟨49, 31, 54⟩), (0xA9CA0D81, .zscanIb ⟨50, 32, 54⟩), (0xB0B9CD80, .trld ⟨46, 28, 54⟩),
    (0xB3C5FD80, .acrd ⟨49, 31, 54⟩), (0xB4CA0D80, .acwr ⟨50, 32, 54⟩)] = true := by decide +kernel

theorem test_words_11 : decodes [
    (0xB6B5BD80, .wmark ⟨45, 27, 54⟩), (0xBCBDDD80, .dinst ⟨47, 29, 54⟩), (0xBDC1ED80, .datom ⟨48, 30, 54⟩), (0xBEC5FD80, .dver ⟨49, 31, 54⟩),
    (0xC0CE1D80, .dqry ⟨51, 33, 54⟩), (0xC1B5BD80, .enc ⟨45, 27, 54⟩), (0xC2B9CD80, .dec ⟨46, 28, 54⟩), (0xC3BDDD80, .acci ⟨47, 29, 54⟩),
    (0xC4C1ED80, .imgbld ⟨48, 30, 54⟩), (0xC5C5FD80, .imginv ⟨49, 31, 54⟩), (0xC6CA0D80, .imgld ⟨50, 32, 54⟩), (0xC8CE1D80, .send ⟨51, 33, 54⟩),
    (0xC9B9CD81, .sendcM ⟨46, 28, 54⟩), (0xCDCA0D80, .ovpop ⟨50, 32, 54⟩), (0xCECE1D80, .fork ⟨51, 33, 54⟩)] = true := by decide +kernel

theorem test_words_12 : decodes [
    (0xD1BDDD80, .launch ⟨47, 29, 54⟩), (0xD4CA0D80, .crwait ⟨50, 32, 54⟩), (0xD8CE1D80, .cnew ⟨51, 33, 54⟩), (0xD8B5BD81, .cnewPhase ⟨45, 27, 54⟩),
    (0xDAC1ED80, .cwait ⟨48, 30, 54⟩), (0xDAC5FD81, .cwaitPh ⟨49, 31, 54⟩), (0xDFCE1D80, .accnt ⟨51, 33, 54⟩), (0xE1BDDD80, .lease ⟨47, 29, 54⟩),
    (0xEACA0D80, .rinv ⟨50, 32, 54⟩), (0xEBCE1D80, .chash ⟨51, 33, 54⟩), (0xECB5BD80, .entset ⟨45, 27, 54⟩), (0xEFCA0D80, .relocOut ⟨50, 32, 54⟩),
    (0xEFCE1D81, .relocIn ⟨51, 33, 54⟩), (0xEFB5BD82, .relocDrain ⟨45, 27, 54⟩), (0xA801E2D5, .pref ⟨30, 725⟩)] = true := by decide +kernel

theorem test_words_13 : decodes [
    (0xAACE1D81, .cgath ⟨51, 33, 54, true⟩), (0xABB5BD85, .cscat ⟨45, 27, 54, false, .add16, true⟩), (0xB1BDD000, .trfree ⟨47, 29⟩),
    (0xB5CE1000, .acz ⟨51, 33⟩), (0xBFCA0000, .dret ⟨50, 32⟩), (0xCABDD000, .post ⟨47, 29⟩), (0xCBC1E000, .recv ⟨48, 30⟩),
    (0xCCC5F000, .rcancel ⟨49, 31⟩), (0xD0B9C000, .spawn ⟨46, 28⟩), (0xD3C5F000, .qpop ⟨49, 31⟩), (0xD8B9C002, .cnewFree ⟨46, 28⟩),
    (0xDECA0000, .perfrd ⟨50, 32⟩), (0xE4CA0000, .pgqry ⟨50, 32⟩), (0xE4CE1001, .pgqryRes ⟨51, 33⟩),
    (0xE9C5F000, .rprobe ⟨49, 31⟩)] = true := by decide +kernel

theorem test_words_14 : decodes [
    (0xF0B9C000, .dbghalt ⟨46, 28⟩), (0xF0BDD001, .dbghaltResume ⟨47, 29⟩), (0xF0C1E002, .dbghaltStep ⟨48, 30⟩),
    (0xB2C1EDA8, .mma ⟨48, 30, 54, 2, true⟩), (0xB7B9CD89, .accvt ⟨46, 28, 54, false, 9⟩), (0xC9B40D80, .sendc ⟨45, 54⟩),
    (0xD201ED80, .qpush ⟨30, 54⟩), (0xD901DD80, .cadd ⟨29, 54⟩), (0xDC021D80, .arrive ⟨33, 54⟩), (0xDD01BD80, .cancelUnit ⟨27, 54⟩),
    (0xED01CD80, .eretResume ⟨28, 54⟩), (0xDBCA0D85, .expect ⟨50, 32, 54, 5⟩), (0xE001BD84, .tlbinv ⟨27, 54, .deck⟩),
    (0xE001CD85, .tlbinvAll ⟨28, 54, .deck⟩), (0xE52DBD80, .hset ⟨11, 27, 54⟩)] = true := by decide +kernel

theorem test_words_15 : decodes [
    (0xE6B8BD80, .hget ⟨46, 11, 54⟩), (0xE7BCBD80, .relayout ⟨47, 11, 54⟩), (0xE8C0BD80, .rlwait ⟨48, 11, 54⟩), (0xED000D81, .eretEnd ⟨54⟩),
    (0xED000002, .eretPark), (0xEEC5F002, .preempt ⟨49, 31, .job⟩)] = true := by decide +kernel

/-! ### Ill-formed terms are refused (R71, R77, R82) -/

theorem test_ill_formed : holds ([
    Instr.cmp ⟨0, 0, 1, 2, false, false, g0⟩, .cmpi ⟨0, 0, 1, false, 5⟩, .kand ⟨0, 1, 2, false, false, g0⟩, .knot ⟨0, 1, false, g0⟩, .kclr ⟨0, g0⟩,
    .vcmp ⟨0, 0, 1, 2, false, false, g0⟩, .expect ⟨1, 2, 3, 0⟩, .fcvtTo ⟨1, 2, .fp32, false, g0⟩, .fcvtFrom ⟨1, 2, .e2m1x, false, g0⟩,
    .vbcast ⟨1, 2, .e2m1x, false, g0⟩, .vcvt ⟨1, 2, .e2m1x, false, g0⟩, .viota ⟨1, .e4m3, g0⟩, .vpack ⟨1, 2, false, g0⟩, .vunpk ⟨2, 1, false, g0⟩,
    .getc ⟨1, 26⟩, .setc ⟨1, false, 26⟩, .atom ⟨1, 2, 3, false, .fadd32⟩, .modPfx 1].map (fun i => !i.wf)) = true := by decide +kernel

theorem test_well_formed : holds ([
    Instr.cmp ⟨0, 1, 1, 2, false, false, g0⟩, .fcvtTo ⟨1, 2, .e4m3, false, g0⟩, .viota ⟨1, .fp32, g0⟩, .vpack ⟨1, 4, false, g0⟩, .vunpk ⟨28, 1, false, g0⟩,
    .getc ⟨1, 25⟩, .atom ⟨1, 2, 3, true, .fadd32⟩, .modPfx 0xA0].map Instr.wf) = true := by decide +kernel

/-! ### Single steps on the words of the spec's examples -/

/-- The executing context after one step on a word. -/
def after (s : State) (w : Nat) : Ctx :=
  match step (s.withFetchWord 32 w) with
  | .next t => t.ctx 0
  | _ => Ctx.reset

/-- 05_registers_scalar, the example: the product grows by the counter. -/
theorem test_mul : (after (sc s0 [(4, 4), (5, 5)]) 0x04145100).getS 5 = 20 := by decide +kernel

/-- The same example: LOOP counts down and branches one word back, and falls through at 0 (R112). -/
theorem test_loop : let x := after (sc s0 [(4, 5)]) 0x421007FF
    let y := after (sc s0 [(4, 1)]) 0x421007FF
    x.getS 4 = 4 ∧ x.pc + 4 = s0.me.pc ∧ y.getS 4 = 0 ∧ y.pc = s0.me.pc + 4 := by decide +kernel

/-- The same example: 120 is greater than 100, and 100 is not. -/
theorem test_cmpi : (after (sc s0 [(5, 120)]) 0x2BA45064).getK 1 = BitVec.allOnes 64 ∧ (after (sc s0 [(5, 100)]) 0x2BA45064).getK 1 = 0 := by
  decide +kernel

/-- The same example: the ADDI of the group runs under guard 1 of its MOD word. -/
theorem test_guarded_addi : (after (me (pf (sc s0 [(5, 120)]) [0xFD0000A0]) (fun x => x.setK 1 (BitVec.allOnes 64))) 0x20145001).getS 5 = 121 ∧
    (after (pf (sc s0 [(5, 120)]) [0xFD0000A0]) 0x20145001).getS 5 = 120 := by decide +kernel

theorem test_movi : (after s0 0x27100005).getS 4 = 5 ∧ (after s0 0x272007FF).getS 8 = BitVec.allOnes 64 ∧
    (after (pf s0 [0xFC084000]) 0x27180000).getS 6 = 0x42000000 := by decide +kernel

/-- 06_registers_vector, the example: lane i of the ramp is i, and VSLIDE by one takes lane 0 of the next register (R139). -/
theorem test_viota : let x := after s0 0x731001C0
    laneOf (x.getV 4) .fp32 31 = 0x41F80000 ∧ laneOf (x.getV 4) .fp32 1 = 0x3F800000 ∧ (x.getV 4).tag.toNat = 7 := by decide +kernel

theorem test_vbcast : laneOf ((after (sc s0 [(6, 0x42000000)]) 0x6A1861C0).getV 6) .fp32 31 = 0x42000000 := by decide +kernel

theorem test_vslide : let x := after (vc (sc s0 [(7, 1)]) [(3, vr .fp32 0), (4, vr .fp32 (2 ^ 32 * 9)), (5, vr .fp32 0x42000000)]) 0x6E2041C0
    laneOf (x.getV 8) .fp32 31 = 0x42000000 ∧ laneOf (x.getV 8) .fp32 0 = 9 := by decide +kernel

/-- A write of s0 is discarded, and addition wraps at 64 bits (R91, R101). -/
theorem test_add : (after (sc s0 [(1, BitVec.allOnes 64), (2, 2)]) 0x020C1080).getS 3 = 1 ∧ (after (sc s0 [(1, 1), (2, 2)]) 0x02001080).getS 0 = 0 := by
  decide +kernel

/-- A word that is no instruction starts the fault entry with ILLEGAL at its own address (R41, R72, R378). -/
theorem test_illegal : let x := after s0 0x80000000
    x.role = .entry .unit ∧ x.cause = 1 ∧ x.fpc = BitVec.ofNat 64 s0.me.pc ∧ x.pc = bootVa + 0x800 := by decide +kernel

/-! ### Number formats (R53 to R62, the tables of 03_number_formats) -/

theorem test_convert : [(Fmt.bf16, 0xC020), (.fp16, 0xC100), (.e5m2, 0xC1), (.e4m3, 0xC2)].all (fun e =>
    convert .fp32 e.1 Mods.none .nearest 0xC0200000 == (e.2, FlagBits.none)) = true := by decide +kernel

theorem test_nan : [(Fmt.bf16, 0x7FC0), (.fp16, 0x7E00), (.e5m2, 0x7E), (.e4m3, 0x7F)].all (fun e =>
    (convert .fp32 e.1 Mods.none .nearest 0x7FC00000).1 == e.2) = true := by decide +kernel

/-- 2^-160 in mode 1 is +0 with UF and NX. -/
theorem test_underflow : arith2 opMul .fp32 Mods.none .zero 0x17800000 0x17800000 = (0, FlagBits.unf ||| FlagBits.nx) := by decide +kernel

/-- Trim: I8 −93 enters as −80, E4M3 13 as 12. -/
theorem test_trim : trimValue .i8 4 (256 - 93) = FVal.ofInt (-80) ∧ FVal.cmp (trimValue .e4m3 2 0x55) (.fin false 12 0) = .eq := by decide +kernel

/-! ### Places and translation -/

theorem test_decks : deckOfPier (pierAt 3 5) = 0 ∧ deckOfPier (pierAt 130 40) = 13 := by decide +kernel

/-- The walk of the example of 10_tables_translation. -/
theorem test_walk :
    let put (m : Mem) (e : Nat × Nat) : Mem := memWrite m e.1 (leBytes 8 e.2)
    let m := [(0x30000010010, 0x0030000011000001), (0x30000011468, 0x0030000012000001), (0x30000012158, 0x0030000013000001),
      (0x30000013038, 0x005002340000001B)].foldl put []
    (walk m 0x30000010000 0x0123456789AB).map (fun x => leafFrame x * 65536 + 0x0123456789AB % leafPages x) = some 0x500234089AB := by decide +kernel

/-- SHA-512 and SHA-512/256 of "abc", from FIPS 180-4. -/
theorem test_sha : sha512 [0x61, 0x62, 0x63] = (leBytes 64 0xDDAF35A193617ABACC417349AE20413112E6FA4E89A97EA20A9EEEE64B55D39A2192992A274FC1A836BA3C23A3FEEBBD454D4423643CE80E2A9AC94FA54CA49F).reverse ∧
    sha256of512 [0x61, 0x62, 0x63] = (leBytes 32 0x53048E2681941EF99B2E29B76B4C7DABE4C2D0C634FC6D46E0E2F13107E7AF23).reverse := by decide +kernel

/-! ### Witnesses: scalar and vector statements -/

def r3 : R3 := ⟨3, 1, 2, false, false, g0⟩
def sA : State := sc s0 [(1, 0x7FFFFFFFFFFFFFFF), (2, 64)]

theorem witness_IntegerThreeRegister : holds [
    decide (FullS sA [1, 2, 3] ∧ GuardOn sA g0 ∧ Accepts sA accIS ∧ Accepts sA accNone),
    decide (Accepts (pf sA [0xFD800000]) accIS ∧ saturates (pf sA [0xFD800000]) = true)] = true := by decide +kernel

/-- All four cases: b = 0, b ≠ 0, the overflowing quotient, and any other. -/
theorem witness_DivisionAndRemainder :
    [(5, 0), (0x8000000000000000, 0xFFFFFFFFFFFFFFFF), (0x8000000000000000, 1)].all (fun e =>
      let s := sc s0 [(1, e.1), (2, e.2)]
      decide (FullS s [1, 2, 3] ∧ GuardOn s g0 ∧ Accepts s accNone) && (e.2 == 0 || s.me.getS 2 != 0)) = true := by decide +kernel

theorem witness_BitFieldsAndSelect : [0, 0x3F, 0xC03F, 0x40].all (fun b : Word =>
    let s := sc s0 [(1, 0x8000000000000001), (2, b)]
    decide (FullS s [1, 2, 3] ∧ Accepts s accNone ∧ GuardOn s g0)) = true := by decide +kernel

theorem witness_OneSourceAndImmediateInstructions : holds [
    decide (FullS sA [1, 3] ∧ GuardOn sA g0 ∧ Accepts sA accNone),
    decide (GuardOn sA (modGuard sA.me.pfx) ∧ Accepts sA accXGS ∧ Accepts sA accXG ∧ Accepts sA accG),
    decide (Accepts (pf sA [0xFC123456, 0xFC000001]) accXG ∧ GuardOn (pf sA [0xFC123456]) (modGuard [0xFC123456]))] = true := by
  decide +kernel

theorem witness_ComparesAndGuardOperations : holds [
    decide (FullS sA [1, 2] ∧ GuardOn sA g0 ∧ Accepts sA accNone ∧ Accepts sA accXG ∧ FullS sA [3]),
    decide (sA.me.fullK 1 = true ∧ sA.me.fullK 2 = true),
    [0, 1, 2, 3, 4, 5, 6, 7].all (fun cc => [(1, 1), (1, 2), (2, 1)].any (fun e : Nat × Nat =>
      decide (intCond cc e.1 e.2 (BitVec.ofNat 64 e.1) (BitVec.ofNat 64 e.2)))),
    [0, 1, 2, 3, 4, 5, 6, 7].all (fun cc => [(1, 1), (1, 2), (2, 1)].any (fun e : Nat × Nat =>
      decide (¬ intCond cc e.1 e.2 (BitVec.ofNat 64 e.1) (BitVec.ofNat 64 e.2))))] = true := by decide +kernel

theorem witness_ScalarFloatResults :
    decide (FullS sA [1, 2, 3] ∧ GuardOn sA g0 ∧ Accepts sA accF2 ∧ Accepts sA accF1) = true := by decide +kernel

theorem witness_FloatSpecialValuesAndMinMax :
    [(0x7FC00000, 0x7FC00000), (0x7FC00000, 1), (1, 0xFFC00000), (0x80000000, 0)].all (fun e =>
      let s := sc s0 [(1, e.1), (2, e.2)]
      decide (FullS s [1, 2, 3] ∧ GuardOn s g0 ∧ s.me.pfx.filter isMod = [] ∧ Accepts s accF2)) = true := by decide +kernel

theorem witness_ScalarConversions : holds [decide (FullS sA [1, 3] ∧ GuardOn sA g0 ∧ Accepts sA accF1),
    decide (Fmt.i8 ∈ [Fmt.i64, .i32, .i16, .i8]), decide (Fmt.bf16 ∉ [Fmt.i64, .i32, .i16, .i8])] = true := by decide +kernel

theorem witness_BranchesAndLoops : [0, 1, 2, 0xFFFFFFFFFFFFFFFC].all (fun w : Word =>
    let s := sc s0 [(1, w)]
    decide (Accepts s accNone ∧ GuardOn s g0 ∧ FullS s [62, 1, 3] ∧ GuardOn s (modGuard s.me.pfx) ∧ Accepts s accG)) = true := by
  decide +kernel

theorem witness_ReadsOfControlRegisters : decide (GuardOn s0 (modGuard s0.me.pfx) ∧ FullS s0 [3] ∧ Accepts s0 accG ∧
    GuardOn s0 g0 ∧ Accepts s0 accNone ∧ s0.me.pure = false) = true := by decide +kernel

/-- A value that a register takes at the level that may write it; one that it refuses; a level that may not; a read-only register. -/
theorem witness_WritesOfControlRegisters :
    let s := sc s0 [(1, 31)]
    holds [decide (GuardOn s (modGuard s.me.pfx) ∧ FullS s [1] ∧ Accepts s accG),
      decide ((s.me.getS 1).toNat < 2 ^ 5 ∧ s.me.level = 0 ∧ 7 ≠ 17),
      decide (2 ^ 5 ≤ ((sc s0 [(1, 32)]).me.getS 1).toNat),
      decide (s.me.level < 3 ∧ (s.me.getS 1).toNat < 2 ^ 32),
      (s.job? s.me.jobid.toNat).isSome,
      [2 ^ 28, 2 ^ 22, 8].all (fun w => decide (w &&& 0x0F3FFF07 ≠ w)), decide ((0x0F3FFF07 : Nat) &&& 0x0F3FFF07 = 0x0F3FFF07 ∧ 0 &&& 3 = 0 ∧ 4 &&& 3 ≠ 4)] = true := by
  decide +kernel

/-- Guard off, guard empty, source empty, destination empty, and a peek of an empty source, in a unit; the same in a handler. -/
theorem witness_GuardsSourcesAndHandlers :
    let g1 : Guard := ⟨1, false⟩
    let gE := me s0 (fun x => { x with kEmpty := 2 })
    let sE := me s0 (fun x => { x with sEmpty := 2 })
    let dE := me s0 (fun x => { x with sEmpty := 8 })
    let dP := me dE (fun x => { x with loads := [⟨.scalar 3 8 false, [], [], none, 0⟩] })
    let h (s : State) := me s (fun x => { x with role := .handler })
    holds [decide (Accepts s0 accNone ∧ s0.me.fullK g1.slot = true ∧ (guardWord s0.me g1).getLsbD 0 = false),
      decide (MayWait gE ∧ gE.me.fullK g1.slot = false ∧ Accepts gE accNone),
      decide (MayWait sE ∧ GuardOn sE g0 ∧ sE.me.fullS 1 = false ∧ Accepts sE accNone ∧ sE.me.fullS 2 = true ∧ sE.me.fullS 3 = true),
      decide (MayWait dP ∧ GuardOn dP g0 ∧ FullS dP [1, 2] ∧ dP.me.fullS 3 = false ∧ dP.me.loadsS 3 = true ∧ Accepts dP accNone),
      decide (GuardOn dE g0 ∧ FullS dE [1, 2] ∧ dE.me.fullS 3 = false ∧ dE.me.loadsS 3 = false ∧ jobWrites dE 3 = false ∧ Accepts dE accNone),
      decide ((h gE).me.role = .handler ∧ (h gE).me.fullK g1.slot = false ∧ Accepts (h gE) accNone),
      decide ((h sE).me.role = .handler ∧ (h sE).me.fullS 1 = false ∧ GuardOn (h sE) g0)] = true := by decide +kernel

/-- A group that is well formed, and one with two MOD words (R75). -/
theorem witness_PrefixesAndNop : holds [decide (s0.broken = none), !groupBad s0.me.pfx accNone,
    groupBad (pf s0 [0xFD800000, 0xFD800000]).me.pfx accNone] = true := by decide +kernel

def v3 : V3 := ⟨3, 1, 2, false, false, g0⟩
def sV (f : Fmt) : State := vc s0 [(1, vr f 0x3F8000003F80), (2, vr f 0x4000), (3, vr f 0), (4, vr f 0), (0, vr f 0)]

theorem witness_VectorFloatLanes : [Fmt.fp32, .bf16].all (fun f => holds [
    decide (FullV (sV f) [1, 2] ∧ HasTag (sV f).me 1 f ∧ HasTag (sV f).me 2 f ∧ HasTag (sV f).me 3 f),
    decide (MayWriteV (sV f) g0 f 3), decide (Accepts (sV f) accF2 ∧ Accepts (sV f) accF1)]) = true := by decide +kernel

theorem witness_VectorIntegerLanes : [Fmt.i64, .n8, .fp32].all (fun f => holds [
    decide (FullV (sV f) [1, 2] ∧ HasTag (sV f).me 1 f ∧ HasTag (sV f).me 2 f), decide (MayWriteV (sV f) g0 f 3),
    decide (Accepts (sV f) accIS ∧ Accepts (sV f) accNone)]) = true := by decide +kernel

theorem witness_VectorComparesWriteAGuard : [Fmt.fp32, .bf16, .i64, .n16, .fp16].all (fun f => holds [
    decide (Accepts (sV f) accNone ∧ (sV f).me.fullK 0 = true),
    decide (FullV (sV f) [1, 2] ∧ HasTag (sV f).me 1 f ∧ HasTag (sV f).me 2 f)]) = true := by decide +kernel

theorem witness_VectorMovesAndPermutations :
    let f : Fmt := .i16
    let s := sc (sV f) [(1, 0xFFFF), (2, 63)]
    holds [decide (Accepts s accNone ∧ FullV s [1, 2, 3, 0, 4] ∧ FullS s [1, 2] ∧ GuardOn s g0),
      decide (HasTag s.me 1 f ∧ HasTag s.me 2 f ∧ HasTag s.me 3 f ∧ HasTag s.me 0 f), decide (MayWriteV s g0 f 3),
      decide (MayWriteV s g0 .e2m1x 3), decide (s.me.fullK g0.slot = true),
      LaneOn (guardWord s.me g0) f ((s.me.getS 2).toNat % fmtLanes f)] = true := by decide +kernel

theorem witness_VectorToScalarProducers : [Fmt.i64, .n8, .fp32].all (fun f =>
    let s := sc (sV f) [(2, 1)]
    holds [decide (Accepts s accNone ∧ s.me.stop = none ∧ GuardOn s g0 ∧ FullV s [1, 2] ∧ FullS s [2, 5]),
      decide (HasTag s.me 1 f ∧ HasTag s.me 2 f ∧ s.me.fullK g0.slot = true)]) = true := by decide +kernel

theorem witness_VectorConversions :
    let s := sV .bf16
    let u := vc s0 [(4, vr .e2m1x 0x1234 0x7F)]
    holds [decide (FullV s [1] ∧ HasTag s.me 1 .bf16 ∧ Accepts s accF1), decide (MayWriteV s g0 .fp32 3),
      decide (MayWriteV s g0 .bf16 3), decide (modsOf s.me.pfx = Mods.none ∧ (modsOf s.me.pfx).keeps = true),
      decide (Accepts s accNone ∧ s.me.fullK 0 = true ∧ FullV s [0, 1, 2, 3, 8]),
      [0, 1, 2, 3].all (fun b => decide (HasTag s.me b .bf16)),
      decide (guardWord s.me g0 ≠ 0), [0, 16, 32, 48].all (fun b => (guardWord s.me g0).getLsbD b),
      decide (FullV u [4, 8, 9, 10, 11] ∧ HasTag u.me 4 .e2m1x ∧ guardWord u.me g0 ≠ 0)] = true := by decide +kernel

/-! ### Witnesses: memory statements -/

/-- Virtual address of the data page, which is at physical address 0x40000. -/
def dp : Nat := 2 ^ 40 + 0x30000
def hereL (a n : Nat) : List Loc := (List.range n).map (fun i => .here (0x40000 + a + i))
def spadL (a n : Nat) : List Loc := (List.range n).map (fun i => .spad 0 (a + i))

/-- Base register 1 at the data page, or in scratchpad. -/
def sM : State := sc s0 [(1, BitVec.ofNat 64 dp)]
def sP : State := sc s0 [(1, 0x100)]

/-- An aligned load of memory and of scratchpad, one that must wait for a granule, and a misaligned one; a waiting load that
issues by its event. -/
theorem witness_ScalarLoads :
    let w : State := { sP with granEmpty := [16] }
    let w2 : State := State.reset.withFetchWord 32 0x93C04800
    let s2 : State := sc w2 [(4, 0x100)]
    holds [decide (GuardOn sM (modGuard sM.me.pfx) ∧ FullS sM [1, 3] ∧ Accepts sM accXG), decide (NothingMeets sM),
      dataAddress sM 1 (0 : BitVec 10) 8 == dp, checkAccess 0 dp 8 8 0 == none, reaches sM .read (span dp 8) (hereL 0 8),
      reaches sP .read (span 0x108 8) (spadL 0x108 8), dataAddress sP 1 (1 : BitVec 10) 8 == 0x108,
      granulesFull sP (granulesOf (spadL 0x100 8)), !granulesFull w (granulesOf (spadL 0x100 8)),
      decide (stopDue w.me = false ∧ w.me.role ≠ .handler), decide (NothingMeets w),
      decide (dataAddress (sc s0 [(1, 4)]) 1 (0 : BitVec 10) 8 % 8 ≠ 0),
      match fetchWord s2 0 (wordPc (s2.ctx 0)) with
      | .ok s1 w => decide (decoded w = some (.ldd ⟨48, 4, 2, 0⟩) ∧ (s1.ctx 0) = s2.ctx 0 ∧ (s2.ctx 0).busy = true ∧
          (s2.ctx 0).stop = none ∧ (s2.ctx 0).pageWait = false ∧ (s2.ctx 0).fencing = false ∧ (s2.core 0).halted = false) &&
          decide (GuardOn s1 (modGuard s1.me.pfx) ∧ FullS s1 [4, 48] ∧ Accepts s1 accXG ∧ s1.cur = 0) && decide (NothingMeets s1) &&
          dataAddress s1 4 (0 : BitVec 10) 8 == 0x100 && checkAccess 0 0x100 8 8 2 == none &&
          reaches s1 .read (span 0x100 8) (spadL 0x100 8) && granulesFull s1 (granulesOf (spadL 0x100 8))
      | _ => false] = true := by decide +kernel

/-- A store to memory and to scratchpad, a misaligned one; an entry of bytes and an entry of FESET that leave the buffer. -/
theorem witness_ScalarStores :
    let e1 : SbEntry := ⟨0, [(.spad 0 0x100, 7), (.here 0x40000, 9)], [0x100, dp], true, none, [], [], false⟩
    let e2 : SbEntry := ⟨0, [], [], false, some (0, 16, 1024, false), [], [], false⟩
    let b (e : SbEntry) : State := { s0 with granEmpty := [16] }.setCore 0 { s0.core 0 with sb := [e] }
    holds [decide (GuardOn sM (modGuard sM.me.pfx) ∧ FullS sM [1, 3] ∧ Accepts sM accXG), decide (NothingMeets sM),
      checkAccess 0 dp 8 8 0 == none, reaches sM .write (span dp 8) (hereL 0 8), reaches sP .write (span 0x100 2) (spadL 0x100 2),
      [e1, e2].all (fun e => let s := b e
        decide ((s.core 0).sb = [e] ∧ s.broken = none ∧ s.transfers = [] ∧ s.poison = [] ∧ s.queues = []) &&
        [0, 1, 2, 3].all (fun i => (s.ctx i).stop.isNone) && decide (e.place = [] ∧ e.hdrs = [] ∧ e.more = false ∧ s.convs = [] ∧ e.addrs.length = e.cells.length) && e.cells.all (fun c => nearLoc c.1))] = true := by
  decide +kernel

/-- LDV, STV, LDX and STX of memory and of scratchpad; a misaligned vector. -/
theorem witness_VectorLoadsAndStores :
    let s := vc sM [(2, vr .n8 0x0100), (3, vr .n8 0)]
    let u := sc s [(1, 0x1F0)]
    let js := List.range 128
    let ids := List.range 128
    let at_ (n : Nat) : Nat := dp + laneOf (s.me.getV 2) .n8 n
    let as := ids.flatMap (fun n => (List.range 1).map (fun j => at_ n + j))
    let ls := as.map (fun a => Loc.here (0x40000 + (a - dp)))
    holds [decide (NothingMeets s), decide (FullS s [1] ∧ Accepts s accXG ∧ Accepts s accG), dataAddress s 1 (0 : BitVec 6) 128 == dp,
      checkVector 0 dp js 0 == none, decide (MayWriteV s g0 .n8 3), reaches s .read (js.map (fun j => dp + j)) (hereL 0 128),
      reaches s .write (js.map (fun j => dp + j)) (hereL 0 128), checkVector 0 0x1F0 js 3 == none,
      reaches u .read (js.map (fun j => 0x1F0 + j)) (spadL 0x1F0 128), decide ((dp + 8) % 16 ≠ 0),
      decide (FullV s [2, 3] ∧ HasTag s.me 2 .n8 ∧ HasTag s.me 3 .n8 ∧ s.me.fullK 0 = true),
      (indexFault s .read 1 0 (ids.map at_)).isNone, (indexFault s .write 1 0 (ids.map at_)).isNone, reaches s .read as ls,
      reaches s .write as ls] = true := by decide +kernel

/-- A handle of a LIN tensor of 4 elements FP32 at the data page: lanes inside and outside it, writable and read-only. -/
def lin4 (ctl : Nat := 0x17) : Bytes :=
  leBytes 8 dp ++ leBytes 8 0 ++ leBytes 4 4 ++ List.replicate 24 0 ++ leBytes 4 ctl ++ leBytes 8 0x3F800000 ++ leBytes 8 0
def hdl (ro : Bool) : Handle := ⟨dp + 0x1000, ro, lin4⟩
def sH (ro : Bool) : State :=
  { me s0 (fun x => { x with h := [(5, hdl ro)] }) with mem := memWrite s0.mem 0x41000 (lin4 (ctl := 0x17)) }

theorem witness_TensorLoadsAndStores : [false, true].all (fun ro =>
    let s := vc (sc (sH ro) [(4, 2)]) [(3, vr .fp32 0)]
    let h := hdl ro
    let all := laneElems h 0 (coords s.me 4 (lRank h.copy)) (guardWord s.me g0)
    let es := insideOf all
    let as := es.flatMap (fun e => (List.range 4).map (fun j => e.2.va + j))
    holds [decide (NothingMeets s), decide (Accepts s accG ∧ s.me.handle? 5 = some h ∧ s.me.pure = false), recordOk h.copy,
      lFmt h.copy == .fp32, lRank h.copy == 1, es.length == 2, decide (MayWriteV s g0 .fp32 3), decide (FullV s [3] ∧ HasTag s.me 3 .fp32),
      gives (ctlRead s h) (fun s1 c => c == 0x17 && decide (s1 = { s with cores := s1.cores, piers := s1.piers, decks := s1.decks }) &&
        s1.me == s.me && (indexFault s1 .read 4 0 (es.map (fun e => e.2.va))).isNone &&
        (indexFault s1 .write 4 0 (es.map (fun e => e.2.va))).isNone && reaches s1 .read as (hereL 8 8) &&
        reaches s1 .write as (hereL 8 8))]) = true := by decide +kernel

/-- A job of the copy unit of pier 0, of the unit of `s0`. -/
def job0 : Job :=
  { id := 7, eng := .copy, cmd := .copy, core := 0, ctx := 0, unit := s0.me.record, jobid := 1, who := s0.me.who 0, dreg := none, a := 0, b := 0
    enck := 0, enctau := 0, enceps := 0, encdict := 0, status := .running, inq := true, flags := 3, held := none, started := false, prog := 0
    prog2 := 0, bytesDone := 0, cause := .none, faddr := 0, msg := none, list := [], work := [], tmpl := [], tmpl2 := [], ring := none
    released := false, dictId := 0, ver := 0, sent := false, use := none, reported := false }
def withJob (s : State) (p : Nat) (j : Job) : State := s.setPier p { s.pier p with jobs := [j] }

/-- ATOM and CAS of a word of memory and of scratchpad; a fence with nothing outstanding, and one that waits; FESET at its bounds; JWAIT of
a job that is over, running, or unknown. -/
theorem witness_AtomicsAndFences :
    let r : RemoteReq := ⟨0, 1, 0, .write, 0, 8, [], 0, 0, .store 0, 0, none, 1, 0⟩
    let f (a b : Nat) : State := sc s0 [(1, BitVec.ofNat 64 a), (2, BitVec.ofNat 64 b)]
    holds [decide (NothingMeets sM), decide (GuardOn sM (modGuard sM.me.pfx) ∧ Accepts sM accG ∧ sM.me.pure = false ∧ FullS sM [1, 2, 3]),
      checkAccess 0 dp 8 8 0 == none, reaches sM .write (span dp 8) (hereL 0 8), reaches sP .write (span 0x100 4) (spadL 0x100 4),
      (match placeAll sM (meWho sM) .read true (span dp 8), placeAll sM (meWho sM) .write true (span dp 8) with
        | .ok x, .ok y => x == y
        | _, _ => false),
      decide (AtRest s0 s0.cur), decide (Accepts s0 accG ∧ Accepts s0 accXG ∧ stopDue s0.me = false ∧ (s0.core 0).sb = []),
      remoteOf { s0 with remote := [r] } 0, decide (FullS (f 0 1) [1, 2]),
      [(0, 1025), (8, 1), (0, 1024), (98288, 1), (0, 1)].all (fun e => decide ((f e.1 e.2).me.getS 2 = BitVec.ofNat 64 e.2)),
      [JStat.done, .discarded, .stale, .running].all (fun st => let s := withJob (sc s0 [(1, 7)]) 0 { job0 with status := st }
        ((s.pier 0).jobs.filter (fun j => j.id == 7 && jobOf s.me s.cur j)).head? == some { job0 with status := st }),
      (s0.pier 0).jobs == []] = true := by decide +kernel

/-! ### Witnesses: engine statements -/

/-- s with bytes in the scratchpad of core 0. -/
def sp (s : State) (a : Nat) (bs : Bytes) : State := { s with spad := memWrite s.spad a bs }

/-- An image of one row of 32 FP32 lanes, its descriptor at 0x2000 of scratchpad and the row in the data page; one request in its list. -/
def imgD : Bytes := leBytes 8 0x2040 ++ leBytes 8 0x2100 ++ leBytes 2 9 ++ leBytes 2 1 ++ [1] ++ List.replicate 43 0
def imgR (base : Nat := dp + 0x3000) : Bytes :=
  leBytes 8 base ++ leBytes 8 0 ++ leBytes 4 2 ++ leBytes 4 32 ++ List.replicate 20 0 ++ leBytes 4 0x27 ++ List.replicate 16 0
def sImg : State := sp s0 0x2000 (imgD ++ imgR ++ List.replicate 128 0 ++ leBytes 8 (2 ^ 63 + 9 * 2 ^ 32 + 0xFFFF * 2 ^ 16 + 1) ++
  List.replicate 248 0 ++ leBytes 8 0x3000)

theorem witness_EngineCommandsIssue :
    let s := sc s0 [(1, 0x2000), (2, 0x100000000)]
    let i := sc sImg [(1, 0x2000), (2, 0x100002200)]
    let g (b : Nat) : State := sc s0 [(1, 0), (2, BitVec.ofNat 64 b)]
    holds [decide (FullS s [1, 2]), decide (CanIssue s .copy false 3), decide (CanIssue s .matrix true 3), decide (CanIssue s .span true 3),
      decide (CanIssue s .message false 3), !s.me.pure,
      [4096 * 2 ^ 32 + 0, 2 ^ 32 + 98304 - 64].all (fun b => let b := ((g b).me.getS 2).toNat
        decide (b / 2 ^ 48 = 0 ∧ b / 2 ^ 30 % 4 = 0 ∧ 1 ≤ b / 2 ^ 32 % 2 ^ 16 ∧ b / 2 ^ 32 % 2 ^ 16 ≤ 4096 ∧ b % 2 ^ 24 % 16 = 0)),
      decide (98304 - 64 + 1 * 64 ≤ 98304), decide (CanIssue i .copy false 3),
      gives (imgldRead i (i.me.getS 1) (i.me.getS 2)) (fun u seen => u == i && (match imgldParse 0 0x2000 0x100002200 seen with
        | .ok (d, ws) => d.o == 32 && d.spans == 2 && ws == [0x3000]
        | .error _ => false))] = true := by decide +kernel

theorem witness_EngineAccesses :
    let w := job0.who
    holds [decide (NothingWaits s0), decide (s0.transfers = [] ∧ s0.poison = [] ∧ s0.queues = [] ∧ ∀ c ∈ s0.convs, c.locked = []), oneWindow w.core dp 256 && oneWindow w.core 0x100 48,
      placed s0 w .read (span dp 256) (hereL 0 256), placed s0 w .write (span 0x100 48) (spadL 0x100 48)] = true := by decide +kernel

/-- A template of 16 words from the data page to scratchpad, and a ring of two slots at 0x5000 whose slots are at 0x5100. -/
def tpl (ring : Nat) : Bytes :=
  leBytes 8 (dp + 0x100) ++ leBytes 8 0x4000 ++ leBytes 8 ring ++ leBytes 4 0x21 ++ leBytes 4 0 ++ leBytes 4 16 ++ List.replicate 28 0 ++
  leBytes 4 4 ++ List.replicate 28 0 ++ leBytes 4 4 ++ List.replicate 28 0
def jC : Job := { job0 with a := 0x2000 }
def sC (ring : Nat) : State :=
  withJob (sp (sp { s0 with granEmpty := [1024] } 0x2000 (tpl ring)) 0x5000 (leBytes 8 0x5100 ++ leBytes 8 2 ++ leBytes 8 7 ++ leBytes 8 6)) 0 jC
def jR : Job := { job0 with started := true, inq := false, tmpl := tpl 0 }
def sR : State := withJob { s0 with granEmpty := [1024] } 0 jR

theorem witness_CopyEvents :
    let ag := jobAgent 0 7
    let w := jC.who
    let q := { jR with status := .faulted, released := true, cause := .page }
    holds [decide (CanStep (sC 0) 0 jC), copyJobOf (sC 0) 0 0 == none, headOf (sC 0) 0 .copy 0 == (sC 0, some jC),
      gives (engReadAt (sC 0) ag w 0x2000 128) (fun s1 tb => decide (NothingWaits s1) && tRing tb == 0 && !templateBad s1 w.vd false tb &&
        tTotal tb == 16),
      decide (CanStep (sC 0x5000) 0 jC),
      gives (engReadAt (sC 0x5000) ag w 0x2000 128) (fun s1 tb => tRing tb == 0x5000 && gives (engReadAt s1 ag w 0x5000 32) (fun s2 d =>
        leAt d 0 8 == 0x5100 && leAt d 12 4 == 0 && leAt d 8 4 == 2 && leAt d 16 8 == 7 && leAt d 24 8 == 6 &&
        gives (engWriteAt s2 ag jC.jobid w 0x5010 (leBytes 8 8)) (fun s3 _ => decide (NothingWaits s3) && !templateBad s3 w.vd false tb))),
      decide (CanStep sR 0 jR), pickRot (sR.pier 0).rotC (weightOf sR 0) (canGrant sR 0) == some (0, (0, 1)),
      copyJobOf sR 0 0 == some jR,
      (let es := sectorFrom jR.tmpl (elemAt jR.tmpl false (fun _ => 0)) 16 64 0 []
       let s := sR.setPier 0 { sR.pier 0 with rotC := (0, 1) }
       let srcs := es.filterMap (fun e => e.src)
       es.length == 16 && (firstFault s w .read 4 srcs).isNone &&
       gives (engRead s ag w (srcs.flatMap (fun a => span a 4))) (fun s1 bs => bs.length == 64 && decide (NothingWaits s1) &&
         decide (s1.poison = [] ∧ s1.transfers = [] ∧ s1.queues = [] ∧ (s1.pier 0).jobs = (sR.pier 0).jobs) &&
         (firstFault s1 w .write 4 (es.map (fun e => e.dst))).isNone &&
         placed s1 w .write ((es.map (fun e => e.dst)).flatMap (fun a => span a 4)) (spadL 0x4000 64))),
      decide (NothingWaits (withJob s0 0 q)), jobOn? (withJob s0 0 q) 0 7 == some q, !(withJob s0 0 q).quietPier 0] = true := by decide +kernel

/-- The page at 2^40 + 0x40000 is tracked; the header of its first tile is at physical address 0x40900. -/
def tp : Nat := 2 ^ 40 + 0x40000
def sT : State :=
  let m := memWrite s0.mem 0x4020 (leBytes 8 (bootLeaf 5 11 + 2 ^ 10))
  let s : State := { s0 with mem := memWrite m 0x40800 (leBytes 8 (dp + 0x900)) }
  match s.vdev? 1 with
  | some v => s.setVdev 1 { v with tracking := dp + 0x800 - 8 * (2 ^ 24 + 4) }
  | none => s
def jZ : Job := { job0 with cmd := .zscan, a := BitVec.ofNat 64 tp, b := 1, started := true, inq := false, unit := 0 }
def sZ : State := withJob sT 0 jZ
/-- Two rows of 64 bytes to or from scratchpad 0x4000. -/
def jG (cmd : Cmd) (list : List Nat) : Job :=
  { job0 with cmd := cmd, b := BitVec.ofNat 64 (2 * 2 ^ 32 + 0x4000), list := list, started := true, inq := false, unit := 0, tmpl := [1] }
def jGa : Job := jG (.cgath false) [dp + 64, dp + 128]
def jSc : Job := jG (.cscat false .add32 false) [dp + 64, dp + 128]
def sG (j : Job) : State :=
  withJob (sp { s0 with mem := memWrite s0.mem 0x40040 (leBytes 4 0x40000000), granEmpty := [1024, 1025] } 0x4000 (leBytes 4 0x3F800000)) 0 j
def jI : Job := { job0 with cmd := .imgld, a := 0x2000, b := 0x100002200, started := true, inq := false, unit := 0, list := [0x3000]
                            tmpl2 := imgD ++ imgR ++ leBytes 8 0x3000 }
def sI : State := withJob { sImg with granEmpty := [768] } 0 jI

/-- The rotation of the copy engine grants core 0 first; the state that counts the grant. -/
def first (s : State) : Bool := pickRot (s.pier 0).rotC (weightOf s 0) (canGrant s 0) == some (0, (0, 1))
def granted (s : State) : State := s.setPier 0 { s.pier 0 with rotC := (0, 1) }

/-- The read of the tile of ZSCAN, 4096 bytes, is too long to evaluate here: its first 64 bytes stand for it. -/
theorem witness_CaissonAndImageSteps :
    let w := job0.who
    let ag := jobAgent 0 7
    let calm (u s : State) : Bool := decide (NothingWaits u) && decide (u.poison = [] ∧ u.transfers = [] ∧ u.queues = []) &&
      (u.pier 0).jobs == (s.pier 0).jobs
    holds [decide (CanStep sZ 0 jZ), copyJobOf sZ 0 0 == some jZ,
      (match trackedAt sZ w tp with
       | .ok q => nearLoc q.loc && (match headerOf sZ ag w.vd q.va with | .ok h => h == 0x40900 | .error _ => false)
       | .error _ => false),
      (let j := { jZ with cmd := .zscanIb, b := 77 }
       let s := withJob sT 0 j
       decide (CanStep s 0 j) && copyJobOf s 0 0 == some j && (match trackedAt s w tp with
         | .ok q => nearLoc q.loc && (match headerOf s ag w.vd q.va with | .ok h => h == 0x40900 | .error _ => false)
         | .error _ => false)),
      gives (engRead sZ ag w (span tp 64)) (fun u bs => bs == List.replicate 64 0 && calm u sZ),
      decide (CanStep (sG jGa) 0 jGa), copyJobOf (sG jGa) 0 0 == some jGa, decide (1 ∉ jGa.work),
      first (sG jGa), first (sG jSc), gives (engReadAt (granted (sG jGa)) ag w (dp + 128) 64) (fun u bs => bs.length == 64 && calm u (sG jGa) && oneWindow w.core 0x4040 64 &&
        placed u w .write (span 0x4040 64) (spadL 0x4040 64)),
      decide (CanStep (sG jSc) 0 jSc), copyJobOf (sG jSc) 0 0 == some jSc, jSc.use == none,
      gives (engReadAt (granted (sG jSc)) ag w 0x4000 64) (fun u d => d.length == 64 && gives (engReadAt u ag w (dp + 64) 64) (fun v y =>
        y.length == 64 && calm v (sG jSc) && oneWindow w.core (dp + 64) 64 && placed v w .write (span (dp + 64) 64) (hereL 64 64))),
      decide (CanStep sI 0 jI), first sI,
      copyJobOf sI 0 0 == some jI, (imgReq 0x3000).buf == 0x3000,
      gives (engReadAt (granted sI) ag w 0x2100 8) (fun u tg => tagValid (leNat tg) &&
        tagId (leNat tg) == 9 && gives (engReadAt u ag w (dp + 0x3000) 128) (fun v row => row.length == 128 && calm v sI &&
          oneWindow w.core 0x3000 128 && placed v w .write (span 0x3000 128) (spadL 0x3000 128)))] = true := by decide +kernel

/-- A job of the matrix engine. -/
def jM (cmd : Cmd) (a b : Nat) : Job :=
  { job0 with eng := .matrix, cmd := cmd, a := BitVec.ofNat 64 a, b := BitVec.ofNat 64 b, unit := 0, released := true }
/-- Slot 0 of pier 0 holds a tile of E4M3. -/
def sS (j : Job) : State :=
  let s := sp s0 0x1000 (List.replicate 16 0x38)
  s.setPier 0 { s.pier 0 with jobs := [j], slots := [(0, ⟨true, 11, []⟩)] }
/-- The handler whose command WMARK or DQRY writes its register. -/
def sHd (j : Job) : State := me (sS j) (fun x => { x with role := .handler, record := 0 })
def jW (a b : Nat) : Job := { jM .wmark a b with released := false, dreg := some 5, who := { job0.who with level := 1 } }
def jMma (started : Bool) : Job :=
  let j := jM (.mma 0 false) (64 * 2 ^ 32 + 11 * 2 ^ 24) 0x1000
  if started then { j with started := true, prog := 1, list := [0], work := List.replicate 1024 0x3F800000, inq := false } else j

theorem witness_MatrixCommandsAndProducts :
    let z := { jM .acz 3 0 with released := false }
    let t := { jM .trfree 0x7F00 0 with released := false }
    let m := jMma false
    let n := jMma true
    let pick (j : Job) (s : State) : Bool := decide (NoneSettles s 0) && settleHeads s 0 .matrix == s &&
      (List.range 8).findSome? (acceptable s 0) == some j
    let rot := (sS m).setPier 0 { (sS m).pier 0 with rotM := (0, 1) }
    holds [decide (CanStep (sS z) 0 z), pick z (sS z),
      [(0, 0), (31, 32)].all (fun e => let j := jW e.1 e.2
        decide (CanStep (sHd j) 0 j) && pick j (sHd j) && decide (j.ver ≠ 1) && ((sHd j).pier 0).jobs.all (fun k => !k.released) && decide (e.2 ≤ markOf (sHd j) 0 e.1) &&
        ((sHd j).ctxs.find? (fun y => y.2.busy && y.2.record == j.unit && y.2.vd == j.who.vd && y.2.level == j.who.level && y.1 == j.ctx)).map
          Prod.fst == some 0),
      decide (CanStep (sS t) 0 t), pick t (sS t), decide (t.ver ≠ 1 ∧ t.released = false), decide (bits 0x7F00 6 0 + bits 0x7F00 14 8 < bSlots (sS t) 0),
      decide (CanStep (sS m) 0 m), decide (NoneSettles (sS m) 0), arrayPick (sS m) 0 == some (m, (0, 1)),
      (match mmaCheck rot 0 m with | .ok (a, b) => a == .e4m3 && b == .e4m3 | .error _ => false),
      decide (CanStep (sS n) 0 n), decide (NoneSettles (sS n) 0), arrayBusy (sS n) 0 == some n,
      decide (n.work.length = 32 * (32 * n.list.length))] = true ∧
    (∃ bytes, engRead ([0].foldl (fun s t => setMark s 0 t 0) rot) (jobAgent 0 7) m.who
      ((List.range 32).flatMap (fun i => span (m.b.toNat + i * 64) 64)) = .ok ([0].foldl (fun s t => setMark s 0 t 0) rot) bytes) := by
  refine ⟨by decide +kernel, ⟨_, engRead_spad _ _ _ _ ?_ (by decide +kernel) (by decide +kernel)⟩⟩
  decide +kernel

/-- A port command of two rows from row 30 of tile 0. -/
def jP (cmd : Cmd) (a : Nat) : Job := { jM cmd a (128 * 2 ^ 32 + 2 * 2 ^ 16 + 30 * 2 ^ 8) with started := true, inq := false }
def jT : Job := jM .trld 0x1000 (64 * 2 ^ 32 + 11 * 2 ^ 8)
def sB : State := s0.setPier 0 { s0.pier 0 with trsplit := 1 }

theorem witness_AccumulatorAndTrussSteps :
    let ag := jobAgent 0 7
    let port (j : Job) : Bool := decide (CanStep (sS j) 0 j) && decide (NoneSettles (sS j) 0) && portPick (sS j) 0 == some (0, (0, 1)) &&
      portJob (sS j) 0 0 == some j
    let z := { jM .acz 0x80000001 0 with started := true, inq := false }
    let rd := jP .acrd 0x3000
    let cv := jP (.accvt true 8) 0x3000
    let wr := jP .acwr 0x1000
    let t := (sS jT).setPier 0 { (sS jT).pier 0 with rotM := (0, 1) }
    holds [port rd, port cv, port wr, port z, decide (30 < markOf (sS rd) 0 0), oneWindow 0 0x3000 128 && oneWindow 0 0x3000 64,
      placed (sS rd) rd.who .write (span 0x3000 128) (spadL 0x3000 128), placed (sS cv) cv.who .write (span 0x3000 64) (spadL 0x3000 64),
      accvtFmt 8 == some .bf16,
      gives (engReadAt ((sS wr).setPier 0 { (sS wr).pier 0 with rotA := (0, 1) }) ag wr.who 0x1000 128) (fun u bs => bs.length == 128 &&
        decide (NothingWaits u) && (u.pier 0).jobs == [wr] && u.acc == (sS wr).acc),
      Memory.wf (sS z).acc, (aczTiles z)[0]? == some 0, (aczTiles z)[1]? == some 31,
      decide (CanStep (sS jT) 0 jT), decide (NoneSettles (sS jT) 0), arrayPick (sS jT) 0 == some (jT, (0, 1)),
      !trldBad t 0 jT.b.toNat, matFmt 11 == some .e4m3,
      (firstFault t jT.who .read 64 ((List.range 32).map (fun c => 0x1000 + c * 64))).isNone,
      decide (NothingWaits sB), decide (NoneSettles sB 0), decide ((sB.pier 0).split = 0),
      (List.range 16).all (fun n => !(slotAt sB 0 (112 + n)).loaded), (sB.pier 0).jobs == [] && (sB.pier 0).dslots == []] = true ∧
    ∃ data, engRead t ag jT.who ((List.range 32).flatMap (fun c => span (0x1000 + c * 64) 64)) = .ok t data ∧ data.length = 32 * 64 := by
  refine ⟨by decide +kernel, ⟨_, engRead_spad _ _ _ _ ?_ (by decide +kernel) (by decide +kernel), ?_⟩⟩
  · decide +kernel
  · simp only [List.length_map]; decide +kernel

/-! ### Witnesses: exceptions, suspension, stops -/

/-- Record and frame pages of `s0`: record of the unit, first record and frame of the pools. -/
def rv : Nat := 2 ^ 40 + 0x10000
def fv : Nat := 2 ^ 40 + 0x20000
def rich (s : State) : State := me s (fun x => ((x.setS 5 0x123456789ABCDEF).setV 3 ⟨12345678901234567890, 5, 77⟩).setK 2 0xFF00)
def sF : State := rich s0
def sFh : State := me sF (fun x => { x with role := .handler, record := 0, handlercap := 0, budget := 0 })

theorem witness_FaultsRunTheFaultEntry : holds [
    decide (sF.me.role = .unit ∧ sF.me.record = rv ∧ sF.me.frame = 0 ∧ sF.preempts = []), decide (AtRest sF 0), Memory.wf sF.mem,
    decide (RegsInRange sF.me), (sF.vdev? 1).map (fun v => (v.framePool.head?, v.stackPool.head?, v.recPool.head?)) == some (some fv, some (2 ^ 40 + 0x50000), some (rv + 64)),
    recFrame sF 1 rv 0x20000 fv 0x30000, recFrame sF 1 (rv + 64) 0x20040 fv 0x30000, (sF.job? sF.me.jobid.toNat).isSome,
    decide (Accepts sF accG ∧ GuardOn sF (modGuard sF.me.pfx)), decide (fv < 2 ^ 48 ∧ fv ≠ 0),
    decide ((me sF (fun x => { x with budget := 0 })).me.budget = 0 ∧ sF.me.pfx = []),
    decide (sFh.me.role = .handler ∧ sFh.me.record = 0 ∧ sFh.me.frame = 0 ∧ sFh.me.handlercap = 0), decide (AtRest sFh 0),
    decide (RegsInRange sFh.me), unitJobs sFh 0 == []] = true := by decide +kernel

/-- A stop that is due on context 0, as it arose and as it waits for a frame; and a request that reaches core 0. -/
def stp (held : Bool) : Stop := ⟨.park, .preempted, 0, 0, BitVec.ofNat 64 sF.me.pc, sF.me.pc, [], held⟩
def preq : PreReq := ⟨some 4, none, [0, 1], [], []⟩

theorem witness_UnitsSuspendEndAndPark :
    let s (id : Word) : State := sc s0 [(1, id)]
    holds [decide (AtRest s0 0 ∧ s0.preempts = []), (s0.vdev? 1).isSome, decide (s0.me.role = .unit ∧ rv % 64 = 0),
      apart s0 1 rv 0x20000 [(0x20000, 64)], decide (Accepts (s 7) accG ∧ GuardOn (s 7) (modGuard (s 7).me.pfx) ∧ FullS (s 7) [1]),
      [JStat.running, .done].all (fun st => let u := withJob (s 7) 0 { job0 with status := st, inq := false }
        decide (AtRest u 0) && ((u.pier 0).jobs.find? (fun j => j.id == 7 && jobOf u.me 0 j)).isSome),
      decide (Accepts s0 accNone ∧ s0.me.pure = false), (s0.launch? 2).isSome,
      (kget? s0.counters 2).any (fun k => k.waiters == [] && decide (-(2 ^ 47) < k.value ∧ k.value < 2 ^ 47)),
      unitJobs s0 0 == [], decide (AtRest sFh 0 ∧ Accepts sFh accNone), unitJobs sFh 0 == [],
      [false, true].all (fun h => let u := me sF (fun x => { x with stop := some (stp h) })
        decide (AtRest (u.setCtx 0 { u.ctx 0 with stop := none }) 0) && decide (RegsInRange (u.ctx 0)) && (u.ctx 0).stop == some (stp h)),
      recFrame sF 1 rv 0x20000 fv 0x30000, Memory.wf sF.mem,
      decide (preq.todo.contains 0 = true ∧ preq.waiting = [] ∧ preq.ctx.isSome = true), sF.me.stop.isNone && !sF.me.preemptReq,
      decide (sF.me.budget ≠ 0 ∧ sF.me.pfx = []), [1, 2, 3].all (fun n => (sF.ctx n).role == .idle)] = true := by decide +kernel

/-! ### Witnesses: the span engine -/

/-- A dictionary descriptor of n atoms at 0x6040. -/
def dictD (n : Nat) : Bytes := leBytes 8 0x6040 ++ leBytes 2 9 ++ leBytes 2 1 ++ leBytes 2 n ++ leBytes 2 0 ++ List.replicate 16 0
/-- The truss bank of pier 0 belongs to dictionaries, slot 1 as given. -/
def sD (j : Job) (d : DSlot) (n : Nat := 1) : State :=
  let s := sp (sp s0 0x6000 (dictD n)) 0x6040 (List.replicate 64 0x38)
  s.setPier 0 { s.pier 0 with jobs := [j], split := 8, trsplit := 8, dslots := [(1, d)] }
def dEmpty : DSlot := ⟨.empty, 0, 0, 0, 0, 0, 0⟩
def dReady : DSlot := ⟨.ready, 9, 1, 1, 0, 0x6000, 0x6040⟩
def jD (cmd : Cmd) (a b : Nat) : Job :=
  { job0 with eng := .span, cmd := cmd, a := BitVec.ofNat 64 a, b := BitVec.ofNat 64 b, unit := 0, encdict := 1, enck := 4 }
def jDw : Job := { jD .dinst 0x6000 1 with started := true, inq := false, tmpl := dictD 1, tmpl2 := List.replicate 64 0x38 }
def jE : Job := jD .enc 0x7000 (8 * 2 ^ 24 + 2 * 2 ^ 32)

theorem witness_DictionaryInstalls :
    let start (j : Job) (d : DSlot) : Bool := let s := sD j d
      decide (CanStep s 0 j) && settleHeads s 0 .span == s && (s.pier 0).jobs.filter startWaits == [] &&
      (List.range 8).findSome? (startable s 0) == some j
    let i := jD .dinst 0x6000 1
    let q := startJob (sD i dEmpty) 0 i
    let z := startJob (sD i dEmpty 0) 0 i
    let w := sD jDw { dReady with state := .installing }
    holds [start i dEmpty, gives (engReadAt q.1 (jobAgent 0 7) i.who 0x6000 32) (fun u d => decide (NothingWaits u) &&
        (u.pier 0).jobs == (q.1.pier 0).jobs && leAt d 0 8 == 0x6040 && leAt d 12 2 == 1 && leAt d 14 2 == 0 && leAt d 16 16 == 0 &&
        gives (engReadAt u (jobAgent 0 7) i.who 0x6040 64) (fun v bs => decide (NothingWaits v) && (v.pier 0).jobs == (q.1.pier 0).jobs &&
          !atomBad bs && (v.pier 0).dslots.all (fun x => x.1 == 1) &&
          (u.pier 0).jobs.all (fun k => k.b.toNat % 4 == 1))),
      decide (CanStep (sD i dEmpty 0) 0 i), (List.range 8).findSome? (startable (sD i dEmpty 0) 0) == some i,
      gives (engReadAt z.1 (jobAgent 0 7) i.who 0x6000 32) (fun u d => decide (NothingWaits u) && (u.pier 0).jobs == (z.1.pier 0).jobs &&
        leAt d 12 2 == 0 && leAt d 16 16 == 0 && leAt d 10 2 != 0xFFFF),
      start jE dReady, decide (streamUsed ((sD jE dReady).core 0) ≤ 510), encCount jE.b.toNat == 2, inSpad 0 0x7000 1,
      decide (CanStep w 0 jDw), pickRot (w.pier 0).rotE (weightOf w 0) (encReady w 0) == some (0, (0, 1)),
      encJob w 0 0 == some jDw, (dslotAt w 0 1).state == .installing, (dinstSlot jDw).n == 1 && (dinstSlot jDw).row == 0,
      jDw.tmpl2.length == 64] = true := by decide +kernel

/-- An ENC of two spans at its first, a message of one span for DEC and, with one term, for ACCI. -/
def jEs : Job := { jE with started := true, inq := false }
def sEs : State := let s := sD jEs dReady; s.setCore 0 { s.core 0 with stream := [(7, [1, 2], false, false)] }
def msgW : List Nat := [2 * 2 ^ 30 + 2, 9 * 65536 + 1, 2 ^ 24, 0x3F80, 2 * 2 ^ 28]
def jDec : Job := { jD .dec 0x6000 (2 ^ 32 + 0x8000) with started := true, inq := false, list := msgW }

theorem witness_SpansAreCodedAndDecoded :
    let sd := sD jDec dReady
    let su := encShared sEs 0 jEs
    let grant (s : State) (j : Job) : Bool := decide (CanStep s 0 j) && encJob s 0 0 == some j &&
      pickRot (s.pier 0).rotE (weightOf s 0) (encReady s 0) == some (0, (0, 1))
    holds [grant sEs jEs, inSpad 0 0x7000 128,
      gives (engReadAt (su.setPier 0 { su.pier 0 with rotE := (0, 1) }) (jobAgent 0 7) jEs.who 0x7000 128) (fun u bs =>
        decide (NothingWaits u) && u.poison == [] && (u.core 0).stream == [(7, [1, 2], false, false)] && (u.pier 0).jobs == [jEs] &&
        (u.pier 0).dslots == (sEs.pier 0).dslots && bs.length == 128),
      grant sd jDec, inSpad 0 0x8000 256, oneWindow 0 0x8000 256, msgSpans (msgW.headD 0) == 2,
      placed sd jDec.who .write (span 0x8000 256) (spadL 0x8000 256)] = true := by decide +kernel

/-- An ACCI at its first span, with an entry for its term; the same, stalled; and one that an announcement has released. -/
def jA : Job :=
  { jD .acci 0x9000 0 with started := true, inq := false, list := msgW, work := List.replicate 32 0, ver := 1, dictId := 9, tmpl2 := imgD ++ imgR }
def sA2 (j : Job) : State :=
  let s := sp sImg 0x9000 (leBytes 8 0x2000 ++ List.replicate 8 0 ++ leBytes 8 0 ++ leBytes 8 0xA000 ++ leBytes 8 0x3000 ++ leBytes 8 0xB000 ++
    List.replicate 16 0)
  s.setPier 0 { s.pier 0 with jobs := [j], images := [(0, ⟨9, 0, 0, 1, 0xFFFF, 0x3000, 0⟩)], tracked := [⟨9, 1, 0, []⟩] }
def jAr : Job := { jA with status := .parkedVersion, released := true, sent := true, started := false
                           msg := some ⟨0, 0, msgW.map (BitVec.ofNat 32), none, 1, 1, 0⟩, list := [], work := [], tmpl2 := [] }

theorem witness_AcciSteps :
    let st := { jA with ring := some 0 }
    let terms := (spanTerms (spanAt 0 (msgW.drop 2))).drop 0
    let s0' := (sA2 jA).setPier 0 { (sA2 jA).pier 0 with rotP := (0, 1) }
    let j1 : Job := { jAr with started := true, status := .running, released := false, prog := 0, prog2 := 0, tmpl2 := [] }
    let u := setJobOn (sA2 jAr) 0 j1
    let rd (a : State) (x n : Nat) : Got Bytes := engReadAt a (jobAgent 0 7) jAr.who x n
    holds [(acciDesc jA).any (fun d => d.o == 32 && d.spans == 2 && d.id == 9), decide (CanStep (sA2 jA) 0 jA),
      pickRot ((sA2 jA).pier 0).rotP (weightOf (sA2 jA) 0) (accReady (sA2 jA) 0) == some (0, (0, 1)), accJob (sA2 jA) 0 0 == some jA,
      (((sA2 jA).pier 0).jobs.filter (fun x => x.cmd == .acci && x.status == .running && x.bytesDone != 0)).isEmpty,
      terms.length == 1, msgSpans (msgW.headD 0) == 2,
      (match acciDesc jA with
       | some d => gives (acciRow s0' 0 jA d 0 0) (fun v r => r.isSome && decide (NothingWaits v) && (v.pier 0).jobs == [jA])
       | none => false),
      decide (CanStep (sA2 st) 0 st), accJob (sA2 st) 0 0 == some st, (imgLookup ((sA2 st).pier 0) 9 0 0 1).isSome, st.ring.isSome && terms != [],
      decide (NothingWaits (sA2 jAr)), !(sA2 jAr).quietPier 0,
      (List.range 8).findSome? (fun k => if (accJob (sA2 jAr) 0 k).isSome then none
        else leastBy (fun x => x.prog2) (releasedJobs (sA2 jAr) 0 k)) == some jAr,
      gives (rd u 0x9000 64) (fun s1 tb => leAt tb 0 8 == 0x2000 && leAt tb 0x18 8 == 0xA000 && leAt tb 0x28 8 % 8 == 0 && leAt tb 0x30 16 == 0 && leAt tb 0 8 % 64 == 0 && leAt tb 8 8 % 64 == 0 &&
        gives (readImgDesc rd s1 0x2000) (fun s2 q => (imgDesc? q.1 q.2).isSome && classify (s2.pier 0) 9 1 == .known &&
          gives (rd s2 0xA000 128) (fun s3 ys => ys.length == 128 && decide (NothingWaits s3) && (s3.pier 0).jobs == (u.pier 0).jobs))),
      headOk (msgW.getD 0 0) (msgW.getD 1 0) 9, spansOk 1 2 (msgW.drop 2), inSpad 0 0xA000 128, inSpad 0 0x3000 128] = true := by
  decide +kernel

/-- Commands on the version tables, an announcement, and a request of an IMGBLD whose sums are there. -/
def ann0 : Announce := ⟨3, 0, 9, 2, [0], none, 0⟩
def jV (cmd : Cmd) (a b : Nat) : Job := jD cmd a b
def sVt (j : Job) : State := let s := sp (sA2 j) 0xC000 (leBytes 2 5); s
def jQ : Job := { jV .dqry 9 0 with dreg := some 5, who := { job0.who with level := 1 }, a := 1 }
def jB (ins : Bool) : Job :=
  { jM .imgbld 0x2000 (2 ^ 32) with
      started := true, inq := false, prog := 1, use := some 1, list := [0x3000 + (if ins then 2 ^ 25 else 0)], bytesDone := 2
      tmpl := imgD, tmpl2 := List.replicate 64 0 ++ imgR, work := if ins then [3] else [] }
def sB2 (ins : Bool) : State :=
  let s := sImg
  s.setPier 0 { s.pier 0 with jobs := [jB ins], slots := [(0, ⟨true, 11, []⟩)], dslots := [(1, dReady)] }

theorem witness_VersionsTablesAndImageBuilds :
    let sa := { sA2 (jD .enc 0 0) with mesh := [.ann ann0] }
    let head (s : State) (j : Job) : Bool := decide (CanStep s 0 j) && settleHeads s 0 .span == s &&
      (List.range 8).findSome? (fun k => headReady s 0 k onTable) == some j &&
      (s.pier 0).jobs.find? (fun j => j.cmd == .dver && j.started && j.status == .running && j.prog == 0) == none
    let dv := jV .dver (2 ^ 32 + 0xC000) (9 * 65536 + 2)
    let sq := me (sVt jQ) (fun x => { x with role := .handler, record := 0 })
    holds [decide (NothingWaits sa), meshHead sa 3 0 == some (.ann ann0), !srcBlocked sa 3 0, (trackedAt? (sa.pier 0) 9).any (fun t => t.newest == 1),
      head (sVt (jV .dret (9 * 65536 + 1) 0)) (jV .dret (9 * 65536 + 1) 0), head sq jQ, (dqryAns (startJob sq 0 jQ).1 0 1 0).isSome,
      (sq.ctxs.find? (fun y => y.2.busy && y.2.record == 0 && y.2.vd == 1 && y.2.level == 1 && y.1 == 0)).isSome,
      head (sVt (jV .imginv 0 2)) (jV .imginv 0 2), head (sVt dv) dv, decide (bits dv.a.toNat 43 32 = 1 ∧ inSpad 0 0xC000 2 = true),
      pierAt (bits dv.b.toNat 39 32) (bits dv.b.toNat 45 40) == 0,
      gives (engReadAt (startJob (sVt dv) 0 dv).1 (jobAgent 0 7) dv.who 0xC000 2) (fun u bs => decide (NothingWaits u) && bs.length == 2),
      [false, true].all (fun b => decide (CanStep (sB2 b) 0 (jB b)) && decide (NoneSettles (sB2 b) 0) && imgbldDue (sB2 b) 0 == some (jB b) &&
        (imgDesc? (jB b).tmpl ((jB b).tmpl2.drop 64)).isSome)] = true := by decide +kernel

/-- The writes of a request of IMGBLD: the row and its tag; and the row into its buffer. -/
theorem witness_imageBuildWrites :
    let ag := jobAgent 0 7
    let rows (s : State) (j : Job) (f : ImgDesc → ImgReq → Bytes → Flags → Bool) : Bool :=
      (imgDesc? j.tmpl (j.tmpl2.drop 64)).any (fun d =>
        let r := imgReq (j.list.getD 0 0)
        let atom := trussRead s 0 (((dslotAt s 0 1).row + r.j) * 64) 64
        let ys := (imgbldSums s 0 j d atom).map (imgbldElem d.fmt)
        d.v == 1 && r.e == 0 && f d r (ys.flatMap (fun y => leBytes (fmtBytes d.fmt) y.1)) (orFlags (ys.map Prod.snd)))
    let same (u : State) (s : State) : Bool := decide (NothingWaits u) && (u.pier 0).jobs == (s.pier 0).jobs
    holds [decide (bits (jB false).b.toNat 33 32 = 1), rows (sB2 false) (jB false) (fun d r row fl =>
        let j1 : Job := { jB false with flags := (jB false).flags ||| fl, work := [1] }
        !r.ins && gives (engWriteAt (sB2 false) ag 1 (jB false).who (d.rowAddr (d.row r.s r.j r.e)) row) (fun s1 _ => same s1 (sB2 false) &&
          gives (engReadAt (setJobOn s1 0 j1) ag (jB false).who (d.tagAddr (d.row r.s r.j r.e)) 8) (fun s2 _ => same s2 (setJobOn s1 0 j1) &&
            (let u := setJobOn s2 0 { j1 with work := [2] }
             gives (engWriteAt u ag 1 (jB false).who (d.tagAddr (d.row r.s r.j r.e)) (leBytes 8 (2 ^ 63 + d.id * 2 ^ 32 + 0xFFFF * 2 ^ 16 + 2)))
               (fun s3 _ => same s3 u && decide (NoneSettles s3 0)))))),
      rows (sB2 true) (jB true) (fun _ r row _ => r.ins && gives (engWriteAt (sB2 true) ag 1 (jB true).who r.buf row) (fun s1 _ =>
        same s1 (sB2 true) && decide (NoneSettles s1 0) && s1.poison.isEmpty))] = true := by decide +kernel

/-! ### Witnesses: handles, relayouts, the reuse table -/

/-- A handle of one tracked BLK tile of FP32, with its control word in the data page. -/
def recT (ctl : Nat) : Bytes :=
  leBytes 8 tp ++ leBytes 8 (dp + 0x900) ++ leBytes 4 4 ++ List.replicate 24 0 ++ leBytes 4 ctl ++ leBytes 8 0 ++ leBytes 8 0
def hT : Handle := ⟨dp + 0x1000, false, recT 0x117⟩
def sHt (ctl : Nat) : State := { me sT (fun x => { x with h := [(5, hT)] }) with mem := memWrite sT.mem 0x4102C (leBytes 4 ctl) }
def cv (step tiles : Nat) : Conv := ⟨1, dp + 0x1000, tp, dp + 0x900, tiles, 4, 1, 2, step, [], [], [], []⟩
def sCv (step tiles : Nat) : State := { sHt 0x1917 with convs := [cv step tiles] }

theorem witness_HandlesAndRelayouts :
    let hs (b : Word) : State := sc (sH false) [(1, BitVec.ofNat 64 (dp + 0x1000)), (2, b)]
    let hg (n : Nat) : State := sc (sH false) [(2, BitVec.ofNat 64 n)]
    let rl (ctl : Nat) (b : Word) : State := sc (sHt ctl) [(2, b)]
    let full (s : State) : State := { s with convs := List.replicate 16 (cv 3 1) }
    let issue (s : State) : Bool := decide (Accepts s accG ∧ GuardOn s (modGuard s.me.pfx) ∧ FullS s [2, 3]) && s.me.reply.isNone && s.convs.length ≤ 16 &&
      decide (NothingMeets { s with convs := [] }) && s.convs.all (fun c => c.locked.isEmpty)
    let ctl := dp + 0x102C
    holds [decide (Accepts (hs 1) accG ∧ GuardOn (hs 1) (modGuard (hs 1).me.pfx) ∧ FullS (hs 1) [1, 2] ∧ (hs 1).me.pure = false),
      decide (NothingMeets (hs 1)), oneWindow 0 (dp + 0x1000) 64, reaches (hs 1) .read (span (dp + 0x1000) 64) (hereL 0x1000 64),
      recordOk ((hereL 0x1000 64).map (readHere (hs 1))), [13, 12, 2, 14].all (fun n => decide (FullS (hg n) [2, 3])),
      (hg 0).me.handle? 5 == some (hdl false), (hg 0).me.handle? 6 == none, oneWindow 0 ctl 4, reaches (hg 2) .read (span ctl 4) (hereL 0x102C 4),
      [(0x117, 2), (0x117, 1), (0x1917, 3), (0x117, 3)].all (fun e => issue (rl e.1 e.2)), issue (full (rl 0x117 2)),
      (rl 0x117 2).me.handle? 5 == some hT, recordOk hT.copy, !(rl 0x117 2).me.strict,
      reaches (rl 0x117 2) .write (span ctl 4) (hereL 0x102C 4), reaches (rl 0x117 2) .read (span ctl 4) (hereL 0x102C 4),
      leNat ((hereL 0x102C 4).map (readHere (rl 0x117 2))) == 0x117, leNat ((hereL 0x102C 4).map (readHere (rl 0x1917 2))) == 0x1917] = true := by
  decide +kernel

/-- Each step of a conversion. -/
theorem witness_RelayoutSteps :
    holds [(sCv 1 1).convs[0]? == some (cv 1 1), (convLeaves (sCv 1 1) (cv 1 1)).all (fun l => l.any (fun x => leafConverts x && !bit x 11)), !convMoving (sCv 1 1) (cv 1 1),
      apart (sCv 3 2) 1 tp 0x50000 [(0x50000, 4096), (0x40900, 8)], apart (sCv 3 2) 1 (dp + 0x900) 0x40900 [(0x50000, 4096), (0x40900, 8)],
      (sCv 3 2).broken.isNone, (lockedAt (sCv 3 2) 0x50000).isNone, ((sCv 5 1).vdev? 1).any (fun v => v.piers == [0]), !oldPlace (sCv 5 1) 0 (cv 5 1),
      [0, 1].all (fun n => (convControl (sCv 6 n) (cv 6 n) (fun w => setBits w 14 10 0)).2 &&
        apart (convControl (sCv 6 n) (cv 6 n) (fun w => setBits w 14 10 0)).1 1 (dp + 0x900) 0x40900 [(0x40900, 8)])] = true := by decide +kernel

/-- Firmware on context 0, with an entry table at 0x40400. -/
def sFw : State :=
  let s := me s0 (fun x => { x with role := .firmware })
  match s.job? 1 with
  | some j => s.setJob 1 { j with entryTab := dp + 0x400 }
  | none => s

theorem witness_HashesEntriesAndReuse :
    let c (b : Word) : State := sc s0 [(1, 0x2000), (2, b), (3, 0x3000)]
    let e (s : State) : State := sc s [(1, 0x1000000FF), (2, 0x8000000000001000)]
    let k : State := sc s0 [(1, 0x2000)]
    let r (s : State) (b : Word) : State := sc { s with reuse := [(5, ⟨List.replicate 16 0, [], 1, 0x1000, 1, 0⟩)] } [(2, b)]
    let ok (s : State) : Bool := decide (Accepts s accG ∧ GuardOn s (modGuard s.me.pfx) ∧ FullS s [1, 2, 3]) && decide (NothingMeets s)
    holds [[4, 0x100000, 0, 0x100004].all (fun b => ok (c b)), !(c 4).me.asked,
      gives (operand (c 4) 0x2000 4) (fun u bs => u == c 4 && bs.length == 4), oneWindow 0 0x3000 32, reaches (c 4) .write (span 0x3000 32) (spadL 0x3000 32),
      ok (e s0), ok (e sFw), ((e s0).job? 1).isSome, decide ((e s0).me.level < 3 ∧ (e sFw).me.level = 3),
      apart (e sFw) 1 (dp + 0x400 + 8 * 255) (0x40400 + 8 * 255) [(0x40400 + 8 * 255, 8)], ok k, oneWindow 0 0x2000 16,
      reaches k .read (span 0x2000 16) (spadL 0x2000 16), ok (r s0 (1 * 65536)), ok (r s0 (2 * 65536)), ok (r sFw (2 * 65536)),
      decide ((r s0 0).me.tenant.toNat = 1)] = true := by decide +kernel

/-! ### Witnesses: units, queues, launches -/

/-- A second record of the pool is READY, with this hint. -/
def r2 : Nat := rv + 64
def sRd (w3 : Nat) : State := writeRecord s0 1 r2 [stReady * 2 ^ 48 + 2 ^ 40 + 0x100, 0, 5 * 2 ^ 32 + 2, w3, 1000, 7, 8, 9]
def walk1 (offered : Bool) (s : State) : State := { s with walkers := [⟨r2, 1, 0, offered⟩] }
/-- All contexts of pier 0 are busy. -/
def crowd (s : State) : State := (List.range 32).foldl (fun s c => s.setCtx c { s.ctx c with role := .handler }) s
/-- The vacant context 1 of pier 0. -/
def free1 (s : State) : State := s.setCtx 1 { s.ctx 1 with vd := 1, freed := true }

theorem witness_RecordsArePlaced :
    let ready (s : State) : Bool := apart s 1 r2 0x20040 [(0x20040, 64)] && recState s 1 r2 == stReady && recCause s 1 r2 == 0 &&
      !bit (recWord s 1 r2 0) 59 && s.notices == []
    let a := walk1 false (free1 (sRd 0))
    let b := walk1 true (crowd (sRd 0))
    let c := walk1 true (crowd (sRd 2))
    let d := (free1 (sRd 0)).setPier 0 { s0.pier 0 with deque := [⟨0, r2, 1⟩] }
    let e := ((free1 (sRd 0)).setPier 1 { s0.pier 1 with owner := some 1, deque := [⟨0, r2, 1⟩] }).setPier 0 { s0.pier 0 with stealr := 4 }
    let f := { (sRd 0).setCtx 1 { s0.ctx 1 with vd := 1, stealing := true } with stolen := [(1, r2, 1)] }
    let g := (sRd 0).setPier 0 { s0.pier 0 with dqWait := [⟨0, r2, 1⟩] }
    holds [ready a, idleCtxs a (withinRadius 0 0 0 512 0) 1 != [], ready b, idleCtxs b 0 1 == [], pierAt 0 0 == 0,
      ready c, hopTo 0 2 0 != pierAt 2 0, idleCtxs c (hopTo 0 2 0) 1 == [], ready d, vacant d 1 1, (d.ctx 1).heldUnit.isNone,
      (d.pier 0).owner == some 1 && (d.vdev? 1).any (fun v => v.reserving.isNone), ready e, vacant e 1 1, (e.ctx 1).freed,
      (victims 0 4).find? (fun q => (e.pier q).owner == some 1 && !(e.pier q).deque.isEmpty) == some 1, ready f,
      (f.ctx 1).stealing && f.stolen.find? (fun t => t.1 == 1) == some (1, r2, 1) && !f.quiet 1, ready g,
      decide ((g.pier 0).deque.length < 4096)] = true := by decide +kernel

/-- A second counter of the job. -/
def sJ (v : Int) : State := { s0 with counters := kput 9 ⟨1, 0, 0, .plain, false, v, [], false⟩ s0.counters }

theorem witness_UnitsForkJoinAndSpawn :
    let f := sc (sJ 0) [(1, 0x10000000100), (2, 9)]
    let p := sc (sp (sJ 0) 0x2000 (leBytes 8 (2 ^ 40 + 0x100) ++ leBytes 8 0 ++ leBytes 8 1000 ++ leBytes 8 1 ++ leBytes 8 2 ++ leBytes 8 3)) [(1, 0x2000)]
    let j (v : Int) : State := sc (sJ v) [(1, 9)]
    let lv := sc (sJ 0) [(1, 0x10000000100), (2, 1)]
    let base (s : State) : Bool := decide (Accepts s accG ∧ GuardOn s (modGuard s.me.pfx) ∧ s.me.role = .unit ∧ s.me.pure = false ∧ s.cur < 409600) &&
      decide (NothingMeets s) && (s.launch? 2).isSome && (kget? s.counters 2).any (fun k => k.waiters == [] && k.value < 2 ^ 47 - 1) &&
      (s.vdev? 1).any (fun v => v.recPool.head? == some r2) && !onWayTo s s.cur 9 && !onWayTo s s.cur 1 && !onWayTo s s.cur 2
    holds [base f, base lv, decide (FullS f [1, 2, 3] ∧ FullS lv [1, 2, 3]), (ownCounter f 1 9).any (fun k => k.kind != .level && k.waiters == []),
      (ownCounter lv 1 1).any (fun k => k.kind == .level && k.waiters == []), apart f 1 r2 0x20040 [(0x20040, 64)], decide ((f.pier 0).deque.length < 4096), base p,
      gives (operand p 0x2000 48) (fun u ds => apart u 1 r2 0x20040 [(0x20040, 64)] && leAt ds 0 8 == 2 ^ 40 + 0x100 && bits (leAt ds 8 8) 31 19 == 0 &&
        fixHint p 1 0 0 == (0, 0)), decide ((p.pier 0).deque.length < 4096),
      base (j 0), base (j 1), decide (AtRest (j 1) 0 ∧ (j 1).preempts = []), apart (j 1) 1 rv 0x20000 [(0x20000, 64)]] = true := by decide +kernel

/-- A launch queue of two slots whose ring is in the data page, and its register block outside what the machine maps. -/
def q0 (ridx widx : Nat) : Queue :=
  { vd := 1, jobid := 1, ring := dp + 0x4000, logSize := 1, regPa := 0x100000, deck := 0, widx := widx, ridx := ridx, error := false, enabled := true
    host := none, pkt := none, wait := .check, info := noInfo, pending := [], drops := [] }
/-- A packet of two units without leases, dependences or list. -/
def pkt0 (units : Nat) : Bytes :=
  leBytes 8 (2 ^ 40 + 0x100) ++ leBytes 8 units ++ leBytes 8 0x77 ++ leBytes 8 0 ++ leBytes 8 0 ++ leBytes 8 0 ++ leBytes 8 0 ++ leBytes 8 (1000 * 2 ^ 32)
def sQ (q : Queue) (p : Bytes) : State := { s0 with queues := [(3, q)], mem := memWrite s0.mem 0x44000 p }

theorem witness_QueueRegistersAndLaunch :
    let s := sc (sp (sQ (q0 7 8) []) 0x2000 (pkt0 2)) [(1, 0x2000), (2, 3)]
    let full := sc (sp (sQ (q0 6 8) []) 0x2000 (pkt0 2)) [(1, 0x2000), (2, 3)]
    holds [s.broken.isNone, s.queue? 3 == some (q0 7 8), decide (Accepts s accG ∧ GuardOn s (modGuard s.me.pfx) ∧ FullS s [1, 2, 3]),
      decide (s.me.vd = 1 ∧ s.me.pure = false), gives (operand s 0x2000 64) (fun u p => p.length == 64 && (u.core 0).sb == [] && u.remote == [] &&
        u == s && placed u (sysWho 1 0) .write (span (dp + 0x4000) 64) (hereL 0x4000 64) &&
        (List.range 64).all (fun i => (regBlock s (0x44000 + i)).isNone)), s.transfers.isEmpty && s.poison.isEmpty && s.convs.isEmpty, full.queue? 3 == some (q0 6 8), decide (FullS full [1, 2, 3])] = true := by
  decide +kernel

/-- A launch with one unit generated and one to come. -/
def l0 : Launch :=
  { vd := 1, jobid := 1, queue := 3, seq := 7, deck := 0, phase := .generating, pkt := pkt0 2, units := 2, next := 1, spawnNext := 2, unplaced := []
    live := [], leases := [], retired := 1, status := 0, cause := .none, args := [], results := [], argAddrs := [], resAddrs := [], codeHash := []
    msgM := [], argGens := [], reuseCopy := none, skip := [] }
def sL (l : Launch) (v : Int) : State :=
  { s0.setLaunch 5 l with counters := kput 5 ⟨1, 0, 0, .level, false, v, [], false⟩ s0.counters }

theorem witness_LaunchesRun :
    let a := sQ (q0 7 8) (pkt0 2)
    let a2 := { a with mem := memWrite a.mem 0x44040 (pkt0 2) }
    let d := sQ { q0 8 8 with pkt := some (7, pkt0 2), wait := .depend } []
    let bad := { a with mem := memWrite a.mem 0x44040 (pkt0 0) }
    let adm (s : State) : Bool := s.broken.isNone && s.remote == [] && s.arrived == [] && s.transfers.isEmpty && !s.quiet 1 && (s.job? 1).any (fun j => !j.cancelled) &&
      (kget? s.counters 1).any (fun k => k.waiters == [] && k.value < 2 ^ 47 - 1) && (freeCounterId s 0).isSome &&
      freeCounterId (addCounter s 1 1) 0 == freeCounterId s 0 && (freeCounterId s 0).any (fun i => (kget? s.counters i).isNone)
    let g := sL l0 1
    let r := sL { l0 with next := 2, live := [r2], reuseCopy := some ⟨r2, 1, [], [], 0⟩ } 1
    let e := sL { l0 with next := 2, retired := 2, pkt := patch (pkt0 2) 40 (leBytes 8 (dp + 0x6000)) } 0
    holds [adm a2, ringPacket a2 (q0 7 8) 7 == pkt0 2, !packetBad (pkt0 2), adm d, adm bad, packetBad (ringPacket bad (q0 7 8) 7),
      bad.launches.any (fun l => l.2.jobid == 1 && l.2.phase != .ended),
      g.launch? 5 == some l0, (g.vdev? 1).any (fun v => v.recPool.head? == some r2), apart g 1 r2 0x20040 [(0x20040, 64)], !g.quiet 1,
      fixHint g 1 0 0 == (0, 0), gives (allGens r (launchAgent 5) 1 0 []) (fun u gs => u == r && gs == []), r.remote == [] && r.arrived == [] && r.transfers.isEmpty && !r.quiet 1,
      apart r 1 r2 0x20040 [(0x20040, 64)], (kget? r.counters 5).any (fun k => k.value == 1),
      gives (engWriteAt (e.setLaunch 5 { l0 with next := 2, retired := 2, pkt := patch (pkt0 2) 40 (leBytes 8 (dp + 0x6000)), phase := .recording, leases := [] })
        (launchAgent 5) 1 (procWho e 1) (dp + 0x6000) (leBytes 8 (2 ^ 63 + 2 ^ 48) ++ leBytes 8 5 ++ leBytes 8 2 ++ leBytes 8 7))
        (fun u _ => u.remote == [] && u.transfers.isEmpty && u.broken.isNone && u.counters == e.counters && u.launches.length == 2)] = true := by decide +kernel

/-! ### Witnesses: translation, leases, pages -/

/-- s with a leaf of the data page changed. -/
def leafD (s : State) (f : Nat → Nat) : State :=
  { s with mem := memWrite s.mem 0x4018 (leBytes 8 (f (leNat (memRead s.mem 0x4018 8)))) }
def noPiers (s : State) : State :=
  match s.vdev? 1 with
  | some v => s.setVdev 1 { v with piers := [], peerTab := 2 ^ 30 }
  | none => s
/-- Firmware on context 0 with a base and a tail of TLBINV. -/
def sTl (fw : Bool) (asked : Bool) : State := sc (me (if fw then sFw else s0) (fun x => { x with asked := asked })) [(1, BitVec.ofNat 64 dp), (2, 0x1000000000001)]
def sh0 (todo acks : List Nat) : State := { s0 with shoots := [⟨some 0, 1, some (dp, 1), todo, acks⟩] }
/-- The job may pin 64 pages. -/
def sQt : State :=
  match s0.job? 1 with
  | some j => s0.setJob 1 { j with frameQuota := 128 }
  | none => s0
/-- A page of a lease, in two words. -/
def sLs (a b : Nat) : State := sc sQt [(1, BitVec.ofNat 64 a), (2, BitVec.ofNat 64 b)]
def rg : LeaseRange := ⟨dp, 1, true⟩

theorem witness_TranslationInstructions :
    let req : LeaseReq := ⟨rv, 2, rg, false⟩
    let ls (s : State) : Bool := decide (Accepts s accG ∧ GuardOn s (modGuard s.me.pfx) ∧ FullS s [1, 2, 3] ∧ s.me.role = .unit) &&
      (s.launch? s.me.launchid.toNat).any (fun l => pkPure l.pkt == false && l.leases.length == 0 && rangeNumber l == some 1)
    let w := 2 ^ 32 * 3 + 1
    let lease1 (n : Nat) (s : State) : State := match s.launch? 2 with
      | some l => s.setLaunch 2 { l with leases := [(n, rg)] }
      | none => s
    let un (n : Nat) : State := lease1 n (sc s0 [(1, BitVec.ofNat 64 n)])
    let adv := sp (sc s0 [(1, 0x2000)]) 0x2000 (leBytes 8 dp ++ leBytes 4 1 ++ [6] ++ List.replicate 19 0)
    let av : Advice := ⟨1, rv, dp, 1, 3, 0⟩
    let pend := noPiers (leafD { s0 with advice := [av] } (fun x => setBits x 3 3 1))
    holds [[sTl true false, sTl true true, sTl false false].all (fun s => decide (s.broken = none ∧ Accepts s accG ∧ GuardOn s (modGuard s.me.pfx) ∧
          FullS s [1, 2] ∧ s.remote = [] ∧ s.arrived = [] ∧ s.transfers = [] ∧ (s.core 0).sb = []) && (s.vdev? 1).any (fun v => v.piers == [0]) &&
          decide ((s.me.getS 2).toNat / 2 ^ 48 = 1) && s.me.stop.isNone && !stopDue s.me),
      decide ((sTl true false).me.level = 3 ∧ (sTl true true).me.asked = true ∧ (sTl false false).me.level < 3),
      decide ((sh0 [0, 1] []).shoots[0]? = some ⟨some 0, 1, some (dp, 1), [0, 1], []⟩),
      (List.range 32).all (fun c => ((sh0 [] [0]).ctx c).stop.isNone) && (List.range 8).all (fun k => ((sh0 [] [0]).core k).sb == []) && !keptBack (sh0 [] [0]) 0,
      ls (sLs dp w) && ls (sLs 0x30000 w), rangeOf dp w == some rg, (rangeOf 0x30000 w).any (fun r => !rangeInside r), rangeInside rg,
      rangeInside ⟨2 ^ 40, 1, true⟩ && rangeInside ⟨2 ^ 48 - 65536, 1, true⟩ && !rangeInside ⟨2 ^ 48 - 65536, 2, true⟩ && !rangeInside ⟨2 ^ 40 - 65536, 2, true⟩,
      canFit sQt 1 [rg], resident sQt 1 rg, canFit { sQt with leaseReqs := [req] } 1 (rg :: jobRanges s0 1),
      [0, 1, 16, 17].all (fun n => decide (((un n).me.getS 1).toNat = n ∧ FullS (un n) [1] ∧ (un n).me.role = .unit)),
      (kget? ((un 1).launch? 2 |>.map (fun l => l.leases) |>.getD []) 1).isSome && (kget? ((un 16).launch? 2 |>.map (fun l => l.leases) |>.getD []) 16).isSome,
      decide (FullS adv [1] ∧ adv.me.pure = false ∧ Accepts adv accG), decide (NothingMeets adv), oneWindow 0 0x2000 32,
      reaches adv .read (span 0x2000 32) (spadL 0x2000 32), leAt ((spadL 0x2000 32).map (readHere adv)) 12 1 == 6,
      nextAdvice pend == some av, (let t := pagerMaps { pend with advice := pend.advice.erase av } 1 none []
        adviceKeeps av pend t && adviceSends av pend t == [] && mayShoot pend 1 && adviseSees pend 1 dp && (leafAt t 1 dp).any (fun x => x.1 == 0x4018 && bit x.2.1 3 &&
          (shootNow { t with mem := memWrite t.mem x.1 (leBytes 8 (setBits x.2.1 7 6 3)) } 1 dp 1).broken.isNone)),
      [un 1, un 16].all (fun s => s.remote.isEmpty && s.arrived.isEmpty && s.transfers.isEmpty && (s.core 0).sb.isEmpty &&
        (s.launch? 2).any (fun l => (retryFrames (unpinRange (s.setLaunch 2 { l with leases := [] }) l.vd rg) l.jobid).broken.isNone)),
      [0, 2 ^ 40 - 1, 2 ^ 48, 2 ^ 41].all (fun a => decide (a < 2 ^ 40 ∨ 2 ^ 48 ≤ a) || walk s0.mem (rootOf s0 1) a == none),
      (walk s0.mem (rootOf s0 1) dp).isSome && vdRanges s0 1 == []] = true := by decide +kernel

/-- The data page is a MIGRATE page, and peer 1 of its virtual device is module 7. -/
def sMg : State :=
  let s := leafD s0 (fun x => setBits x 7 6 3)
  { s with mem := memWrite s.mem 0x5008 (leBytes 8 (7 * 2 ^ 44 + 1)), counts := [(0x40000, ⟨1, dp, [(0, 255), (1, 256)]⟩)] }
def tr0 : Transfer := ⟨0x40000, 65536, 1, dp, 1, 7, 0x80000, [], [], [], false⟩
/-- A page that leaves, with a write of another module that it holds. -/
def trH : Transfer := { tr0 with heldWrites := [(0, 0x40010, [1, 2])] }
/-- The unit waits for the pager with a write fault at the data page. -/
def wrote (s : State) : State :=
  me s (fun x => { x with pageWait := true, stop := some ⟨.deliver, .writeProtect, 0, BitVec.ofNat 64 dp, 0, s.me.pc, [], false⟩ })
def sDup : State := { noPiers (leafD (wrote s0) (fun x => setBits x 8 8 1)) with dupRanges := [⟨1, dp, 1, 0, false, true⟩] }

theorem memGet_beyond {m : Mem} {n a : Nat} (h : m.all (fun c => decide (c.1 < n)) = true) (ha : n ≤ a) : memGet m a = blankByte := by
  induction m with
  | nil => rfl
  | cons c m ih =>
    simp only [List.all_cons, Bool.and_eq_true, decide_eq_true_eq] at h
    obtain ⟨k, v⟩ := c
    simp only at h
    simp only [memGet, if_neg (show ¬ a < k by omega), if_neg (show ¬ a = k by omega)]
    exact ih h.2

/-- Where the peer table lies behind all that memory holds, there is no peer. -/
theorem peersOf_beyond {s : State} {vd : Nat} {v : VDev} (hv : s.vdev? vd = some v)
    (h : s.mem.all (fun c => decide (c.1 < v.peerTab)) = true) : peersOf s vd = [] := by
  unfold peersOf
  rw [List.filterMap_eq_nil_iff]
  intro n hn
  rw [List.mem_drop_iff_getElem] at hn
  obtain ⟨i, hi, rfl⟩ := hn
  have hz : memRead s.mem (v.peerTab + 8 * (1 + i)) 8 = List.replicate 8 0 := by
    simp only [memRead]
    rw [List.map_congr_left (g := fun _ => (0 : Byte)) (fun k _ => memGet_beyond h (by omega))]
    rfl
  have hne : ((1 + i) == 0) = false := by simp
  have hl : leNat (List.replicate 8 (0 : Byte)) = 0 := by decide
  simp only [List.getElem_range, peerPrefix, hv, Option.map_eq_none_iff]
  rw [hne, hz, hl]
  simp [bit]

/-- A valid entry of the peer table is a peer. -/
theorem mem_peersOf {s : State} {vd n p : Nat} (h : peerPrefix s vd n = some p) (h0 : 0 < n) (hn : n < 4096) : (n, p) ∈ peersOf s vd := by
  unfold peersOf
  rw [List.mem_filterMap]
  refine ⟨n, ?_, by simp [h]⟩
  rw [List.mem_drop_iff_getElem]
  exact ⟨n - 1, by simp only [List.length_range]; omega, by simp only [List.getElem_range]; omega⟩

/-- The duplicated page, with module 7 as peer 1. -/
def sDup2 (master : Nat := 0) : State :=
  let s := leafD (wrote sMg) (fun x => setBits x 8 8 1)
  match s.vdev? 1 with
  | some v => { s.setVdev 1 { v with piers := [] } with dupRanges := [⟨1, dp, 1, master, true, true⟩] }
  | none => s

/-- The page after the collapse at its master. -/
def collapsed (s : State) : Bool :=
  (leafAt s 1 dp).any (fun x => x.2.2 == 4 && bit x.2.1 8 &&
    let c : Collapse := ⟨1, dp, s.ownPrefix, leafFrame x.2.1 * 65536 + dp / 65536 * 65536 % leafPages x.2.1, bit x.2.1 12, 0, false, []⟩
    let asked := { s with collapseWaits := s.collapseWaits ++ [(1, dp / 65536 * 65536)] }
    let u := shootNow { asked with collapses := [c], mem := memWrite s.mem x.1 (leBytes 8 (setBits (setBits (setBits (setBits x.2.1 8 8 0) 1 1 1) 7 6 0) 27 16 0)) } 1 (dp / 65536 * 65536) 1
    u.broken.isNone && u.collapses == [c] && u.collapseWaits == asked.collapseWaits) && s.collapses.isEmpty && s.collapseWaits.isEmpty && writeFault s 1 dp

theorem witness_PagesMoveAndCollapse :
    let mg := shootNow { sMg with transfers := [trH] } 1 dp 1
    holds [sMg.broken.isNone && Memory.wf sMg.mem && Memory.wf sDup.mem, (kget? sMg.counts 0x40000).any (fun c => migrateTo c 256 == some 1),
      (sMg.vdev? 1).any (fun v => v.migThresh == 256), peerPrefix sMg 1 1 == some 7,
      (leafAt sMg 1 dp).any (fun x => leafLoc sMg 1 x.2.1 dp == .here 0x40000 && leafMode x.2.1 == 3 && !bit x.2.1 12 && leafPages x.2.1 == 65536 && x.1 == 0x4018),
      decide (sMg.convs = [] ∧ sMg.transfers = [] ∧ 7 ≠ sMg.ownPrefix), mg.transfers == [trH] && mg.dying.isEmpty && mg.broken.isNone && Memory.wf mg.mem,
      (leafAt mg 1 dp).any (fun x => x.1 == 0x4018 && !bit x.2.1 10), (leafAt mg 1 (dp + (0x40010 - 0x40000))).isSome,
      (walkReads mg.mem dp 4 1 (rootOf mg 1)).all (fun e => decide (e + 8 ≤ 0x40000 ∨ 0x50000 ≤ e)),
      dupRange sDup 1 dp == some ⟨1, dp, 1, 0, false, true⟩, (sDup.vdev? 1).any (fun v => v.piers == []),
      mayShoot sMg 1 && mayShoot sDup 1 && mayShoot sDup2 1, peerPrefix sDup 1 0 == some sDup.ownPrefix && peerPrefix sDup2 1 0 == some sDup2.ownPrefix,
      collapsed sDup && collapsed sDup2 && collapsed (sDup2 1), dupRange sDup2 1 dp == some ⟨1, dp, 1, 0, true, true⟩,
      dupRange (sDup2 1) 1 dp == some ⟨1, dp, 1, 1, true, true⟩, sDup2.broken.isNone && Memory.wf sDup2.mem && (sDup2 1).broken.isNone && Memory.wf (sDup2 1).mem,
      peerPrefix sDup2 1 1 == some 7 && peerPrefix (sDup2 1) 1 1 == some 7, sDup2.ownPrefix != 7 && (sDup2 1).ownPrefix != 7,
      sDup.mem.all (fun c => decide (c.1 < 2 ^ 30))] = true ∧ (sDup.vdev? 1).map (fun v => v.peerTab) = some (2 ^ 30) := by
  decide +kernel

/-! ### Witnesses: messages -/

/-- A message of kind k with tag 9 and one word after its header; a receive that takes it. -/
def msg0 (k : Nat) : Msg := ⟨8, 0, [BitVec.ofNat 32 (k * 2 ^ 30 + 9 * 2 ^ 14 + 7), 0x55], none, 1, 1, 0⟩
def rcv0 (cap : Nat) (sink : Bool) : Recv :=
  { job := 7, vd := 1, jobid := 1, stk := s0.me.stkbase.toNat, strict := false, pure := false, launch := 2, level := 0, descr := 0x2000, buffer := 0x3000
    tag := 9, anyTag := false, anySrc := true, srcCore := 0, sink := sink, code := false, cap := cap }
def pier0 (s : State) (f : Pier → Pier) : State := s.setPier 0 (f (s.pier 0))
def rs0 (unit : Nat) (st : Option Word) : RecvState := ⟨7, unit, 0, 1, 0, st⟩
def sRc (s : State) (unit : Nat) (st : Option Word) : State :=
  pier0 (sc s [(1, 7)]) (fun x => { x with recvStates := [rs0 unit st], recvs := [(0, rcv0 2 false)] })
/-- A descriptor for POST: buffer at 0x3000 for two words of tag 9, any source. -/
def dPost : Bytes := leBytes 8 0x3000 ++ leBytes 8 (2 ^ 37 + 2 ^ 17 + 9) ++ List.replicate 16 0
def sOv (b : Nat) : State := pier0 (sc s0 [(1, 0x2000), (2, BitVec.ofNat 64 b)]) (fun x => { x with overflow := [(0, ⟨msg0 0, .none⟩)] })
def sFifo (s : State) (a : Nat) (q : List Word) : State := pier0 (sc s [(1, BitVec.ofNat 64 a), (2, 77)]) (fun x => { x with fifos := if q.isEmpty then [] else [(a, q)] })
/-- Context 0 waits to pop FIFO 15; context 1 runs. -/
def sBehind (q : List Word) : State :=
  let s := sFifo s0 15 q
  { s.setCtx 0 { s.ctx 0 with fifoWait := some (15, true) } with cur := 1 }.setCtx 1 (s.ctx 0)
def sCr (n : Nat) (w : Nat) : State := sp (sp (sc s0 [(1, 0x2000), (2, 5)]) 0x2000 (leBytes 8 0x3000 ++ leBytes 4 n)) 0x3020 (leBytes 8 w)

theorem witness_MessageInstructions :
    let base (s : State) : Bool := decide (Accepts s accG ∧ s.me.pure = false ∧ GuardOn s (modGuard s.me.pfx) ∧ FullS s [1, 2, 3]) && s.broken.isNone
    let p := sp (sc s0 [(1, 0x2000)]) 0x2000 dPost
    let m := sc s0 [(1, 0x2008)]
    holds [base p, decide (CanIssue p .message false 3), p.me.fullK 0 && (guardWord p.me g0).getLsbD 0,
      gives (postRead p (p.me.getS 1) 0) (fun u d => u == p && d.length == 32), gives (postRead m (m.me.getS 1) 0) (fun u d => u == m && d == []),
      base (sc s0 [(1, 8)]), myRecv (sRc s0 rv none) 8 == none, base (sRc s0 rv (some 5)), myRecv (sRc s0 rv (some 5)) 7 == some (rs0 rv (some 5)),
      base (sRc sFh 0 none), myRecv (sRc sFh 0 none) 7 == some (rs0 0 none), decide ((sRc sFh 0 none).me.role = .handler),
      base (sRc s0 rv none), myRecv (sRc s0 rv none) 7 == some (rs0 rv none), decide (AtRest (sRc s0 rv none) 0 ∧ (sRc s0 rv none).preempts = []),
      apart (sRc s0 rv none) 1 rv 0x20000 [(0x20000, 64)], ((sRc s0 rv none).pier 0).recvs.find? (fun e => e.2.job == 7) == some (0, rcv0 2 false),
      gives (engWriteAt (sRc s0 rv none) (jobAgent 0 7) 1 (recvWho (rcv0 2 false) 0) 0x2010 (leBytes 8 (2 ^ 63 + 3 * 2 ^ 48 + 7)))
        (fun u _ => u.ctxs == (sRc s0 rv none).ctxs && u.broken.isNone),
      [23, 24, 25].all (fun b => base (sOv b) && (((sOv b).pier 0).overflow.find? (fun y => y.1 == 0)).isSome),
      gives (selfStore (sOv 24) 0x2000 (leBytes 8 (statusWord (msg0 0) .done false 0) ++ leBytes 8 0 ++
        (msg0 0).words.flatMap (fun w => leBytes 4 w.toNat))) (fun u _ => u.ctxs == (sOv 24).ctxs && u.broken.isNone),
      [0, 15, 16].all (fun a => base (sFifo s0 a []) && base (sFifo s0 a (List.replicate 64 9)) && base (sFifo s0 a [9])),
      fifoAt (sFifo s0 15 (List.replicate 64 9)) 0 15 == List.replicate 64 9, fifoAt (sFifo s0 15 []) 0 15 == [],
      [sFifo s0 15 [9], sFifo s0 15 (List.replicate 64 9), sBehind [9]].all (fun s => (s.core 0).sb.isEmpty && !remoteOf s s.cur),
      [true, false].all (fun b => !fifoBehind (sFifo s0 15 [9]) 0 15 b && fifoBehind (sBehind [9]) 0 15 b), base (sBehind [9]) && decide (MayWait (sBehind [9])),
      decide (MayWait s0), base (sFifo sFh 15 []) && base (sFifo sFh 15 (List.replicate 64 9)),
      [(1, 2 ^ 63), (1, 5), (4, 2 ^ 63 + 1)].all (fun e => let s := sCr e.1 (if e.1 = 1 then 0 else e.2)
        let s := if e.1 = 1 then sp s 0x3000 (leBytes 8 e.2) else s
        base s && decide (NothingMeets s ∧ MayWait s) && gives (operand s 0x2000 32) (fun u ds => u == s && leAt ds 0 8 == 0x3000 && leAt ds 8 4 == e.1 &&
          2 ^ e.1.log2 == e.1 && gives (operand u (0x3000 + 32 * (5 % e.1)) 8) (fun v ws => v == s && leNat ws == e.2 &&
            v.remote.isEmpty && v.arrived.isEmpty && reaches v .read (span (0x3000 + 32 * (5 % e.1)) 8) (spadL (0x3000 + 32 * (5 % e.1)) 8))))] = true := by
  decide +kernel

/-- A SEND of one word to core 0 of pier 0, a SENDC of a stream message, and a POST, each at the head of its queue. -/
def jSd (n : Nat) : Job := { job0 with eng := .message, cmd := .send, a := 0x2000, b := BitVec.ofNat 64 (n * 2 ^ 32 + 9 * 2 ^ 14) }
def jSq : Job := { job0 with eng := .message, cmd := .sendc, b := BitVec.ofNat 64 (9 * 2 ^ 14) }
def jPo : Job := { job0 with eng := .message, cmd := .post, a := 0x2000 }
def sMs (m : Msg) : State := { s0 with mesh := [.msg m] }
/-- The job takes active messages; entry 7 is at 0x100 of the code page. -/
def sAm (m : Msg) : State :=
  let s := pier0 (sMs m) (fun x => { x with entries := [(256 + 7, 2 ^ 63 + 2 ^ 40 + 0x100)] })
  match s.job? 1 with
  | some j => s.setJob 1 { j with handlers := true, entryTab := dp + 0x400 }
  | none => s
/-- The overflow area holds nothing but what parked announcements use. -/
def fullArea (s : State) : State := pier0 s (fun x => { x with fullRaised := true, overflow := [(1, ⟨{ msg0 0 with words := List.replicate 4090 0 }, .none⟩)] })
def dl0 (n avail done : Nat) (sink : Bool) : Delivery := ⟨rcv0 n sink, msg0 0, avail, done, false⟩
def delivers (u : State) (d : Delivery) : Bool :=
  let r := d.recv
  let n := if r.sink then 0 else min d.avail r.cap
  u.remote == [] && (List.range n).all (fun k => decide (k < d.done) || (elementFault u (recvWho r 0) .write ((r.buffer + 4 * k) % 2 ^ 64) 4).isNone) &&
  gives (if d.done < n then engWrite u (jobAgent 0 7) r.jobid (recvWho r 0) ((List.range (n - d.done)).flatMap (fun i =>
      (span ((r.buffer + 4 * (d.done + i)) % 2 ^ 64) 4).zip (leBytes 4 (d.msg.words.getD (d.done + i) 0).toNat))) else .ok u ())
    (fun v _ => v.remote == [] && gives (engWriteAt v (jobAgent 0 7) r.jobid (recvWho r 0) (r.descr + 16) (leBytes 8 (statusWord d.msg .done (cutShort d) r.job)))
      (fun w _ => decide (NothingWaits w) && (w.pier 0).recvStates.all (fun q => q.unit != 0 && recState w q.vd q.unit != stWaiting)))

theorem witness_MessagesAreDelivered :
    let head (s : State) (j : Job) : Bool := decide (CanStep s 0 j ∧ queued s 0 .message 0 = [j] ∧ j.held = none)
    let sd (n : Nat) : State := withJob (sp s0 0x2000 (leBytes 4 0x77)) 0 (jSd n)
    let cs := (withJob s0 0 jSq).setCore 0 { s0.core 0 with stream := [(3, [1, 2], true, false)] }
    let po := withJob (sp s0 0x2000 dPost) 0 jPo
    let arr (s : State) (m : Msg) : Bool := let s1 := { s with mesh := s.mesh.erase (.msg m) }
      decide (NothingWaits s) && nextMsg s 8 0 == some m && !srcBlocked s 8 m.seq && m.dst == 0 && (acceptMsg s1 0 m).broken.isNone && (acceptMsg s1 0 m).dying == []
    let am := sAm (msg0 1)
    let posted (s : State) (cap : Nat) : State := pier0 s (fun x => { x with recvs := [(0, rcv0 cap false)], recvStates := [rs0 rv none] })
    holds [[0, 1].all (fun n => head (sd n) (jSd n)), msgDest s0 1 (jSd 1).b.toNat == some 0,
      gives (engReadAt (sd 1) (jobAgent 0 7) (jSd 1).who 0x2000 4) (fun u _ => u.broken.isNone), head cs jSq, sendcDest cs jSq == some 0,
      (cs.pier 0).jobs.all (fun k => k.cmd != .enc), head po jPo,
      gives (engReadAt po (jobAgent 0 7) jPo.who 0x2000 32) (fun u ds => (recvOf jPo ds).isSome && u.broken.isNone && (u.pier 0).recvs == [] &&
        (u.pier 0).jobs == [jPo] && recState u 1 rv != stWaiting), arr am (msg0 1), !msgCancelled am (msg0 1), (handlerOf am 0 (msg0 1)).isSome,
      (am.core 0).ingress == [] && handlerFree am 0, !handlerFree (am.setCtx 3 { am.ctx 3 with role := .handler }) 0,
      arr (sMs (msg0 0)) (msg0 0), (firstMatch ((sMs (msg0 0)).pier 0) (msg0 0)).isNone, ovEntries (msg0 0) ≤ areaFree ((sMs (msg0 0)).pier 0),
      arr (fullArea (sMs (msg0 0))) (msg0 0), areaFree ((fullArea (sMs (msg0 0))).pier 0) < ovEntries (msg0 0),
      [1, 2, 3].all (fun cap => arr (posted (sMs (msg0 0)) cap) (msg0 0) && firstMatch ((posted (sMs (msg0 0)) cap).pier 0) (msg0 0) == some (0, rcv0 cap false) &&
        delivers (acceptMsg (pier0 { posted (sMs (msg0 0)) cap with mesh := [] } (fun x => { x with recvs := [] })) 0 (msg0 0)) (dl0 cap 2 0 false)),
      (let s := pier0 s0 (fun x => { x with held := [msg0 0], fullRaised := true })
       decide (NothingWaits s) && !s.quietPier 0 && (parkWaiter (s.pier 0)).isNone && (firstMatch (s.pier 0) (msg0 0)).isNone && ovEntries (msg0 0) ≤ areaFree (s.pier 0)),
      (let s := (sAm (msg0 1)).setCore 0 { s0.core 0 with ingress := [msg0 1] }
       decide (NothingWaits s) && (handlerOf s 0 (msg0 1)).isSome && handlerFree s 0 && (acceptMsg s 0 (msg0 1)).dying == []),
      [dl0 2 2 1 false, dl0 2 2 2 false, dl0 1 2 0 false, dl0 1 1 0 true].all (fun d =>
        let s := pier0 s0 (fun x => { x with deliveries := [(0, d)], recvStates := [rs0 rv none] })
        !s.quietPier 0 && delivers (pier0 s (fun x => { x with deliveries := [] })) d)] = true := by decide +kernel

/-! ### Witnesses: counters -/

/-- Context 0 with these operands, in these words 0 and 1 of a reply. -/
def sCo (a b : Nat) (r : Option (List Word)) (asked : Bool) : State :=
  me (sc s0 [(1, BitVec.ofNat 64 a), (2, BitVec.ofNat 64 b)]) (fun x => { x with reply := r, asked := asked })
/-- A MIGRATE page with counts; and the same of a page at peer 1, module 7. -/
def sAc (peer : Nat) (acc : List AccntSt) : State :=
  let s := leafD sMg (fun x => setBits x 27 16 peer)
  sc { s with accnts := acc } [(1, BitVec.ofNat 64 dp), (2, 4095)]

theorem witness_CounterInstructions :
    let base (s : State) : Bool := decide (Accepts s accG ∧ GuardOn s (modGuard s.me.pfx) ∧ s.me.pure = false ∧ FullS s [1, 2, 3])
    let lo := 2 ^ 64 - 2 ^ 47
    let w : State := match kget? (sJ 7).counters 9 with
      | some k => { sCo 9 3 (some [3, 9]) true with counters := kput 9 { k with waiters := [⟨1, rv, 0, .le 3⟩] } s0.counters }
      | none => s0
    holds [[(17, 0), (16, lo - 1), (0, 2 ^ 47), (16, lo), (0, 2 ^ 47 - 1), (16, 0), (0, 2 ^ 64 - 1), (9, 65535), (9, 65536), (15, 0), (9, 65535 * 65536),
        (9, 2 ^ 48), (9, 2 ^ 48 - 1), (9, 0), (9, 2 ^ 32), (9, 2 ^ 32 - 1), (4095, 4096)].all (fun e => base (sCo e.1 e.2 none false) && base (sCo e.1 e.2 none true) &&
          decide (MayWait (sCo e.1 e.2 none false))),
      decide ((sCo 0 lo none false).me.getS 2 |>.toInt |> (· = -(2 ^ 47))), decide (((sCo 0 (lo - 1) none false).me.getS 2).toInt < -(2 ^ 47)),
      [[0, 1], [1, 0x10000001], [2, 1, 4, 9, 3], [5, 6], [6, 1]].all (fun r => base (sCo 16 0 (some r) true)), Cause.ofCode 1 == some .illegal,
      base w, decide (w.me.reply = some [3, 9] ∧ w.me.role = .unit ∧ AtRest (w.setMe { w.me with reply := none }) 0 ∧ w.preempts = []),
      apart w 1 rv 0x20000 [(0x20000, 64)], (kget? w.counters 9).any (fun k => k.waiters.any (fun q => q.record == rv && q.vd == 1)),
      decide (((sCo 0 0 none false).core 0).sb = []), base (sAc 0 []), base (sAc 1 []),
      (walk (sAc 0 []).mem (rootOf (sAc 0 []) 1) dp).any (fun y => leafMode y == 3 && leafPeer y == 0),
      (walk (sAc 1 []).mem (rootOf (sAc 1 []) 1) dp).any (fun y => leafMode y == 3 && peerPrefix (sAc 1 []) 1 (leafPeer y) == some 7),
      (walk s0.mem (rootOf s0 1) dp).any (fun y => leafMode y != 3), walk s0.mem (rootOf s0 1) (2 ^ 41) == none,
      decide (MayWait (sAc 1 []) ∧ (sAc 1 [⟨0, 5, some 8⟩]).accnts.find? (fun q => q.ctx == 0) = some ⟨0, 5, some 8⟩)] = true := by decide +kernel

/-- One request of context 0, and counter 9 of its job. -/
def ctr (op : CtrOp) (id : Nat := 9) (lv : Nat := 0) : CtrReq := ⟨0, rv, 1, lv, id, op⟩
def kk (kind : CKind) (v : Int) (ws : List Waiter) : Counter := ⟨1, 3, 5, kind, false, v, ws, false⟩
def sCt (r : CtrReq) (k : Counter) : State := { s0 with ctrReqs := [r], counters := kput 9 k s0.counters }
/-- Counter 9 with a waiter whose record is WAITING. -/
def sWt : State :=
  let s := writeRecord s0 1 r2 [stWaiting * 2 ^ 48 + 2 ^ 40 + 0x100, 0, 5 * 2 ^ 32 + 2, 0, 1000, 7, 8, 9]
  { s with ctrReqs := [ctr (.add 2)], counters := kput 9 (kk .plain (-2) [⟨1, r2, 0, .zero⟩]) s0.counters }
/-- The same, its counter a phase counter of one arrival that the record waits for. -/
def sWp : State := { sWt with ctrReqs := [ctr (.arrive 1)], counters := kput 9 (kk .phase 1 [⟨1, r2, 0, .phaseNot 3⟩]) s0.counters }
/-- The same phase counter, which is cancelled. -/
def sWk : State := { sWp with ctrReqs := [ctr (.cancelLevel 3 0)] }
/-- Cancellations of unit 1 of launch 5 and of the whole of it: unit 1 is to come, or is READY. -/
def sCn (kind n : Nat) (l : Launch) : State :=
  { (writeRecord s0 1 r2 [stReady * 2 ^ 48 + 2 ^ 40 + 0x100, 0, 5 * 2 ^ 32 + 5, 0, 1000, 7, 8, 9]).setLaunch 5 l with ctrReqs := [ctr (.cancelLevel kind n) 5], counters := kput 5 ⟨1, 0, 0, .level, false, 1, [], false⟩ s0.counters }
def lc : Launch := { l0 with live := [], retired := 0 }

def noJob : JobRec := ⟨1, 1, 0, false, 0, 0, 0, false, .none⟩

theorem witness_CounterRequests :
    let base (s : State) (r : CtrReq) : Bool := decide (NothingWaits s) && s.ctrReqs[0]? == some r && !holdsFor s 0 && (s.ctx 0).stop.isNone
    let own (op : CtrOp) (k : Counter) (lv : Nat := 0) : Bool := base (sCt (ctr op 9 lv) k) (ctr op 9 lv) && ownCounter (sCt (ctr op 9 lv) k) 1 9 == some k
    let cancel (kind n : Nat) (l : Launch) : Bool := let s := sCn kind n l
      base s (ctr (.cancelLevel kind n) 5) && (kget? s.counters 5).any (fun k => !k.provisional && k.owner == 1) && s.launch? 5 == some l &&
        (s.vdev? 1).any (fun v => v.reserving.isNone && v.coresQ == [])
    let g := { sCt (ctr (.cancelLevel 2 0)) (kk .plain 0 []) with launches := [] }
    let g1 := { sCt (ctr (.cancelLevel 2 0)) (kk .plain 1 []) with launches := [] }
    let ended (kind id lv own : Nat) (f : Option Nat → Bool) : Bool :=
      let s := ({ s0 with ctrReqs := [ctr (.cancelLevel kind 0) id lv] }.setLaunch 6 { l0 with phase := .ended, jobid := own }).setJob 8 ((s0.job? 1).getD noJob)
      base s (ctr (.cancelLevel kind 0) id lv) && kget? s.counters id == none && f (completedOwner s kind id)
    let j := { sCt (ctr (.cancelLevel 4 0) 1) (kk .plain 0 []) with launches := [], piers := [] }
    let q := { sCn 0 5 { lc with live := [r2], next := 2 } with piers := [] }
    holds [own (.add 1) (kk .plain (2 ^ 47 - 1) []), own (.add (-1)) (kk .phase (-(2 ^ 47)) []), own (.add 1) (kk .level 0 []), own (.add 1) (kk .level 0 []) 3,
      base sWt (ctr (.add 2)), ownCounter sWt 1 9 == some (kk .plain (-2) [⟨1, r2, 0, .zero⟩]), apart sWt 1 r2 0x20040 [(0x20040, 64)],
      recState sWt 1 r2 == stWaiting && !bit (recWord sWt 1 r2 0) 60, condHolds (kk .plain 0 []) .zero, base sWp (ctr (.arrive 1)), ownCounter sWp 1 9 == some (kk .phase 1 [⟨1, r2, 0, .phaseNot 3⟩]),
      (match exec (.counterOpArrive 0) sWp with | .next _ => true | _ => false),
      base sWk (ctr (.cancelLevel 3 0)), (kget? sWk.counters 9).any (fun k => !k.provisional && k.owner == 1 && k.waiters == [⟨1, r2, 0, .phaseNot 3⟩]),
      apart sWk 1 r2 0x20040 [(0x20040, 64)], recState sWk 1 r2 == stWaiting && !bit (recWord sWk 1 r2 0) 60,
      [0, 1, 2].all (fun v => own (.arrive 1) (kk .phase v [])), own (.arrive 1) (kk .plain 1 []), own (.arrive 1) { kk .phase 1 [] with cancelled := true }, own (.expect 3 1) (kk .phase 1 []), own (.expect 4 1) (kk .phase 1 []),
      own (.expect 3 1) { kk .phase 1 [] with cancelled := true }, own (.cwait (.phaseNot 3)) (kk .phase 0 []), own (.cwait (.phaseNot 2)) (kk .phase 0 []),
      own (.cwait (.le 0)) (kk .plain 0 []), own (.cwait (.le 0)) (kk .plain 1 []), own .cfree (kk .plain 0 []), own .cfree (kk .level 0 []),
      own .cfree (kk .plain 0 [⟨1, rv, 0, .zero⟩]), !namedByPacket (sCt (ctr .cfree) (kk .plain 0 [])) 1 9,
      [CtrOp.add 1, .arrive 1, .expect 3 1, .cwait .zero, .cfree].all (fun op => base (sCt (ctr op 8) (kk .plain 0 [])) (ctr op 8) &&
        ownCounter (sCt (ctr op 8) (kk .plain 0 [])) 1 8 == none),
      [0, 2 ^ 28].all (fun id => let s := sCt (ctr (.cnew true (id / 2 ^ 28) 4) id) (kk .plain 0 [])
        base s (ctr (.cnew true (id / 2 ^ 28) 4) id) && (freeCounterId s (id / 2 ^ 28)).any (fun n => (kget? s.counters n).isNone) &&
        (s.job? 1).any (fun j => quotaUsed s 1 < j.counterQuota)),
      ((s0.job? 1).any (fun j => let s := (sCt (ctr (.cnew false 0 4)) (kk .plain 0 [])).setJob 1 { j with counterQuota := 1 }
        (s.job? 1).any (fun j => j.counterQuota ≤ quotaUsed s 1))),
      own (.cancelLevel 3 0) (kk .phase 1 []), own (.cancelLevel 3 0) (kk .plain 1 []), base g (ctr (.cancelLevel 2 0)), base g1 (ctr (.cancelLevel 2 0)), cancel 0 1 lc, cancel 1 0 lc,
      base q (ctr (.cancelLevel 0 5) 5), apart q 1 r2 0x20040 [(0x20040, 64)], recState q 1 r2 == stReady && recCause q 1 r2 == 0 && recWord q 1 r2 1 == 0,
      bits (recWord q 1 r2 2) 63 32 == 5, recLaunch q 1 r2 == 5,
      q.ctxs.all (fun y => y.2.record != r2) && recordJobs q 1 r2 == [], base j (ctr (.cancelLevel 4 0) 1), (j.job? 1).any (fun x => !x.cancelled),
      ended 2 6 0 1 (· == none), ended 1 6 0 9 (· == some 9), ended 4 8 0 1 (· == some 8), ended 1 6 0 1 (· == some 1), ended 1 6 3 9 (· == some 9)] = true := by
  decide +kernel

/-! ### Witnesses: entries, the pager, firmware -/

/-- Context 0 runs the entry for its unit, whose frame is at fv, or for a unit that has none. -/
def sEn (k : EntryKind) (f : Nat) : State :=
  let s := writeRecord s0 1 rv [stFaulted * 2 ^ 48 + 2 ^ 40, f, 2, 0, 19 * 2 ^ 32 + 1000, 0, 0, 0]
  me s (fun x => { x with role := .entry k })
def noti (r : Nat) : Notice := ⟨1, 1, .overflowFull, 0, 0, 2, 0, r⟩
/-- The second record, off contexts: in this state, with this cause, its frame at fv with PAGE. -/
def sPg (st c : Nat) : State :=
  let s := writeRecord s0 1 r2 [2 ^ 59 + st * 2 ^ 48 + 2 ^ 40, fv, 5 * 2 ^ 32 + 2, 0, c * 2 ^ 32 + 1000, 7, 8, 9]
  { s with mem := memWrite s.mem 0x31468 (leBytes 8 6) }

/-- The same with a write fault at the data page. -/
def sPw : State := let s := sPg stFaulted 7; { s with mem := memWrite (memWrite s.mem 0x31468 (leBytes 8 7)) 0x31470 (leBytes 8 dp) }

theorem witness_EntriesReturn :
    let base (s : State) : Bool := decide (Accepts s accG ∧ GuardOn s (modGuard s.me.pfx) ∧ AtRest s 0 ∧ s.me.preemptReq = false ∧ s.preempts = []) &&
      (s.vdev? 1).isSome && Memory.wf s.mem
    let ab (a b : Nat) (s : State) : State := sc s [(1, BitVec.ofNat 64 a), (2, BitVec.ofNat 64 b)]
    let en := sEn .unit fv
    let e0 := sEn .unit 0
    let nt (k : EntryKind) : State := { me (sEn k 0) (fun x => { x with record := r2 }) with notices := [noti r2] }
    let pg := sPg stFaulted 6
    holds [[(0, 0), (2 ^ 48 - 4, 2 ^ 32 - 1)].all (fun e => base (ab e.1 e.2 en) && decide (FullS (ab e.1 e.2 en) [1, 2])),
      decide (en.me.role = .entry .unit ∧ en.me.record = rv), recFrame en 1 rv 0x20000 fv 0x30000, recWord en 1 rv 1 == fv,
      (List.range 8).all (fun n => !bit (leNat (memRead en.mem (0x31620 + 8 * n) 8)) 63),
      (List.range 16).all (fun n => bits (leNat (memRead en.mem (0x31360 + 8 * n) 8)) 47 6 == 0), base (ab 0 22 e0), base (ab 0 0 e0),
      apart e0 1 rv 0x20000 [(0x20000, 64)] && recWord e0 1 rv 1 == 0, recordJobs e0 1 rv == [] && recordJobs en 1 rv == [],
      (Cause.ofCode 22).isSome && (Cause.ofCode 0).isSome, decide (e0.dying = []), (List.range 64).all (fun d => (e0.ctx d).heldUnit.isNone),
      (e0.launch? (recLaunch e0 1 rv)).isSome && (kget? e0.counters (recLaunch e0 1 rv)).any (fun k => k.waiters == [] && k.value == 1),
      [EntryKind.notice, .handlerRecord].all (fun k => base (nt k) && apart (nt k) 1 r2 0x20040 [(0x20040, 64)] && recWord (nt k) 1 r2 1 == 0 && recordJobs (nt k) 1 r2 == []),
      base s0 && decide (s0.me.level < 2),
      (let s := { s0 with notices := [noti 0] }; s.broken.isNone && !s.quiet 1 && (s.job? 1).isSome && (s.vdev? 1).any (fun v => v.recPool.head? == some r2)),
      apart s0 1 r2 0x20040 [(0x20040, 64)], apart pg 1 r2 0x20040 [(0x20040, 64)], !onContext pg 1 r2 && !framePending pg 1 r2,
      waitsPager pg 1 r2 && !pg.frozen 1 && frameCause pg 1 r2 != Cause.writeProtect.code, frameCause sPw 1 r2 == Cause.writeProtect.code && waitsPager sPw 1 r2 && !sPw.frozen 1 && frameAddr sPw 1 r2 == dp,
      writeResolved sPw 1 dp && mayPassWrite sPw 1 dp, apart sPw 1 r2 0x20040 [(0x20040, 64)], !onContext sPw 1 r2 && !framePending sPw 1 r2,
      mayPassPage pg 1 (frameAddr pg 1 r2) && mayPassPage sPw 1 dp,
      [stParked, stFaulted].all (fun st => recState (sPg st 22) 1 r2 == st && !waitsPager (sPg st 22) 1 r2 && !onContext (sPg st 22) 1 r2 && !framePending (sPg st 22) 1 r2),
      (pg.vdev? 1).any (fun v => v.piers.contains 0 && !v.quiesced),
      (let s := me s0 (fun x => { x with stop := some (stp false), pageWait := true }); (s.ctx 0).stop == some (stp false) && (s.ctx 0).pageWait), (wrote s0).me.pageWait && writeResolved (wrote s0) 1 dp,
      (let j := { job0 with status := .faulted, cause := .page }
       let s := pier0 (withJob s0 0 j) (fun x => { x with owner := none })
       (s.pier 0).owner.isNone && (s.pier 0).jobs.filter (fun k => k.id == j.id) == [j] && s.arrived == [] && s.remote == [])] = true := by decide +kernel

/-- Firmware with an operand block of RELOC at 0x2000 of scratchpad: module 7, number 4. -/
def sRl : State := sp (sc sFw [(1, 1), (2, 0x2000)]) 0x2000 (leBytes 8 (7 * 2 ^ 44) ++ leBytes 2 4)
def img0 (cs : KMap Counter) : VdImage :=
  { fromPrefix := 7, fromVd := 4, toVd := 1, piers := [0], areas := [], leaves := [], states := [], recPool := [r2], framePool := [fv]
    stackPool := [], counters := cs, jobs := [], launches := [], queues := [], walkers := [], notices := [], places := [], taints := []
    sliceFaults := [], reserved := [], reserving := none, coresQ := [], dupRanges := [] }
def vd1 (s : State) (f : VDev → VDev) : State :=
  match s.vdev? 1 with
  | some v => s.setVdev 1 (f v)
  | none => s

theorem witness_FirmwareInstructions :
    let base (s : State) : Bool := decide (Accepts s accG ∧ GuardOn s (modGuard s.me.pfx) ∧ FullS s [1, 2, 3] ∧ MayWait s)
    let a (n : Nat) : State := sc sFw [(1, BitVec.ofNat 64 n)]
    let pre (l : List Nat) : State := { sFw with preempts := [⟨some 0, none, l, [], [(1, 1, rv)]⟩] }
    let rl (q : RelocSt) : State := { sRl with relocs := [q] }
    let q0 : RelocSt := ⟨1, 7, 4, false, false, false⟩
    let rd (s : State) : Bool := base s && gives (operand s 0x2000 32) (fun u ds => u == s && leAt ds 0 8 == 7 * 2 ^ 44 && leAt ds 8 2 == 4 &&
      (ds.drop 10).all (fun b => b == 0))
    let im (cs : KMap Counter) : State := { sRl with images := [img0 cs], mem := memWrite sRl.mem 0x5008 (leBytes 8 (7 * 2 ^ 44 + 1)) }
    let fits (cs : KMap Counter) : Bool := let s := im cs
      let m : Move := ⟨4, 1, [0], [0]⟩
      imageFits { s with images := [] } m (img0 cs) && (img0 cs).leaves.all (fun l => (leafAt (mapLeaves { s with images := [] } 1 (img0 cs)) 1 l.1).isSome)
    let pp := vd1 (leafD sMg (fun x => setBits (setBits x 27 16 1) 7 6 1)) (fun v => { v with movedFrom := some 7 })
    holds [preOperand .vd 65536 == none && base (a 65536), preOperand .cores (200 * 256 + 1) == some none && base (a (200 * 256 + 1)),
      preOperand .vd 1 == some (some (.vd 1)), preOperand .job 1 == some (some (.job 1)), preOperand .cores 1 == some (some (.cores 0 1)),
      decide (sFw.me.level = 3 ∧ s0.me.level < 3), (preRequest sFw (some 0) (.vd 9)).todo == [], (preRequest sFw (some 0) (.vd 1)).todo != [],
      [[], [0]].all (fun l => base (pre l) && ((pre l).preempts.find? (fun q => q.ctx == some 0)).any (fun q => q.todo == l && q.waiting == [])),
      [2 ^ 22 + 1, 2 ^ 22 - 1, 256, 1, 0].all (fun n => base (a n)), (maskCores 1).all (fun k => haltReached (a 1) 0 k) && maskCores 1 == [0],
      ((a 1).setCore 1 { (a 1).core 1 with halted := true }).cur == 0, rd sRl, base (sc sFw [(1, 65535), (2, 4)]), decide (7 ≠ sRl.ownPrefix),
      (sRl.vdev? 1).any (fun v => v.movedTo.isNone), rd (rl q0) && healthyPorts (rl q0) 7 != [] && calm (rl q0) 1,
      gives (relocDicts (rl q0) 1 [0]) (fun u ds => ds == [[]] && u.me == (rl q0).me && u.broken.isNone) && ((rl q0).vdev? 1).any (fun v => v.piers == [0]),
      (let s := withJob (rl q0) 0 { job0 with started := true }
       rd s && !calm s 1 && (parkCopies s 1).me == s.me && (parkCopies s 1).broken.isNone && healthyPorts s 7 != []),
      rd (rl { q0 with acked := true, sent := true }), rd (im []) && fits [], (acceptImage { im [] with images := [] } ⟨4, 1, [0], [0]⟩ (img0 [])).broken.isNone,
      rd (im [(1, kk .plain 0 [])]) && !fits [(1, kk .plain 0 [])],
      (let s := vd1 sRl (fun v => { v with movedTo := some 7 }); rd s && partsLeft s 1 && !s.me.asked),
      (let s := vd1 sRl (fun v => { v with movedTo := some 7, root := 0x9000 }); rd s && !partsLeft s 1),
      (leafAt pp 1 dp).any (fun x => leafLoc pp 1 x.2.1 dp == .there 7 0x40000 false && x.2.2 == 4), pp.remote == []] = true := by decide +kernel

/-! ### Witnesses: the fabric and the edges of the module -/

/-- A flit of module 7 about the data page, number 3. -/
def fl (size : Nat) (w2 w3 : Nat) (data : Bytes) : Flit := ⟨0, 7, 0x40008, 3, size, false, false, false, false, BitVec.ofNat 64 w2, BitVec.ofNat 64 w3, data⟩
def rq0 (kind : RemoteKind) (who : RemoteFor) (attempts port : Nat) : RemoteReq := ⟨9, 7, 3, kind, 0x40008, 8, [], 5, 6, who, dp, none, attempts, port⟩
def sRq (r : RemoteReq) : State := { s0 with remote := [r] }
def win (top : Nat) (seen : List (Nat × Bytes)) : State := { s0 with streams := [(7, ⟨top, seen⟩)] }
/-- The data page has gone to address 0x80000 of module 7. -/
def gone : State := { leafD sMg (fun x => setBits (setBits x 27 16 1) 7 6 1) with transfers := [{ tr0 with handed := true }] }
def pullS : State := vd1 sMg (fun v => { v with movedTo := some 7 })
def flP : Flit := { fl 16 0x90000 8 [] with pa := 0x40000 }
/-- The answer to a pending read of context 0. -/
def sLd : State := me (sRq (rq0 .read (.load 0) 1 2)) (fun x => { x with loads := [⟨.scalar 3 8 false, List.replicate 8 0, [(9, 0, 0, 8)], none, 0⟩] })

theorem witness_FabricTraffic :
    let down : State := { s0 with linksDown := List.range 16 }
    let plain (s : State) (f : Flit) : Bool := f.target == s.ownPrefix && s.queues == [] && s.poison == [] && s.dying == [] && (handedAt s f.pa).isNone &&
      s.transfers == [] && s.convs == [] && (homeOf s f.pa).hdr.isNone && !(homeOf s f.pa).lost && (span (elemHome s (homeOf s f.pa) f.pa f.w2) (2 ^ f.size)).all (fun a => decide (a % 2 ^ 40 < 48 * 2 ^ 30))
    let req (s : State) (k : Nat) : Bool := (requestOf s 7 3 k).any (fun r => r.uid == 9 && r.size == 8 && r.fillFor.isNone) &&
      s.remote.all (fun r => r.attempts != 0 && r.fillFor.isNone)
    let col (w : Nat) (l : List Nat) : State := { s0 with collapses := [⟨1, dp, w, 0x40000, false, 0, true, l⟩], collapseWaits := [(1, dp)] }
    let done (s : State) : Bool := s.collapses.all (fun c => c.begun && (c.todo.filter (fun p => p != (fl 0 0 0 []).src)).isEmpty)
    holds [done (col 7 [7]) && (7 != s0.ownPrefix), done (col s0.ownPrefix [7]), !done (col 7 [3, 7]),
      (s0.linksDown.contains 15) == false, healthyPorts (sRq (rq0 .read (.load 0) 1 2)) 7 == List.range 16,
      healthyPorts { sRq (rq0 .write (.store 0) 1 2) with linksDown := (List.range 16).erase 2 } 7 == [2],
      healthyPorts { sRq (rq0 .write (.store 0) 1 2) with linksDown := down.linksDown } 7 == [],
      [1, 16].all (fun n => (sRq (rq0 .write (.store 0) n 2)).remote.find? (fun q => q.uid == 9) == some (rq0 .write (.store 0) n 2)), s0.me.stop.isNone && s0.me.unknown.isNone,
      plain s0 (fl 3 0 0 []), plain s0 (fl 3 (2 ^ 63 + 4 * 2 ^ 36 + 2 ^ 32 + 1) 0 []), plain s0 { fl 8 0 0 [] with pa := 0x40100 }, plain s0 { fl 0 0 0 [] with pa := 0x40100 },
      (handedAt gone 0x40008).isSome, lookSeq s0 7 3 == .fresh, lookSeq (win 65538 []) 7 3 == .fresh, lookSeq (win 65539 []) 7 3 == .stale,
      lookSeq (win 3 [(3, [])]) 7 3 == .kept [], lookSeq (win 3 [(3, 0 :: [1, 2, 3, 4])]) 7 3 == .kept (0 :: [1, 2, 3, 4]),
      (AtomOp.ofCode 9).isSome, req sLd 1, ((requestOf sLd 7 3 ((1 + 256 * 16) % 256)).any (fun r => r.who == .load 0)), (tenantOf s0 1 == 1), req (sRq (rq0 .read (.operand 5) 1 2)) 1, decide (nobody ≠ 5), req (sRq (rq0 .write (.store 0) 1 2)) 2,
      decide ((7 * 2 ^ 44 + 0x80000) / 2 ^ 44 ≠ s0.ownPrefix), (pageOf pullS 0x40000).any (fun q => q.1 == 1 && q.2.1 == dp && leafPages q.2.2 == 65536),
      (pullS.vdev? 1).any (fun v => v.movedTo == some 7), (leafAt pullS 1 dp).any (fun e => e.2.2 == 4 && decide (e.1 + 8 ≤ 0x40000)),
      ({ s0 with relocs := [⟨1, 7, 4, true, false, false⟩] }).relocs.any (fun r => r.vd == 1 && r.toPrefix == 7 && r.sent)] = true := by decide +kernel

def bootOk (s : State) : State := s.setDeck 0 { s.deck 0 with booted := true }
/-- Host 4 is enrolled, and a controller has booted. -/
def sHo (up : Bool) : State := let s := { s0 with hosts := [4] }; if up then bootOk s else s
def exch (s : State) : State := noPiers (leafD s (fun x => setBits x 11 11 1))
def stor (base : Nat) (write : Bool := true) : Storage := ⟨1, base, 4, dp + 0x2000, write, [1, 2, 3], none, 0, none, none⟩
/-- A completion ring of four slots at 0x42000. -/
def sSt : State := { sHo true with mem := memWrite s0.mem 0x42000 (leBytes 8 (dp + 0x2100) ++ leBytes 4 4 ++ List.replicate 4 0 ++ leBytes 8 7 ++ leBytes 8 4) }
def qc (lg : Nat) : QueueCfg := ⟨9, 1, 1, dp + 0x4000, lg, 0x40000, 0, some 4⟩
def fwImg (key : Bytes) : Image := ⟨key, [1], [2], 0, []⟩

/-- The host gets the data page; and it gives it back while the unit waits for it. -/
def granted1 (s : State) : Bool :=
  (leafAt s 1 dp).any (fun l =>
    let u := shootNow { s with exchanges := [(1, dp, 4, true)], mem := memWrite s.mem l.1 (leBytes 8 (setBits l.2.1 11 11 1)) } 1 dp (leafPages l.2.1 / 65536)
    leafLoc s 1 l.2.1 dp == .here 0x40000 && !bit l.2.1 12 && !convPins s 1 dp (leafPages l.2.1) && dp / leafPages l.2.1 * leafPages l.2.1 == dp && u.broken.isNone && u.exchanges == [(1, dp, 4, true)])
def given1 (s : State) : Bool :=
  (leafAt s 1 dp).any (fun l =>
    let u := shootNow { s with exchanges := [], mem := memWrite s.mem l.1 (leBytes 8 (setBits l.2.1 11 11 0)) } 1 dp (leafPages l.2.1 / 65536)
    let r := retryPage { u with hostPages := u.hostPages.filter (fun h => !(h.1 == 1 && h.2.1 == dp)) } 1 dp (leafPages l.2.1)
    dp / leafPages l.2.1 * leafPages l.2.1 == dp && s.exchanges == [(1, dp, 4, false)] && u.exchanges == [] && r.broken.isNone && r.exchanges == [] &&
    u.ctxs.any (fun c => c.2.vd == 1 && c.2.pageWait && c.2.stop.any (fun st => decide (dp ≤ st.faddr.toNat ∧ st.faddr.toNat < dp + leafPages l.2.1))))

theorem witness_HostAndManagement :
    let st := leafD (sHo true) (fun x => setBits x 9 9 1)
    let rec1 : Storage := { stor (dp + 0x100000) with refused := some (.address, dp + 0x100000) }
    let done1 : Storage := { stor dp with slot := some (dp + 0x2160), ended := some (true, 4) }
    let ag := storageAgent 0
    holds [[true, false].all (fun u => (sHo u).broken.isNone && (sHo u).hosts.contains 4 && served (sHo u) == u), queueFits st (qc 4),
      !queueFits st (qc 3) && !queueFits (sHo true) (qc 4), (({ st with queues := [(9, q0 0 0)] } : State).queue? 9).any (fun q => q.pkt.isNone && q.vd == 1),
      (preRequest (sHo true) none (.vd 1)).todo != [],
      granted1 (sHo true) && (sHo true).exchanges == [], given1 { leafD (wrote (sHo true)) (fun x => setBits x 11 11 1) with exchanges := [(1, dp, 4, false)], hostPages := [(1, dp, 4)] },
      ringOf sSt 1 (dp + 0x2000) == some (dp + 0x2100, 4, 7, 4) && !ringBad sSt 1 (dp + 0x2000) && ringBad sSt 1 (dp + 0x2010), (storageBad sSt (stor dp)).isNone,
      resident sSt 1 (storageRange (stor dp)) && storageTag sSt == 0 && (storageBad sSt (stor dp false)).isNone,
      gives (engReadAt sSt ag (storageWho sSt 1) dp 4) (fun u bs => u.broken.isNone && bs.length == 4),
      storageBad sSt (stor (dp + 0x100000)) == some (dp + 0x100000), !acceptsImage (sHo true) 0 1 (fwImg [9]), !acceptsImage (sHo true) 0 2 (fwImg []),
      (exch (sHo true)).transfers == [] && (exch (sHo true)).convs == [],
      (hostPlaces (exch (sHo true)) 4 1 dp 4).any (fun ps => ps.length == 4 && ps.all (fun p => !p.trk)), (hostPlaces (sHo true) 4 1 dp 4).isNone,
      (hostPlaces { exch (sHo true) with hostPages := [(1, dp, 5)] } 4 1 dp 4).isNone, (7 + 2 ^ 64 - 4) % 2 ^ 64 < 4, 
      [rec1, done1].all (fun x => let s := { sSt with storage := [x] }
        s.storage[0]? == some x && x.tag == 0 && !agentBusy s ag),
      (let s := { sSt with storage := [rec1] }
       gives (engReadAt s ag (storageWho s 1) (dp + 0x2000) 32) (fun s1 d => ringDesc? d == some (dp + 0x2100, 4) && leAt d 16 8 == 7 && leAt d 24 8 == 4 &&
        gives (ringClaim s1 ag 0 (storageWho s 1) (dp + 0x2000) 7) (fun s2 won => won && !agentBusy (dropArrived s2 ag) ag &&
          gives (engWriteAt (dropArrived s2 ag) ag 0 (storageWho s2 1) (dp + 0x2100 + 32 * 3) (List.replicate 32 0)) (fun v _ => v.broken.isNone)))),
      (let s := { sSt with storage := [done1] }
       gives (engWriteAt s ag 0 (storageWho s 1) (dp + 0x2160) (List.replicate 32 0)) (fun v _ =>
         (unpinRange { v with storage := [], free := v.free + 3 } 1 (storageRange done1)).broken.isNone)),
      served (sHo true) && (sHo true).exchanges == [], kget 0 (sHo true).rodFlows (4 * 65536 + 9) == 0 && kget 0 (sHo true).rodFlows (4 * 65536 + 9) != 3] = true := by decide +kernel

/-- An image is accepted where its signature verifies, the fused hash is that of its key and its version is high enough. -/
theorem accepts_image {s : State} {d : Nat} {img : Image} (hk : s.fuseKey = sha512 img.key)
    (hv : Config.pssVerify img.key (signedBytes img) img.sig = true) (hs : s.fuseVer ≤ img.secver) : acceptsImage s d 1 img = true := by
  simp [acceptsImage, imageOk, hk, hv, hs]

/-- What acceptance asks besides the signature, of which only its verification says that it is right (log 11). -/
def sAcc : State :=
  { (sHo true).setBoot 0 { romOk := true, slots1 := [fwImg [9], fwImg [9]], slots2 := [], active1 := 0, active2 := 0, meas := [], bootedImages := [] } with
    fuseKey := sha512 [] }

theorem sAcc_key : (sAcc.fuseKey == sha512 []) = true := by decide +kernel

theorem witness_acceptedImage (hv : Config.pssVerify [] (signedBytes (fwImg [])) [2] = true) : acceptsImage sAcc 0 1 (fwImg []) = true :=
  accepts_image (img := fwImg []) (eq_of_beq sAcc_key) hv (by decide +kernel)

theorem witness_acceptedSlots : ((sAcc.boot 0).slots1.length == 2 && (sAcc.boot 0).active1 == 0) = true := by decide +kernel

def cfg0 (root thresh areas : Nat) : GrantCfg := ⟨2, [5], root, 0x5000, 0, thresh, 3, [], [], (List.range areas).map (fun n => 2 ^ 41 + n * 65536), 0, 0, []⟩
def jc (quota : Nat) : JobCfg := ⟨1, 0, 2 ^ 48 - 4, true, 0, 64, quota⟩

theorem witness_ResetGrantAndSensors :
    let s := bootOk s0
    holds [s.broken.isNone, (s.vdev? 2).isNone && (s.pier 5).owner.isNone && !s.unpowered 5 && (s.deck (deckOfPier 5)).booted &&
        (List.range 32).all (fun i => !(s.ctx (5 * 32 + i)).busy),
      [(0, 32), (1, 32), (65535, 33)].all (fun e => 32 ≤ (cfg0 0x6000 e.1 e.2).stackPool.length && decide ((cfg0 0x6000 e.1 e.2).root % 4096 = 0 ∧ e.1 < 65536)),
      [0, 1].all (fun n => let s := ({ s0 with agenda := [.replay 0] }.setPier 0 { s0.pier 0 with overScaled := true }).setCore 0 { s0.core 0 with replays := n }
        decide (s.agenda = .replay 0 :: []) && (s.pier 0).overScaled && (s.core 0).replays == n),
      (s.vdev? 1).any (fun v => !v.quiesced), [63, 64].all (fun q => decide ((jc q).fentry % 4 = 0 ∧ (jc q).deck < 16)), (freeCounterId s 0).isSome,
      decide ((0x2F8 : BitVec 16).toInt = 760 ∧ (0x347 : BitVec 16).toInt = 839 ∧ (0x348 : BitVec 16).toInt = 840),
      s.ctxs.any (fun c => c.2.busy && c.2.role != .firmware) && s.preempts == [], (me s (fun x => { x with role := .idle })).ctxs.all (fun c => !c.2.busy),
      [0, 98296].all (fun o => unitExists (.spad 0 o)), (s.pier 0).owner == some 1 && (s.vdev? 1).isSome && (s.pier 1).owner.isNone && s.poison == [],
      unitExists (.spad 8 0)] = true := by decide +kernel

/-! ### Witnesses: rules over all instructions -/

theorem witness_PrivilegedInstructions :
    let st (k : Role) (a b : Nat) : State := sc (me s0 (fun x => { x with role := k })) [(1, BitVec.ofNat 64 a), (2, BitVec.ofNat 64 b)]
    holds [[Role.unit, .handler, .entry .unit, .firmware].all (fun k => [(0, 1), (65536, 2 ^ 48 + 2 ^ 32 - 1), (65535, 0), (2 ^ 22 - 1, 0), (1, 0),
        (2 ^ 32 + 255, 2 ^ 63 + 4), (2 ^ 48 - 4, 2 ^ 32 - 1), (0, 22)].all (fun e => let s := st k e.1 e.2
          decide (Accepts s accG ∧ GuardOn s (modGuard s.me.pfx) ∧ FullS s [1, 2, 3]))),
      [Role.unit, .handler].all (fun k => decide ((st k 0 0).me.level < 2)), decide ((st (.entry .unit) 0 0).me.level = 2 ∧ (st .firmware 0 0).me.level = 3),
      preOperand .vd 65535 != none && preOperand .job 65535 != none && preOperand .cores 1 != none, ((st .unit 0 0).job? ((2 ^ 32 + 255) / 2 ^ 32)).isSome,
      (Cause.ofCode 22).isSome && (Cause.ofCode 0).isSome] = true := by decide +kernel

theorem witness_PureUnitsRaisePurity :
    let st (a b : Nat) : State := sc (me sQt (fun x => { x with pure := true })) [(1, BitVec.ofNat 64 a), (2, BitVec.ofNat 64 b)]
    let q : State := { st 0 3 with queues := [(3, q0 7 8)], counters := kput 9 (kk .plain 0 []) s0.counters }
    let l : State := match (st dp (3 * 2 ^ 32 + 1)).launch? 2 with
      | some l => (st dp (3 * 2 ^ 32 + 1)).setLaunch 2 { l with pkt := leBytes 8 (2 ^ 51) }
      | none => s0
    holds [[(0, 0), (15, 1), (9, 2 ^ 32 - 1), (0, 2 ^ 47 - 1), (0, 2 ^ 64 - 2 ^ 47), (9, 65536), (9, 2 ^ 48 - 1), (0, 3)].all (fun e => let s := st e.1 e.2
        decide (s.broken = none ∧ s.me.pure = true ∧ s.me.role = .unit ∧ Accepts s accNone ∧ Accepts s accG ∧ GuardOn s (modGuard s.me.pfx) ∧ FullS s [1, 2, 3])),
      (st 0 0).me.fullK 0 && (guardWord (st 0 0).me g0).getLsbD 0, ((st 0 0).launch? 2).isSome && (nextIndex q).isSome, (ownCounter q 1 9).any (fun k => k.kind != .level) && (ownCounter q 1 1).any (fun k => k.kind == .level),
      (q.queue? 3).any (fun x => x.vd == q.me.vd), (rangeOf dp (3 * 2 ^ 32 + 1)).any rangeInside, (l.launch? 2).any (fun x => pkPure x.pkt)] = true := by
  decide +kernel

theorem witness_StepRunsTheDecodedInstruction :
    let s (w : Nat) : State := State.reset.withFetchWord 32 w
    let go (w : Nat) (f : State → Nat → Bool) : Bool := decide ((s w).agenda = [] ∧ (s w).me.busy = true ∧ (s w).me.stop = none ∧ (s w).me.pageWait = false ∧
        ((s w).core 0).halted = false ∧ roundRobin (s w) 0 = some 0 ∧ mayIssue (s w) 0 = true ∧ (s w).me.fencing = false ∧ stopDue (s w).me = false ∧ (s w).cur = 0) &&
      gives (fetchWord (issueCycle (s w) 0) 0 (wordPc (s w).me)) f
    holds [go 0x93C04800 (fun u w => (match decodeWord w with | .ok i => i == .ldd ⟨48, 4, 2, 0⟩ | .error _ => false) && !isPrefix (BitVec.ofNat 32 w) && u.cur == 0),
      go 0x01000000 (fun _ w => match decodeWord w with | .ok _ => true | .error _ => false),
      go 0x80000000 (fun u w => (match decodeWord w with | .ok _ => false | .error _ => true) && w / 2 ^ 24 != 0xFD && !isPrefix (BitVec.ofNat 32 w) && u.broken.isNone),
      decide (roundRobin ({ s0 with agenda := [.issue 1], cur := 1 } : State) 0 ≠ some 1),
      decide (({ s0 with agenda := [.event (.linkUp 3)] } : State).agenda = .event (.linkUp 3) :: [])] = true := by decide +kernel

theorem witness_EncodedInstructionsDecode :
    (Instr.ldd ⟨48, 4, 2, 0⟩).wf = true ∧ encode (.ldd ⟨48, 4, 2, 0⟩) = some 0x93C04800 ∧ (Instr.eretPark).wf = true ∧ encode .eretPark = some 0xED000002 := by
  decide +kernel

theorem witness_StepKeepsMemoriesCanonical :
    MemInv s0 ∧ ∃ t, step (State.reset.withFetchWord 32 0x93C04800) = .next t := by
  refine ⟨by unfold MemInv; decide +kernel, ?_⟩
  have h : (match step (State.reset.withFetchWord 32 0x93C04800) with | .next _ => true | _ => false) = true := by decide +kernel
  split at h
  · rename_i t ht
    exact ⟨t, ht⟩
  · cases h

end Sys2Proof.Tests
end

/-!
## Every step keeps the memories canonical (O59)

The model writes the four byte memories by `memWrite`, `memPut` and `memClear` alone, which keep the canonical
form (Laws); a reset starts from empty ones. What is left is that nothing else touches them. For each function `f`
of the model that answers with a state, `f_memInv` says so once: from a canonical state, `f` answers with canonical
states. Where a function only updates other fields, the memories of its state are those of the state it takes, and
the proof is the hypothesis itself. The lemmas stand in the order of the model, down to `exec_memInv` for an
instruction or event and `prepare_memInv` for the turn.
-/
section
namespace Sys2Proof.Machine

/-! ### The four memories of a canonical state -/

theorem MemInv.mem {s : State} (h : MemInv s) : Memory.wf s.mem = true := h.1
theorem MemInv.spad {s : State} (h : MemInv s) : Memory.wf s.spad = true := h.2.1
theorem MemInv.truss {s : State} (h : MemInv s) : Memory.wf s.truss = true := h.2.2.1
theorem MemInv.acc {s : State} (h : MemInv s) : Memory.wf s.acc = true := h.2.2.2

section
variable {s : State} {m : Mem}

theorem MemInv.withMem (h : MemInv s) (hm : Memory.wf m = true) : MemInv { s with mem := m } :=
  ⟨hm, h.spad, h.truss, h.acc⟩
theorem MemInv.withSpad (h : MemInv s) (hm : Memory.wf m = true) : MemInv { s with spad := m } :=
  ⟨h.mem, hm, h.truss, h.acc⟩
theorem MemInv.withTruss (h : MemInv s) (hm : Memory.wf m = true) : MemInv { s with truss := m } :=
  ⟨h.mem, h.spad, hm, h.acc⟩
theorem MemInv.withAcc (h : MemInv s) (hm : Memory.wf m = true) : MemInv { s with acc := m } :=
  ⟨h.mem, h.spad, h.truss, hm⟩
end

/-- Stores of several pieces keep the canonical form. -/
theorem wf_foldl_memWrite {α : Type} {a : α → Nat} {b : α → Bytes} {m : Mem} {xs : List α}
    (h : Memory.wf m = true) :
    Memory.wf (xs.foldl (fun m x => memWrite m (a x) (b x)) m) = true :=
  List.foldlRecOn (motive := fun m => Memory.wf m = true) xs _ h
    fun _ hm x _ => wf_memWrite (b x) _ hm

/-- Stores of single bytes keep the canonical form. -/
theorem wf_foldl_memPut {α : Type} {a : α → Nat} {b : α → Byte} {m : Mem} {xs : List α}
    (h : Memory.wf m = true) :
    Memory.wf (xs.foldl (fun m x => memPut (a x) (b x) m) m) = true :=
  List.foldlRecOn (motive := fun m => Memory.wf m = true) xs _ h
    fun _ hm x _ => wf_memPut _ (b x) hm

/-! ### Results that carry a canonical state -/

/-- The next state of an outcome, if it has one, is canonical. -/
inductive OutInv : Out → Prop
  | next {s} (h : MemInv s) : OutInv (.next s)
  | fault {r} : OutInv (.fault r)
  | refused {r} : OutInv (.refused r)

/-- The state of a verdict is canonical. -/
inductive VerdictInv : Verdict → Prop
  | wait {s} (h : MemInv s) : VerdictInv (.wait s)
  | trap {s cause faddr pager} (h : MemInv s) : VerdictInv (.trap s cause faddr pager)
  | trapNext {s cause code faddr} (h : MemInv s) : VerdictInv (.trapNext s cause code faddr)
  | ok {s} (h : MemInv s) : VerdictInv (.ok s)
  | jump {s pc} (h : MemInv s) : VerdictInv (.jump s pc)
  | left {s} (h : MemInv s) : VerdictInv (.left s)

/-- The state that an access leaves is canonical. -/
inductive GotInv {α : Type} : Got α → Prop
  | fault {s f} (h : MemInv s) : GotInv (.fault s f)
  | wait {s} (h : MemInv s) : GotInv (.wait s)
  | ok {s a} (h : MemInv s) : GotInv (.ok s a)

/-- The state of a result that there may be is canonical; `f` takes it from the result. -/
inductive OptInv {α : Type} (f : α → State) : Option α → Prop
  | none : OptInv f none
  | some {x} (h : MemInv (f x)) : OptInv f (some x)

/-- The same for a result that may be an error without a state. -/
inductive ExceptInv {ε α : Type} (f : α → State) : Except ε α → Prop
  | error {e} : ExceptInv f (.error e)
  | ok {x} (h : MemInv (f x)) : ExceptInv f (.ok x)

/-- The state of a reuse probe's answer is canonical. -/
inductive ReuseInv : ReuseAns → Prop
  | wait {s} (h : MemInv s) : ReuseInv (.wait s)
  | place {s} (h : MemInv s) : ReuseInv (.place s)
  | retire {s} (h : MemInv s) : ReuseInv (.retire s)
  | copy {s vd stored gens} (h : MemInv s) : ReuseInv (.copy s vd stored gens)

/-- The state of a storage slot's search is canonical. -/
inductive SlotInv : StorageSlot → Prop
  | ok {s slot} (h : MemInv s) : SlotInv (.ok s slot)
  | wait {s} (h : MemInv s) : SlotInv (.wait s)
  | lost {s} (h : MemInv s) : SlotInv (.lost s)

/-- The state of a packet processor's read, if it has one, is canonical. -/
inductive ListInv : ListRead → Prop
  | ok {s bs} (h : MemInv s) : ListInv (.ok s bs)
  | wait {s} (h : MemInv s) : ListInv (.wait s)
  | bad {c} : ListInv (.bad c)

/-- The same for the reads of several records, which end at the first read that is not done. -/
inductive RecordsInv : Except ListRead (State × List Bytes) → Prop
  | error {r} (h : ListInv r) : RecordsInv (.error r)
  | ok {x} (h : MemInv x.1) : RecordsInv (.ok x)

/-- What a turn comes to carries a canonical state. -/
inductive PreparedInv : Prepared → Prop
  | atEnd {o} (h : OutInv o) : PreparedInv (.atEnd o)
  | run {i s} (h : MemInv s) : PreparedInv (.run i s)

section
variable {α ε : Type} {s : State}

theorem OutInv.of_next {o : Out} (e : o = .next s) (h : OutInv o) : MemInv s := by
  subst e; cases h; assumption
theorem GotInv.of_ok {g : Got α} {a : α} (e : g = .ok s a) (h : GotInv g) : MemInv s := by
  subst e; cases h; assumption
theorem GotInv.of_wait {g : Got α} (e : g = .wait s) (h : GotInv g) : MemInv s := by
  subst e; cases h; assumption
theorem GotInv.of_fault {g : Got α} {f : AFault} (e : g = .fault s f) (h : GotInv g) : MemInv s := by
  subst e; cases h; assumption
theorem OptInv.of_some {f : α → State} {o : Option α} {x : α} (e : o = Option.some x) (h : OptInv f o) :
    MemInv (f x) := by
  subst e; cases h; assumption
theorem ExceptInv.of_ok {f : α → State} {r : Except ε α} {x : α} (e : r = .ok x) (h : ExceptInv f r) :
    MemInv (f x) := by
  subst e; cases h; assumption
theorem VerdictInv.of_ok {r : Verdict} (e : r = .ok s) (h : VerdictInv r) : MemInv s := by
  subst e; cases h; assumption
theorem VerdictInv.of_wait {r : Verdict} (e : r = .wait s) (h : VerdictInv r) : MemInv s := by
  subst e; cases h; assumption
theorem VerdictInv.of_trap {r : Verdict} {c a p} (e : r = .trap s c a p) (h : VerdictInv r) : MemInv s := by
  subst e; cases h; assumption
theorem VerdictInv.of_trapNext {r : Verdict} {c a p} (e : r = .trapNext s c a p) (h : VerdictInv r) : MemInv s := by
  subst e; cases h; assumption
theorem VerdictInv.of_jump {r : Verdict} {pc} (e : r = .jump s pc) (h : VerdictInv r) : MemInv s := by
  subst e; cases h; assumption
theorem VerdictInv.of_left {r : Verdict} (e : r = .left s) (h : VerdictInv r) : MemInv s := by
  subst e; cases h; assumption
theorem ReuseInv.of_wait {r : ReuseAns} (e : r = .wait s) (h : ReuseInv r) : MemInv s := by
  subst e; cases h; assumption
theorem ReuseInv.of_place {r : ReuseAns} (e : r = .place s) (h : ReuseInv r) : MemInv s := by
  subst e; cases h; assumption
theorem ReuseInv.of_retire {r : ReuseAns} (e : r = .retire s) (h : ReuseInv r) : MemInv s := by
  subst e; cases h; assumption
theorem ReuseInv.of_copy {r : ReuseAns} {v b g} (e : r = .copy s v b g) (h : ReuseInv r) : MemInv s := by
  subst e; cases h; assumption
theorem SlotInv.of_ok {r : StorageSlot} {n} (e : r = .ok s n) (h : SlotInv r) : MemInv s := by
  subst e; cases h; assumption
theorem SlotInv.of_wait {r : StorageSlot} (e : r = .wait s) (h : SlotInv r) : MemInv s := by
  subst e; cases h; assumption
theorem SlotInv.of_lost {r : StorageSlot} (e : r = .lost s) (h : SlotInv r) : MemInv s := by
  subst e; cases h; assumption
theorem ListInv.of_ok {r : ListRead} {bs} (e : r = .ok s bs) (h : ListInv r) : MemInv s := by
  subst e; cases h; assumption
theorem ListInv.of_wait {r : ListRead} (e : r = .wait s) (h : ListInv r) : MemInv s := by
  subst e; cases h; assumption
theorem RecordsInv.of_ok {r} {x : State × List Bytes} (e : r = .ok x) (h : RecordsInv r) : MemInv x.1 := by
  subst e; cases h; assumption
theorem RecordsInv.of_error {r} {a : ListRead} (e : r = .error a) (h : RecordsInv r) : ListInv a := by
  subst e; cases h; assumption
theorem PreparedInv.of_atEnd {r : Prepared} {o} (e : r = .atEnd o) (h : PreparedInv r) : OutInv o := by
  subst e; cases h; assumption
theorem PreparedInv.of_run {r : Prepared} {i} (e : r = .run i s) (h : PreparedInv r) : MemInv s := by
  subst e; cases h; assumption
theorem memInv_of_fst {p : State × α} {a : α} (h : MemInv p.1) (e : p = (s, a)) : MemInv s := by subst e; exact h
theorem memInv_of_snd {p : α × State} {a : α} (h : MemInv p.2) (e : p = (a, s)) : MemInv s := by subst e; exact h
end

theorem OptInv.map {α β : Type} {f : α → State} {g : β → State} {k : α → β} {o : Option α}
    (hk : ∀ x, MemInv (f x) → MemInv (g (k x))) : OptInv f o → OptInv g (o.map k)
  | .none => .none
  | .some h => .some (hk _ h)

/-! ### Choices and folds -/

section
variable {α : Type} {c : Prop} [Decidable c]

theorem ite_memInv {a b : State} (ha : MemInv a) (hb : MemInv b) : MemInv (if c then a else b) := by
  split <;> assumption
theorem ite_fst_memInv {a b : State × α} (ha : MemInv a.1) (hb : MemInv b.1) : MemInv (if c then a else b).1 := by
  split <;> assumption
theorem ite_outInv {a b : Out} (ha : OutInv a) (hb : OutInv b) : OutInv (if c then a else b) := by
  split <;> assumption
theorem ite_verdictInv {a b : Verdict} (ha : VerdictInv a) (hb : VerdictInv b) :
    VerdictInv (if c then a else b) := by
  split <;> assumption
theorem ite_gotInv {a b : Got α} (ha : GotInv a) (hb : GotInv b) : GotInv (if c then a else b) := by
  split <;> assumption
theorem ite_optInv {f : α → State} {a b : Option α} (ha : OptInv f a) (hb : OptInv f b) :
    OptInv f (if c then a else b) := by
  split <;> assumption
end

theorem foldl_memInv {α : Type} {f : State → α → State} {xs : List α} {s : State}
    (hf : ∀ s x, MemInv s → MemInv (f s x)) (h : MemInv s) : MemInv (xs.foldl f s) :=
  List.foldlRecOn xs f h fun s hs x _ => hf s x hs
theorem foldl_fst_memInv {α β : Type} {f : State × β → α → State × β} {xs : List α} {p : State × β}
    (hf : ∀ p x, MemInv p.1 → MemInv (f p x).1) (h : MemInv p.1) : MemInv (xs.foldl f p).1 :=
  List.foldlRecOn xs f h fun p hp x _ => hf p x hp

/-! ### The setters of the state -/

theorem State.setCtx_memInv {s c x} (h : MemInv s) : MemInv (State.setCtx s c x) := h

theorem State.setCore_memInv {s k x} (h : MemInv s) : MemInv (State.setCore s k x) := h

theorem State.setPier_memInv {s p x} (h : MemInv s) : MemInv (State.setPier s p x) := h

theorem State.setDeck_memInv {s d x} (h : MemInv s) : MemInv (State.setDeck s d x) := h

theorem State.setBoot_memInv {s d x} (h : MemInv s) : MemInv (State.setBoot s d x) := h

theorem State.setMe_memInv {s x} (h : MemInv s) : MemInv (State.setMe s x) := State.setCtx_memInv h

theorem State.setVdev_memInv {s v x} (h : MemInv s) : MemInv (State.setVdev s v x) := h

theorem State.setJob_memInv {s j x} (h : MemInv s) : MemInv (State.setJob s j x) := h

theorem State.setLaunch_memInv {s l x} (h : MemInv s) : MemInv (State.setLaunch s l x) := h

theorem State.setQueue_memInv {s q x} (h : MemInv s) : MemInv (State.setQueue s q x) := h

theorem State.takeFree_memInv {s} (h : MemInv s) : MemInv (State.takeFree s) := h

theorem State.countEvent_memInv {s p ev n} (h : MemInv s) : MemInv (State.countEvent s p ev n) :=
  State.setPier_memInv h

theorem State.emit_memInv {s m} (h : MemInv s) : MemInv (State.emit s m) := h

theorem State.done_memInv {s} (h : MemInv s) : OutInv (State.done s) := by
  unfold State.done
  split
  · exact .next h
  · exact .fault

/-! ### Stores, held writes and the store buffers -/

theorem noteTranslation_memInv {s w va} (h : MemInv s) : MemInv (noteTranslation s w va) := by
  unfold noteTranslation
  extract_lets _ _ s₁ _ s₂
  have h₁ : MemInv s₁ := State.countEvent_memInv h
  have h₂ : MemInv s₂ := State.countEvent_memInv (State.countEvent_memInv h₁)
  split
  · exact h
  · split
    · exact State.setCore_memInv h₁
    · split
      · exact h₂
      · exact State.setCore_memInv (State.setPier_memInv (State.setDeck_memInv h₂))

theorem noteAll_memInv {s w as} (h : MemInv s) : MemInv (noteAll s w as) :=
  foldl_memInv (fun _ _ => noteTranslation_memInv) h

theorem memerrNotice_memInv {s vd jobid pier faddr} (h : MemInv s) :
    MemInv (memerrNotice s vd jobid pier faddr) :=
  h

theorem sysWrite_memInv {s vd va bs} (h : MemInv s) : MemInv (sysWrite s vd va bs) := by
  unfold sysWrite
  split
  · exact h.withMem (wf_memWrite _ _ h.mem)
  · exact ite_memInv (memerrNotice_memInv h) h

theorem askReclaim_memInv {s vd va} (h : MemInv s) : MemInv (askReclaim s vd va) := by
  unfold askReclaim
  split
  · exact h
  · exact ite_memInv h (ite_memInv (State.emit_memInv h) h)

theorem writeWidx_memInv {s n v} (h : MemInv s) : MemInv (writeWidx s n v) := by
  unfold writeWidx
  split
  · exact h
  · exact ite_memInv h (ite_memInv (State.setQueue_memInv h) (State.setQueue_memInv h))

theorem countUncorr_memInv {s d} (h : MemInv s) : MemInv (countUncorr s d) := State.setDeck_memInv h

theorem pokeByte_memInv {s l b} (h : MemInv s) : MemInv (pokeByte s l b) := by
  unfold pokeByte
  split
  · exact h.withSpad (wf_memPut _ _ h.spad)
  · exact h.withMem (wf_memPut _ _ h.mem)
  · exact h

theorem writeRegs_memInv {s cells} (h : MemInv s) : MemInv (writeRegs s cells) := by
  unfold writeRegs
  extract_lets _ v
  clear_value v
  split
  · exact h
  · split
    · exact h
    · exact writeWidx_memInv h

theorem setTileBits_memInv {s vd x hi lo v} (h : MemInv s) : MemInv (setTileBits s vd x hi lo v) :=
  sysWrite_memInv h

theorem convertTile_memInv {s i t} (h : MemInv s) : MemInv (convertTile s i t) := by
  unfold convertTile
  split
  · exact h
  · extract_lets s₁
    have h₁ : MemInv s₁ := by
      unfold s₁
      split
      · exact h.withMem (wf_memWrite _ _ h.mem)
      · exact h
    exact setTileBits_memInv h₁

theorem unlockTiles_memInv {s ls} (h : MemInv s) : MemInv (unlockTiles s ls) := by
  unfold unlockTiles
  refine ite_memInv h (foldl_memInv (fun _ _ h₁ => ?_) h)
  split
  · split
    · exact convertTile_memInv h₁
    · exact h₁
  · exact h₁

theorem writeCells_memInv {s vd jobid pier addrs cells} (h : MemInv s) :
    MemInv (writeCells s vd jobid pier addrs cells) := by
  unfold writeCells
  split
  · exact memerrNotice_memInv (countUncorr_memInv h)
  · exact foldl_memInv (fun _ _ => pokeByte_memInv) (ite_memInv (writeRegs_memInv h) (writeRegs_memInv h))

theorem bumpHeader_memInv {s pa} (h : MemInv s) : MemInv (bumpHeader s pa) :=
  h.withMem (wf_memWrite _ _ h.mem)

theorem bumpHeaders_memInv {s hs} (h : MemInv s) : MemInv (bumpHeaders s hs) :=
  foldl_memInv (fun _ _ => bumpHeader_memInv) h

theorem setGranules_memInv {s full gs} (h : MemInv s) : MemInv (setGranules s full gs) := h

theorem countAccess_memInv {s vd va page peer} (h : MemInv s) : MemInv (countAccess s vd va page peer) := h

theorem countPlaced_memInv {s vd ps} (h : MemInv s) : MemInv (countPlaced s vd ps) :=
  foldl_memInv (fun _ _ => countAccess_memInv) h

theorem transmit_memInv {s r} (h : MemInv s) : MemInv (transmit s r) := State.emit_memInv h

theorem sendWaiting_memInv {s} (h : MemInv s) : MemInv (sendWaiting s) :=
  foldl_memInv (fun _ _ h₁ => ite_memInv (transmit_memInv h₁) h₁) h

theorem sendRemote_memInv {s target kind pa size data opw cmpw who va fillFor} (h : MemInv s) :
    MemInv (sendRemote s target kind pa size data opw cmpw who va fillFor) :=
  ite_memInv (transmit_memInv h) h

theorem resend_memInv {s r target pa} (h : MemInv s) : MemInv (resend s r target pa) :=
  ite_memInv (transmit_memInv h) h

theorem updateLine_memInv {s pier target pa bs} (h : MemInv s) : MemInv (updateLine s pier target pa bs) := h

theorem dropLines_memInv {s d} {p : CacheLine → Bool} (h : MemInv s) : MemInv (dropLines s d p) := h

theorem holdWrites_memInv {s who cells} (h : MemInv s) : MemInv (holdWrites s who cells).1 := by
  unfold holdWrites
  refine ite_fst_memInv h (foldl_fst_memInv (fun _ _ h₁ => ?_) h)
  split
  · split <;> exact h₁
  · exact h₁

theorem performWrite_memInv {s vd jobid pier addrs who cells hdrs} (h : MemInv s) :
    MemInv (performWrite s vd jobid pier addrs who cells hdrs) := by
  unfold performWrite
  extract_lets _ p _ s₁ s₂
  have h₁ : MemInv p.1 := holdWrites_memInv (unlockTiles_memInv h)
  have h₂ : MemInv s₁ := writeCells_memInv h₁
  have h₃ : MemInv s₂ := ite_memInv h₂ (bumpHeaders_memInv h₂)
  exact foldl_memInv (fun _ _ h₄ => foldl_memInv (fun _ _ => sendRemote_memInv) (updateLine_memInv h₄)) h₃

theorem dropArrived_memInv {s agent} (h : MemInv s) : MemInv (dropArrived s agent) := ite_memInv h h

theorem sendElems_memInv {s ctx pier ps} (h : MemInv s) : MemInv (sendElems s ctx pier ps) := by
  unfold sendElems
  refine foldl_memInv (fun _ _ h₁ => ?_) h
  split
  · exact sendRemote_memInv (updateLine_memInv h₁)
  · exact h₁

theorem performEntry_memInv {s core e} (h : MemInv s) : MemInv (performEntry s core e) := by
  unfold performEntry
  split
  · exact setGranules_memInv h
  · exact ite_memInv (setGranules_memInv (performWrite_memInv (sendElems_memInv (unlockTiles_memInv h))))
      (performWrite_memInv (sendElems_memInv (unlockTiles_memInv h)))

theorem drainOne_memInv {s core} (h : MemInv s) : MemInv (drainOne s core) := by
  unfold drainOne
  split
  · exact h
  · exact performEntry_memInv (State.setCore_memInv h)

theorem drainTo_memInv {core keep} : ∀ {fuel s}, MemInv s → MemInv (drainTo core keep fuel s)
  | 0, _, h => h
  | _ + 1, _, h => ite_memInv h (drainTo_memInv (drainOne_memInv h))

theorem drainN_memInv {core n s} (h : MemInv s) : MemInv (drainN core n s) := drainTo_memInv h

theorem drainCtx_memInv {s c} (h : MemInv s) : MemInv (drainCtx s c) := drainN_memInv h

/-! ### Units, records, frames, counters and the ends of instructions -/

theorem setRecWord_memInv {s vd r n w} (h : MemInv s) : MemInv (setRecWord s vd r n w) := sysWrite_memInv h

theorem setRecState_memInv {s vd r st} (h : MemInv s) : MemInv (setRecState s vd r st) := setRecWord_memInv h

theorem setRecCause_memInv {s vd r c} (h : MemInv s) : MemInv (setRecCause s vd r c) := setRecWord_memInv h

theorem takeRecord_memInv {s vd} (h : MemInv s) : OptInv Prod.snd (takeRecord s vd) := by
  unfold takeRecord
  split
  · exact .none
  · split
    · exact .none
    · exact .some (State.setVdev_memInv h)

theorem freeRecord_memInv {s vd r} (h : MemInv s) : MemInv (freeRecord s vd r) := by
  unfold freeRecord
  split
  · exact h
  · exact State.setVdev_memInv h

theorem freeFrame_memInv {s vd f} (h : MemInv s) : MemInv (freeFrame s vd f) := by
  unfold freeFrame
  split
  · exact h
  · exact State.setVdev_memInv h

theorem freeStack_memInv {s vd a} (h : MemInv s) : MemInv (freeStack s vd a) := by
  unfold freeStack
  split
  · exact h
  · exact State.setVdev_memInv h

theorem writeRecord_memInv {s vd r ws} (h : MemInv s) : MemInv (writeRecord s vd r ws) :=
  foldl_memInv (fun _ _ => setRecWord_memInv) h

theorem mapJobs_memInv {s} {f : Nat → Job → Job} (h : MemInv s) : MemInv (mapJobs s f) := h

theorem keepJobs_memInv {s} {f : Job → Bool} (h : MemInv s) : MemInv (keepJobs s f) := h

theorem setJobOn_memInv {s p j} (h : MemInv s) : MemInv (setJobOn s p j) := by
  unfold setJobOn
  extract_lets _ s₁
  have h₁ : MemInv s₁ := by
    unfold s₁
    split
    · exact ite_memInv (dropArrived_memInv h) h
    · exact h
  exact State.setPier_memInv h₁

theorem setPlace_memInv {s vd r p} (h : MemInv s) : MemInv (setPlace s vd r p) := h

theorem dropPlace_memInv {s vd r} (h : MemInv s) : MemInv (dropPlace s vd r) := h

theorem enterWalk_memInv {s vd r p} (h : MemInv s) : MemInv (enterWalk s vd r p) := ite_memInv h h

theorem wakeUnit_memInv {s vd r p} (h : MemInv s) : MemInv (wakeUnit s vd r p) :=
  ite_memInv (enterWalk_memInv (setRecState_memInv (setRecCause_memInv h))) h

theorem wakeOn_memInv {s vd r kind p id} (h : MemInv s) : MemInv (wakeOn s vd r kind p id) :=
  ite_memInv (wakeUnit_memInv h) h

theorem wakeWhere_memInv {s id} {p : WaitCond → Bool} (h : MemInv s) : MemInv (wakeWhere s id p) := by
  unfold wakeWhere
  split
  · exact h
  · exact foldl_memInv (fun _ _ => wakeUnit_memInv) h

theorem wakeWaiters_memInv {s id} (h : MemInv s) : MemInv (wakeWaiters s id) := by
  unfold wakeWaiters
  split
  · exact h
  · exact wakeWhere_memInv h

theorem setCounter_memInv {s id c} (h : MemInv s) : MemInv (setCounter s id c) := h

theorem addCounter_memInv {s id v} (h : MemInv s) : MemInv (addCounter s id v) := by
  unfold addCounter
  split
  · exact h
  · exact wakeWaiters_memInv (setCounter_memInv h)

theorem dropWaiter_memInv {s vd r} (h : MemInv s) : MemInv (dropWaiter s vd r) := h

theorem writeFrame_memInv {s vd f segs} (h : MemInv s) : MemInv (writeFrame s vd f segs) := by
  unfold writeFrame
  split
  · exact h
  · exact h.withMem (wf_foldl_memWrite (wf_memClear _ _ h.mem))

theorem startUnit_memInv {s c vd r} (h : MemInv s) : MemInv (startUnit s c vd r) :=
  State.setCtx_memInv (setRecState_memInv h)

theorem restoreUnit_memInv {s c vd r} (h : MemInv s) : MemInv (restoreUnit s c vd r) :=
  State.setCtx_memInv (dropPlace_memInv (freeStack_memInv
    (freeFrame_memInv (setRecWord_memInv (setRecWord_memInv (setRecState_memInv h))))))

theorem startEntry_memInv {s c vd r k job cause faddr fpc} (h : MemInv s) :
    MemInv (startEntry s c vd r k job cause faddr fpc) :=
  State.setCtx_memInv h

theorem preSettled_memInv {s c} (h : MemInv s) : MemInv (preSettled s c) := h

theorem preParked_memInv {s c vd r} (h : MemInv s) : MemInv (preParked s c vd r) := preSettled_memInv h

theorem freeCtx_memInv {s c keepFor} (h : MemInv s) : MemInv (freeCtx s c keepFor) :=
  State.setCtx_memInv (dropArrived_memInv h)

theorem deliverReg_memInv {s p j w} (h : MemInv s) : MemInv (deliverReg s p j w) := by
  unfold deliverReg
  split
  · exact h
  · extract_lets _ _ _ _ _ s₁ _ s₂
    have h₁ : MemInv s₁ := sysWrite_memInv h
    have h₂ : MemInv s₂ := sysWrite_memInv h₁
    split
    · exact State.setCtx_memInv h
    · refine ite_memInv h ?_
      split
      · exact h
      · exact sysWrite_memInv h₂

theorem endJobNow_memInv {s p j st} (h : MemInv s) : MemInv (endJobNow s p j st) := by
  unfold endJobNow
  extract_lets s₁ s₂ _ s₃
  have h₁ : MemInv s₁ := ite_memInv (deliverReg_memInv h) h
  have h₂ : MemInv s₂ := dropArrived_memInv h₁
  have h₃ : MemInv s₃ := setJobOn_memInv h₂
  exact ite_memInv (State.setPier_memInv h₂) (wakeOn_memInv h₃)

theorem endJob_memInv {s p j st} (h : MemInv s) : MemInv (endJob s p j st) :=
  ite_memInv (State.setPier_memInv (dropArrived_memInv h)) (endJobNow_memInv h)

theorem writeAnswered_memInv {s agent} (h : MemInv s) : MemInv (writeAnswered s agent) := by
  unfold writeAnswered
  refine ite_memInv h ?_
  split
  · exact endJobNow_memInv h
  · exact h

theorem discardJobs_memInv {s js} {f : Job → Bool} (h : MemInv s) : MemInv (discardJobs s js f) :=
  foldl_memInv (fun _ _ => endJob_memInv) h

theorem leaveGuards_memInv {s c} (h : MemInv s) : MemInv (leaveGuards s c) :=
  mapJobs_memInv (discardJobs_memInv h)

theorem orphanRecvs_memInv {s} {f : RecvState → Bool} (h : MemInv s) : MemInv (orphanRecvs s f) := h

theorem retireUnit_memInv {s vd l r} (h : MemInv s) : MemInv (retireUnit s vd l r) := by
  unfold retireUnit
  extract_lets s₁ _ s₂
  have h₁ : MemInv s₁ := orphanRecvs_memInv (keepJobs_memInv h)
  have h₂ : MemInv s₂ := by
    unfold s₂
    split
    · exact State.setLaunch_memInv h₁
    · exact h₁
  exact addCounter_memInv (freeRecord_memInv h₂)

theorem settleDying_memInv {s} (h : MemInv s) : MemInv (settleDying s) :=
  foldl_memInv (fun _ _ h₁ => ite_memInv h₁ (retireUnit_memInv h₁)) h

theorem freeSaved_memInv {s vd r} (h : MemInv s) : MemInv (freeSaved s vd r) :=
  ite_memInv h (setRecWord_memInv (setRecWord_memInv (freeStack_memInv (freeFrame_memInv h))))

theorem finishRecord_memInv {s vd r cause} (h : MemInv s) : MemInv (finishRecord s vd r cause) := by
  unfold finishRecord
  extract_lets _ s₁ s₂ s₃ s₄ s₅
  have h₁ : MemInv s₁ := discardJobs_memInv h
  have h₂ : MemInv s₂ := freeSaved_memInv h₁
  have h₃ : MemInv s₃ := setRecCause_memInv h₂
  have h₄ : MemInv s₄ := setRecState_memInv h₃
  have h₅ : MemInv s₅ := dropPlace_memInv (dropWaiter_memInv h₄)
  exact settleDying_memInv h₅

theorem dropRecord_memInv {s vd r} (h : MemInv s) : MemInv (dropRecord s vd r) :=
  freeRecord_memInv (dropPlace_memInv (freeSaved_memInv h))

theorem raiseNotice_memInv {s vd job pier cause faddr word2} (h : MemInv s) :
    MemInv (raiseNotice s vd job pier cause faddr word2) :=
  h

theorem taint_memInv {s vd r} (h : MemInv s) : MemInv (taint s vd r) := ite_memInv h h

theorem noteUnknown_memInv {s c a} (h : MemInv s) : MemInv (noteUnknown s c a) :=
  taint_memInv (State.setCtx_memInv h)

theorem settleArrived_memInv {s c} (h : MemInv s) : MemInv (settleArrived s c) := by
  unfold settleArrived
  refine ite_memInv h ?_
  extract_lets _ s₁
  have h₁ : MemInv s₁ := by
    unfold s₁
    split
    · exact noteUnknown_memInv h
    · exact h
  exact h₁

theorem withdraw_memInv {s c} (h : MemInv s) : MemInv (withdraw s c) := by
  unfold withdraw
  extract_lets _ _ s₁
  have h₁ : MemInv s₁ := by
    unfold s₁
    split
    · exact h
    · refine ite_memInv ?_ h
      split
      · exact h
      · exact ite_memInv (wakeWaiters_memInv (setCounter_memInv h)) h
    · exact dropWaiter_memInv h
    · exact h
  exact State.setCtx_memInv h₁

theorem saveFrame_memInv {s c st vd r} (h : MemInv s) : MemInv (saveFrame s c st vd r) := by
  unfold saveFrame
  split
  · exact h
  · exact State.setCtx_memInv (setRecWord_memInv (setRecWord_memInv
      (writeFrame_memInv (State.setVdev_memInv h))))

theorem recordArgs_memInv {s vd r x} (h : MemInv s) : MemInv (recordArgs s vd r x) :=
  setRecWord_memInv (setRecWord_memInv (setRecWord_memInv h))

theorem markRecord_memInv {s c st vd r} (h : MemInv s) : MemInv (markRecord s c st vd r) :=
  recordArgs_memInv (setRecWord_memInv (setRecWord_memInv (setRecWord_memInv h)))

theorem handlerRecord_memInv {s c st} (h : MemInv s) : OptInv Prod.snd (handlerRecord s c st) := by
  unfold handlerRecord
  extract_lets
  refine ite_optInv (.some h) ?_
  split
  · exact .none
  next s₁ e =>
    have h₁ : MemInv s₁ := (takeRecord_memInv h).of_some e
    exact .some (State.setCtx_memInv (orphanRecvs_memInv
      (mapJobs_memInv (keepJobs_memInv (writeRecord_memInv h₁)))))

theorem advanceStop_memInv {s c} (h : MemInv s) : MemInv (advanceStop s c) := by
  unfold advanceStop
  split
  · exact h
  · refine ite_memInv h (ite_memInv h (ite_memInv (settleArrived_memInv (drainCtx_memInv h)) ?_))
    extract_lets s₁ _ _ _ _ _ _ _ s₂ s₃ s₄ s₅ s₆ s₇ s₈ _ s₉ s₁₀ s₁₁
    have h₁ : MemInv s₁ := ite_memInv (dropLines_memInv (settleArrived_memInv (drainCtx_memInv h)))
      (settleArrived_memInv (drainCtx_memInv h))
    have h₂ : MemInv s₂ := freeCtx_memInv h₁
    have h₃ : MemInv s₃ := ite_memInv (dropRecord_memInv h₂) (finishRecord_memInv h₂)
    have h₄ : MemInv s₄ := setRecState_memInv h₁
    have h₅ : MemInv s₅ := setPlace_memInv h₄
    have h₆ : MemInv s₆ := markRecord_memInv h₁
    have h₇ : MemInv s₇ := saveFrame_memInv h₆
    have h₈ : MemInv s₈ := setPlace_memInv h₇
    have h₉ : MemInv s₉ := ite_memInv (preParked_memInv h₆) (preSettled_memInv h₆)
    have h₁₀ : MemInv s₁₀ := saveFrame_memInv h₉
    have h₁₁ : MemInv s₁₁ := setPlace_memInv h₁₀
    split
    · exact ite_memInv (raiseNotice_memInv h₃) h₃
    · exact freeCtx_memInv (preParked_memInv h₅)
    · refine ite_memInv ?_ (ite_memInv (startEntry_memInv (preSettled_memInv h₈))
        (preSettled_memInv (State.setCtx_memInv h₆)))
      split
      · exact h₁
      next s₁₂ e =>
        have h₁₂ : MemInv s₁₂ := (handlerRecord_memInv h₁).of_some e
        exact ite_memInv (startEntry_memInv (preSettled_memInv (saveFrame_memInv h₁₂))) h₁₂
    · exact ite_memInv (freeCtx_memInv h₁₁) (State.setCtx_memInv h₉)

theorem stopCtx_memInv {s c st} (h : MemInv s) : MemInv (stopCtx s c st) := by
  unfold stopCtx
  extract_lets s₁ _ s₂
  have h₁ : MemInv s₁ := settleArrived_memInv (withdraw_memInv (leaveGuards_memInv h))
  have h₂ : MemInv s₂ := ite_memInv (taint_memInv h₁) h₁
  exact advanceStop_memInv (State.setCtx_memInv h₂)

theorem cancelUnit_memInv {s vd r cause} (h : MemInv s) : MemInv (cancelUnit s vd r cause) := by
  unfold cancelUnit
  split
  · exact ite_memInv h (finishRecord_memInv h)
  · exact ite_memInv (stopCtx_memInv (discardJobs_memInv h)) (State.setCtx_memInv (discardJobs_memInv h))

theorem cancelLaunch_memInv {s l cause} (h : MemInv s) : MemInv (cancelLaunch s l cause) := by
  unfold cancelLaunch
  split
  · exact h
  · refine ite_memInv h (ite_memInv (foldl_memInv (fun _ _ => cancelUnit_memInv) ?_)
      (addCounter_memInv (foldl_memInv (fun _ _ => cancelUnit_memInv) ?_)))
    · split
      · exact ite_memInv h (State.setVdev_memInv (State.setLaunch_memInv h))
      · exact State.setLaunch_memInv h
    · split
      · exact ite_memInv h (State.setVdev_memInv (State.setLaunch_memInv h))
      · exact State.setLaunch_memInv h

theorem cancelJob_memInv {s job cause} (h : MemInv s) : MemInv (cancelJob s job cause) := by
  unfold cancelJob
  split
  · exact h
  · exact ite_memInv h (settleDying_memInv (foldl_memInv (fun _ _ => endJob_memInv)
      (foldl_memInv (fun _ _ => cancelLaunch_memInv) (State.setJob_memInv h))))

theorem faultNow_memInv {s c cause code faddr fpc resume pfx pager} (h : MemInv s) :
    MemInv (faultNow s c cause code faddr fpc resume pfx pager) := by
  unfold faultNow
  extract_lets _ s₁ _ s₂ _ s₃ s₄
  have h₁ : MemInv s₁ := ite_memInv (askReclaim_memInv h) h
  have h₂ : MemInv s₂ := settleArrived_memInv h₁
  have h₃ : MemInv s₃ := State.setCtx_memInv h₂
  have h₄ : MemInv s₄ := cancelJob_memInv h₁
  split
  · exact h₁
  · exact ite_memInv h₃ h₁
  · exact ite_memInv h₃ (ite_memInv (stopCtx_memInv h₄) h₄)
  · exact ite_memInv h₃ (stopCtx_memInv h₁)
  · exact ite_memInv (stopCtx_memInv (discardJobs_memInv h₁))
      (ite_memInv (stopCtx_memInv h₁) (stopCtx_memInv h₁))

theorem takeFault_memInv {s c cause code faddr fpc resume pfx pager} (h : MemInv s) :
    MemInv (takeFault s c cause code faddr fpc resume pfx pager) := by
  unfold takeFault
  extract_lets _ s₁
  have h₁ : MemInv s₁ := State.setCtx_memInv h
  split
  · exact faultNow_memInv h
  · exact ite_memInv (faultNow_memInv h₁) (faultNow_memInv (memerrNotice_memInv h₁))

theorem takeStop_memInv {s c} (h : MemInv s) : MemInv (takeStop s c) := by
  unfold takeStop
  extract_lets
  refine ite_memInv (stopCtx_memInv h) ?_
  split
  · exact faultNow_memInv (State.setCtx_memInv h)
  · split
    · exact ite_memInv (takeFault_memInv (State.takeFree_memInv h)) (ite_memInv (stopCtx_memInv h) h)
    · exact ite_memInv (stopCtx_memInv h) h
    · exact ite_memInv (takeFault_memInv (State.takeFree_memInv h)) h
    · exact h

theorem takeUnit_memInv {s c vd r} (h : MemInv s) : MemInv (takeUnit s c vd r) := by
  unfold takeUnit
  extract_lets _ _ _ s₁ s₂ s₃
  have h₁ : MemInv s₁ := State.setCtx_memInv h
  have h₂ : MemInv s₂ := by
    unfold s₂
    split
    · exact State.setLaunch_memInv h₁
    · exact h₁
  have h₃ : MemInv s₃ := setRecState_memInv h₂
  split
  · exact startEntry_memInv h₃
  · exact ite_memInv (startEntry_memInv h₃) (ite_memInv (restoreUnit_memInv (setRecCause_memInv h₂))
      (startUnit_memInv (setRecCause_memInv h₂)))

theorem suspendUnit_memInv {s c st obj next} (h : MemInv s) : MemInv (suspendUnit s c st obj next) := by
  unfold suspendUnit
  extract_lets s₁ s₂ _ _ _ s₃ s₄ s₅ s₆ s₇
  have h₁ : MemInv s₁ := dropArrived_memInv (leaveGuards_memInv h)
  have h₂ : MemInv s₂ := mapJobs_memInv h₁
  have h₃ : MemInv s₃ := recordArgs_memInv h₂
  have h₄ : MemInv s₄ := setRecWord_memInv h₃
  have h₅ : MemInv s₅ := setRecWord_memInv h₄
  have h₆ : MemInv s₆ := setRecWord_memInv h₅
  have h₇ : MemInv s₇ := freeCtx_memInv h₆
  exact ite_memInv (enterWalk_memInv h₇) h₇

theorem retire_memInv {s pc} (h : MemInv s) : MemInv (retire s pc) :=
  State.setMe_memInv (dropArrived_memInv h)

theorem stepUsed_memInv {s k} (h : MemInv s) : MemInv (stepUsed s k) := ite_memInv (State.setCore_memInv h) h

theorem conclude_memInv {s0 v} (hv : VerdictInv v) : OutInv (conclude s0 v) := by
  unfold conclude
  extract_lets
  split
  · exact ite_outInv (State.done_memInv (takeStop_memInv ((hv.of_wait rfl))))
      (State.done_memInv ((hv.of_wait rfl)))
  · exact State.done_memInv (takeFault_memInv (stepUsed_memInv ((hv.of_trap rfl))))
  · exact State.done_memInv (takeFault_memInv (stepUsed_memInv ((hv.of_trapNext rfl))))
  · exact State.done_memInv (retire_memInv (stepUsed_memInv ((hv.of_ok rfl))))
  · exact State.done_memInv (retire_memInv (stepUsed_memInv ((hv.of_jump rfl))))
  · exact State.done_memInv (stepUsed_memInv ((hv.of_left rfl)))

/-! ### Operands and destinations -/

theorem trapFree_memInv {s c} (h : MemInv s) : VerdictInv (trapFree s c) := .trap (State.takeFree_memInv h)

theorem block_memInv {s} (h : MemInv s) : VerdictInv (block s) := ite_verdictInv (trapFree_memInv h) (.wait h)

theorem impure_memInv {s v} (h : MemInv s) (hv : VerdictInv v) : VerdictInv (impure s v) :=
  ite_verdictInv (trapFree_memInv h) hv

theorem gate_memInv {s f} {body : Ctx → Verdict} (h : MemInv s) (hbody : ∀ x, VerdictInv (body x)) :
    VerdictInv (gate s f body) := by
  unfold gate
  extract_lets
  exact ite_verdictInv (trapFree_memInv h) (ite_verdictInv (block_memInv h)
    (ite_verdictInv (.ok h) (ite_verdictInv (trapFree_memInv h)
      (ite_verdictInv (block_memInv h) (ite_verdictInv (.trap h)
        (ite_verdictInv (trapFree_memInv h) (ite_verdictInv (.wait h) (hbody _))))))))

theorem formatTrap_memInv {s} (h : MemInv s) : VerdictInv (formatTrap s) := .trap h

theorem setD_memInv {s d w} (h : MemInv s) : MemInv (setD s d w) := State.setMe_memInv h

theorem setKBool_memInv {s k b} (h : MemInv s) : MemInv (setKBool s k b) := State.setMe_memInv h

theorem produce_memInv {s p} (h : MemInv s) : MemInv (produce s p) := State.setMe_memInv h

theorem produceWord_memInv {s d w} (h : MemInv s) : MemInv (produceWord s d w) := produce_memInv h

/-! ### Reads and writes of contexts and engines -/

theorem accessTrap_memInv {s f} (h : MemInv s) : VerdictInv (accessTrap s f) := .trap h

theorem drainTouching_memInv {s core ls} (h : MemInv s) : MemInv (drainTouching s core ls) := drainN_memInv h

theorem bufferView_memInv {s core ls} (h : MemInv s) : MemInv (bufferView s core ls).1 :=
  ite_fst_memInv h (ite_fst_memInv (drainTouching_memInv h)
    (ite_fst_memInv h (ite_fst_memInv (drainTouching_memInv h) h)))

theorem requestMarked_memInv {s agent pier as ls} (h : MemInv s) :
    MemInv (requestMarked s agent pier as ls) :=
  foldl_memInv (fun _ _ h₁ => ite_memInv h₁ (sendRemote_memInv h₁)) h

theorem requestParts_memInv {s agent pier as ls} (h : MemInv s) : MemInv (requestParts s agent pier as ls) :=
  requestMarked_memInv h

theorem countPoison_memInv {s ps} (h : MemInv s) : MemInv (countPoison s ps) := by
  unfold countPoison
  refine ite_memInv h ?_
  split
  · exact countUncorr_memInv h
  · exact h

theorem trackFetch_memInv {s agent pier vd ps} (h : MemInv s) : MemInv (trackFetch s agent pier vd ps).1 := by
  unfold trackFetch
  split
  · exact requestParts_memInv h
  · exact h

theorem strongLines_memInv {s p ps} (h : MemInv s) : MemInv (strongLines s p ps) :=
  ite_memInv (dropLines_memInv h) h

theorem strongBefore_memInv {s c ps} (h : MemInv s) : MemInv (strongBefore s c ps).1 :=
  ite_fst_memInv (ite_fst_memInv (drainCtx_memInv h) (strongLines_memInv (drainCtx_memInv h))) h

theorem setFencing_memInv {s c lines} (h : MemInv s) : MemInv (setFencing s c lines) :=
  ite_memInv (State.setCtx_memInv h) h

theorem ctxRead_memInv {s c w k leased as} (h : MemInv s) : GotInv (ctxRead s c w k leased as) := by
  unfold ctxRead
  split
  · exact .fault (noteAll_memInv h)
  · extract_lets s₁
    have h₁ : MemInv s₁ := noteAll_memInv h
    refine ite_gotInv (.wait h₁) ?_
    split
    next e => exact .wait (memInv_of_fst (strongBefore_memInv h₁) e)
    next s₂ e₁ =>
      have h₂ : MemInv s₂ := memInv_of_fst (strongBefore_memInv h₁) e₁
      extract_lets p
      have h₃ : MemInv p.1 := bufferView_memInv h₂
      refine ite_gotInv (.wait h₃) ?_
      split
      · exact .fault (countPoison_memInv h₃)
      · refine ite_gotInv ?_ (.wait (requestParts_memInv h₃))
        split
        · exact .fault h₃
        · exact .ok (strongLines_memInv (noteUnknown_memInv (countPlaced_memInv h₃)))
        · exact .ok (strongLines_memInv (countPlaced_memInv h₃))

theorem operand_memInv {s a n} (h : MemInv s) : GotInv (operand s a n) :=
  ite_gotInv (.fault h) (ctxRead_memInv h)

theorem remoteCas_memInv {s agent target pa va n old new} (h : MemInv s) :
    GotInv (remoteCas s agent target pa va n old new) := by
  unfold remoteCas
  refine ite_gotInv (.wait h) ?_
  split
  · split
    · exact .fault h
    · exact .ok (dropArrived_memInv (noteUnknown_memInv h))
    · exact .ok (dropArrived_memInv h)
  · exact .wait (sendRemote_memInv h)

theorem launchLoad_memInv {s c dst w xs base ps marks fwd} (h : MemInv s) :
    MemInv (launchLoad s c dst w xs base ps marks fwd) :=
  produce_memInv (countPoison_memInv (countPlaced_memInv (foldl_fst_memInv (fun _ _ => sendRemote_memInv) h)))

theorem issueLoadBy_memInv {s adj q xs base dst} (h : MemInv s) :
    VerdictInv (issueLoadBy s adj q xs base dst) := by
  unfold issueLoadBy
  extract_lets _ _ _ s₁
  have h₁ : MemInv s₁ := noteAll_memInv h
  split
  · exact accessTrap_memInv (noteAll_memInv h)
  · extract_lets _ _ s₂ _ s₃
    have h₂ : MemInv s₂ := drainTouching_memInv h₁
    have h₃ : MemInv s₃ := launchLoad_memInv h₂
    refine ite_verdictInv (.wait h₁) (ite_verdictInv
      (ite_verdictInv (block_memInv (ite_memInv (State.countEvent_memInv h₂) h₂))
        (.ok (ite_memInv (setGranules_memInv h₃) h₃))) ?_)
    split
    next e => exact .wait (memInv_of_fst (strongBefore_memInv h₁) e)
    next s₄ e₁ =>
      have h₄ : MemInv s₄ := memInv_of_fst (strongBefore_memInv h₁) e₁
      exact ite_verdictInv (.wait (bufferView_memInv h₄))
        (.ok (ite_memInv (setFencing_memInv (launchLoad_memInv (bufferView_memInv h₄)))
          (launchLoad_memInv (bufferView_memInv h₄))))

theorem issueLoad_memInv {s q xs base dst} (h : MemInv s) : VerdictInv (issueLoad s q xs base dst) :=
  issueLoadBy_memInv h

theorem enterEntries_memInv {s core es waited} (h : MemInv s) : OptInv id (enterEntries s core es waited) :=
  ite_optInv (.some (State.setCore_memInv h)) .none

theorem waitBuffer_memInv {s es} (h : MemInv s) : VerdictInv (waitBuffer s es) :=
  .wait (ite_memInv (State.setMe_memInv h) h)

theorem releaseWait_memInv {s c} (h : MemInv s) : MemInv (releaseWait s c).1 := drainCtx_memInv h

theorem issueStoreBy_memInv {s} {place : List Placed → List SbEntry → List SbEntry} {q t xs} (h : MemInv s) :
    VerdictInv (issueStoreBy s place q t xs) := by
  unfold issueStoreBy
  extract_lets
  split
  · exact accessTrap_memInv (noteAll_memInv h)
  · refine ite_verdictInv (.wait (noteAll_memInv h)) ?_
    split
    next e => exact .wait (memInv_of_fst (trackFetch_memInv h) e)
    next s₁ e₁ =>
      have h₁ : MemInv s₁ := memInv_of_fst (trackFetch_memInv h) e₁
      split
      · exact accessTrap_memInv (noteAll_memInv h₁)
      · extract_lets s₂
        have h₂ : MemInv s₂ := noteAll_memInv h₁
        split
        next e => exact .wait (memInv_of_fst (ite_fst_memInv (releaseWait_memInv h₂) h₂) e)
        next s₃ e₂ =>
          have h₃ : MemInv s₃ := memInv_of_fst (ite_fst_memInv (releaseWait_memInv h₂) h₂) e₂
          split
          next e => exact .wait (memInv_of_fst (strongBefore_memInv h₃) e)
          next s₄ e₃ =>
            have h₄ : MemInv s₄ := memInv_of_fst (strongBefore_memInv h₃) e₃
            split
            · exact waitBuffer_memInv h₄
            next s₅ e₄ =>
              have h₅ : MemInv s₅ := (enterEntries_memInv h₄).of_some e₄
              exact .ok (ite_memInv (setFencing_memInv (drainCtx_memInv (countPlaced_memInv h₅)))
                (countPlaced_memInv h₅))

theorem issueStore_memInv {s q t xs} (h : MemInv s) : VerdictInv (issueStore s q t xs) :=
  issueStoreBy_memInv h

theorem selfStore_memInv {s a bs} (h : MemInv s) : GotInv (selfStore s a bs) := by
  unfold selfStore
  extract_lets
  refine ite_gotInv (.fault h) ?_
  split
  next e => exact .ok ((issueStore_memInv h).of_ok e)
  next e => exact .wait ((issueStore_memInv h).of_wait e)
  next e => exact .fault ((issueStore_memInv h).of_trap e)
  · exact .wait h

theorem rmwHere_memInv {s vd jobid pier addrs ps hdr} {f : Nat → Option Nat} (h : MemInv s) :
    MemInv (rmwHere s vd jobid pier addrs ps hdr f).1 := by
  unfold rmwHere
  extract_lets s₁
  have h₁ : MemInv s₁ := unlockTiles_memInv h
  split
  · exact h₁
  · exact bumpHeaders_memInv (writeCells_memInv h₁)

theorem engReadBy_memInv {s agent w adj as} (h : MemInv s) : GotInv (engReadBy s agent w adj as) := by
  unfold engReadBy
  split
  · exact .fault (noteAll_memInv h)
  · extract_lets s₁
    have h₁ : MemInv s₁ := noteAll_memInv h
    refine ite_gotInv (.wait h₁) ?_
    split
    · exact .fault (countPoison_memInv h₁)
    · refine ite_gotInv ?_ (.wait (requestMarked_memInv (strongLines_memInv h₁)))
      split
      · exact .fault h₁
      · exact .ok (strongLines_memInv (countPlaced_memInv h₁))

theorem engRead_memInv {s agent w as} (h : MemInv s) : GotInv (engRead s agent w as) := engReadBy_memInv h

theorem engPut_memInv {s agent jobid w ps bs} (h : MemInv s) : GotInv (engPut s agent jobid w ps bs) := by
  unfold engPut
  refine ite_gotInv (.wait h) ?_
  extract_lets
  split
  next e => exact .wait (memInv_of_fst (trackFetch_memInv h) e)
  next s₁ e₁ =>
    have h₁ : MemInv s₁ := memInv_of_fst (trackFetch_memInv h) e₁
    split
    · exact .fault h₁
    · exact .ok (countPlaced_memInv (setGranules_memInv (performWrite_memInv (strongLines_memInv h₁))))

theorem engWrite_memInv {s agent jobid w xs} (h : MemInv s) : GotInv (engWrite s agent jobid w xs) := by
  unfold engWrite
  extract_lets
  split
  · exact .fault (noteAll_memInv h)
  · exact engPut_memInv (noteAll_memInv h)

theorem engReadAt_memInv {s agent w a n} (h : MemInv s) : GotInv (engReadAt s agent w a n) :=
  ite_gotInv (.fault h) (engRead_memInv h)

theorem engWriteAt_memInv {s agent jobid w a bs} (h : MemInv s) : GotInv (engWriteAt s agent jobid w a bs) :=
  ite_gotInv (.fault h) (engWrite_memInv h)

/-! ### Prefixes -/

theorem addPrefix_memInv {s w} (h : MemInv s) : OutInv (addPrefix s w) :=
  State.done_memInv (State.setMe_memInv (dropArrived_memInv h))

/-! ### Events of the agenda and issue cycles -/

theorem dropCached_memInv {s x} (h : MemInv s) : MemInv (dropCached s x) := by
  unfold dropCached
  split
  · exact State.setCore_memInv h
  · exact State.setPier_memInv h
  · exact State.setDeck_memInv h
  · exact dropLines_memInv h

theorem writeReadings_memInv {s deck junction power inlet outlet flow inPower} (h : MemInv s) :
    MemInv (writeReadings s deck junction power inlet outlet flow inPower) :=
  ite_memInv h (State.setDeck_memInv h)

theorem enrolHost_memInv {s host on} (h : MemInv s) : MemInv (enrolHost s host on) := h

theorem bindHandles_memInv {s c} (h : MemInv s) : GotInv (bindHandles s c) := by
  unfold bindHandles
  extract_lets
  split
  · exact .ok h
  · split
    next e => exact .fault ((ctxRead_memInv h).of_fault e)
    next e => exact .wait ((ctxRead_memInv h).of_wait e)
    next e => exact .wait (State.setCtx_memInv (dropArrived_memInv ((ctxRead_memInv h).of_ok e)))

theorem fetchWord_memInv {s c a} (h : MemInv s) : GotInv (fetchWord s c a) := by
  unfold fetchWord
  extract_lets
  split
  next e => exact .fault ((bindHandles_memInv h).of_fault e)
  next e => exact .wait ((bindHandles_memInv h).of_wait e)
  next s₁ _ e₁ =>
    have h₁ : MemInv s₁ := (bindHandles_memInv h).of_ok e₁
    split
    · exact .fault h₁
    · exact .fault h₁
    · split
      · exact .fault (noteAll_memInv h₁)
      · split
        next e => exact .wait (memInv_of_fst (strongBefore_memInv (noteAll_memInv h₁)) e)
        next s₂ e₂ =>
          have h₂ : MemInv s₂ := memInv_of_fst (strongBefore_memInv (noteAll_memInv h₁)) e₂
          split
          · exact .fault (countPoison_memInv h₂)
          · extract_lets
            refine ite_gotInv ?_ (.wait (requestParts_memInv h₂))
            split
            · exact .fault h₂
            · exact .ok (strongLines_memInv (countPlaced_memInv h₂))

theorem illegalWord_memInv {s} (h : MemInv s) : OutInv (illegalWord s) := conclude_memInv (trapFree_memInv h)

theorem fenceOver_memInv {s c} (h : MemInv s) : MemInv (fenceOver s c) :=
  ite_memInv (State.setCtx_memInv (ite_memInv (dropLines_memInv h) h)) h

/-! ### Scalar, floating point and control instructions -/

theorem scalar3_memInv {s acc o} {f : Bool → Word → Word → Word} (h : MemInv s) :
    OutInv (scalar3 s acc o f) :=
  conclude_memInv (gate_memInv h (fun _ => .ok (setD_memInv h)))

theorem scalar2_memInv {s o} {f : Word → Word} (h : MemInv s) : OutInv (scalar2 s o f) :=
  conclude_memInv (gate_memInv h (fun _ => .ok (setD_memInv h)))

theorem scalarI_memInv {s acc o} {f : Bool → Word → Word → Word} (h : MemInv s) :
    OutInv (scalarI s acc o f) :=
  conclude_memInv (gate_memInv h (fun _ => .ok (setD_memInv h)))

theorem scalarSh_memInv {s o} {f : Word → Word → Word} (h : MemInv s) : OutInv (scalarSh s o f) :=
  conclude_memInv (gate_memInv h (fun _ => .ok (setD_memInv h)))

theorem compareR_memInv {s o} {f : Word → Word → Bool} (h : MemInv s) : OutInv (compareR s o f) :=
  conclude_memInv (gate_memInv h (fun _ => .ok (setKBool_memInv h)))

theorem compareI_memInv {s o} {f : Word → Word → Bool} (h : MemInv s) : OutInv (compareI s o f) :=
  conclude_memInv (gate_memInv h (fun _ => .ok (setKBool_memInv h)))

theorem guard3_memInv {s o} {f : Word → Word → Word} (h : MemInv s) : OutInv (guard3 s o f) :=
  conclude_memInv (gate_memInv h (fun _ => .ok (State.setMe_memInv h)))

theorem guard2_memInv {s o} {f : Word → Word} (h : MemInv s) : OutInv (guard2 s o f) :=
  conclude_memInv (gate_memInv h (fun _ => .ok (State.setMe_memInv h)))

theorem setF_memInv {s d r} (h : MemInv s) : MemInv (setF s d r) := State.setMe_memInv h

theorem float3_memInv {s o} {op : RMode → FVal → FVal → FVal × Flags} (h : MemInv s) :
    OutInv (float3 s o op) :=
  conclude_memInv (gate_memInv h (fun _ => .ok (setF_memInv h)))

theorem floatCvt_memInv {s o src dst} (h : MemInv s) : OutInv (floatCvt s o src dst) :=
  conclude_memInv (gate_memInv h (fun _ => .ok (State.setMe_memInv h)))

theorem branchB_memInv {s o link} (h : MemInv s) : OutInv (branchB s o link) :=
  conclude_memInv (gate_memInv h (fun _ => .jump (ite_memInv (setD_memInv h) h)))

theorem jumpTo_memInv {s t} {f : State → State} (h : MemInv s) (hf : ∀ s, MemInv s → MemInv (f s)) :
    VerdictInv (jumpTo s t f) :=
  ite_verdictInv (.trap h) (.jump (hf _ h))

theorem execLoop_memInv {o s} (h : MemInv s) : OutInv (execLoop o s) :=
  conclude_memInv (gate_memInv h (fun _ => ite_verdictInv (.ok h)
    (ite_verdictInv (.ok (setD_memInv h)) (.jump (setD_memInv h)))))

theorem setControl_memInv {s n w} (h : MemInv s) : MemInv (setControl s n w) := by
  unfold setControl
  extract_lets
  split
  case h_8 => split <;> exact h
  all_goals exact h

theorem execSetc_memInv {o s} (h : MemInv s) : OutInv (execSetc o s) :=
  conclude_memInv (gate_memInv h (fun _ => ite_verdictInv (trapFree_memInv h)
    (ite_verdictInv (trapFree_memInv h) (.ok (setControl_memInv h)))))

/-! ### Vector instructions -/

theorem vgate_memInv {s f} {body : Ctx → Word → Fmt → Verdict} (h : MemInv s)
    (hbody : ∀ x y z, VerdictInv (body x y z)) :
    VerdictInv (vgate s f body) := by
  unfold vgate
  extract_lets
  exact ite_verdictInv (trapFree_memInv h) (ite_verdictInv (block_memInv h)
    (ite_verdictInv (.ok h) (ite_verdictInv (block_memInv h)
      (ite_verdictInv (formatTrap_memInv h) (ite_verdictInv (trapFree_memInv h)
        (ite_verdictInv (ite_verdictInv (.wait h) (hbody _ _ _))
          (ite_verdictInv (.ok h) (ite_verdictInv (ite_verdictInv (.wait h) (hbody _ _ _))
            (ite_verdictInv (block_memInv h) (ite_verdictInv (formatTrap_memInv h) (hbody _ _ _)))))))))))

theorem setVF_memInv {s d r} (h : MemInv s) : MemInv (setVF s d r) := State.setMe_memInv h

theorem vector3_memInv {s acc o} {p : Fmt → Bool} {op : Ctx → Fmt → Nat → Nat → Nat × Flags} (h : MemInv s) :
    OutInv (vector3 s acc o p op) :=
  conclude_memInv (vgate_memInv h (fun _ _ _ => .ok (setVF_memInv h)))

theorem vector2_memInv {s acc o} {p : Fmt → Bool} {op : Ctx → Fmt → Nat → Nat × Flags} (h : MemInv s) :
    OutInv (vector2 s acc o p op) :=
  conclude_memInv (vgate_memInv h (fun _ _ _ => .ok (setVF_memInv h)))

theorem vcompare_memInv {s o} {p : Fmt → Bool} (h : MemInv s) : OutInv (vcompare s o p) :=
  conclude_memInv (gate_memInv h (fun _ => .ok (State.setMe_memInv h)))

theorem reduce1_memInv {s o} {ff : Fmt → Word → VReg → Nat × Flags} {fi : Fmt → Word → VReg → Nat}
    (h : MemInv s) :
    OutInv (reduce1 s o ff fi) :=
  conclude_memInv (gate_memInv h (fun _ => ite_verdictInv (.ok (produceWord_memInv (State.setMe_memInv h)))
    (.ok (produceWord_memInv h))))

theorem execVfma_memInv {o s} (h : MemInv s) : OutInv (execVfma o s) := by
  unfold execVfma
  refine conclude_memInv (vgate_memInv h (fun _ _ _ => ?_))
  split
  · exact .ok h
  · exact .ok (setVF_memInv h)

theorem execVins_memInv {o s} (h : MemInv s) : OutInv (execVins o s) := by
  unfold execVins
  extract_lets
  exact conclude_memInv (ite_verdictInv (trapFree_memInv h)
    (ite_verdictInv (block_memInv h) (ite_verdictInv (.ok h)
      (gate_memInv h (fun _ => ite_verdictInv (.ok (State.setMe_memInv h)) (.ok h))))))

theorem execVdot_memInv {o s} (h : MemInv s) : OutInv (execVdot o s) :=
  conclude_memInv (gate_memInv h (fun _ => ite_verdictInv (.ok (produceWord_memInv (State.setMe_memInv h)))
    (.ok (produceWord_memInv h))))

theorem execVpack_memInv {o s} (h : MemInv s) : OutInv (execVpack o s) :=
  conclude_memInv (vgate_memInv h (fun _ _ _ => ite_verdictInv (.ok (setVF_memInv h)) (formatTrap_memInv h)))

theorem execVunpk_memInv {o s} (h : MemInv s) : OutInv (execVunpk o s) :=
  conclude_memInv (ite_verdictInv (trapFree_memInv h)
    (ite_verdictInv (block_memInv h) (ite_verdictInv (.ok h)
      (gate_memInv h (fun _ => .ok (State.setMe_memInv h))))))

/-! ### Loads, stores, atomics and fences -/

theorem scalarLoad_memInv {s o n signed} (h : MemInv s) : OutInv (scalarLoad s o n signed) := by
  unfold scalarLoad
  refine conclude_memInv (gate_memInv h (fun _ => ?_))
  extract_lets
  split
  · exact accessTrap_memInv h
  · exact issueLoad_memInv h

theorem scalarStore_memInv {s o n} (h : MemInv s) : OutInv (scalarStore s o n) := by
  unfold scalarStore
  refine conclude_memInv (gate_memInv h (fun _ => ?_))
  extract_lets
  split
  · exact accessTrap_memInv h
  · exact issueStore_memInv h

theorem execLdb_memInv {o s} (h : MemInv s) : OutInv (execLdb o s) := scalarLoad_memInv h

theorem execLdh_memInv {o s} (h : MemInv s) : OutInv (execLdh o s) := scalarLoad_memInv h

theorem execLdw_memInv {o s} (h : MemInv s) : OutInv (execLdw o s) := scalarLoad_memInv h

theorem execLdd_memInv {o s} (h : MemInv s) : OutInv (execLdd o s) := scalarLoad_memInv h

theorem execLdbn_memInv {o s} (h : MemInv s) : OutInv (execLdbn o s) := scalarLoad_memInv h

theorem execLdhn_memInv {o s} (h : MemInv s) : OutInv (execLdhn o s) := scalarLoad_memInv h

theorem execLdwn_memInv {o s} (h : MemInv s) : OutInv (execLdwn o s) := scalarLoad_memInv h

theorem storeGate_memInv {s acc f srcs} {badTag : Ctx → Bool} {body : Ctx → Word → Verdict} (h : MemInv s)
    (hbody : ∀ x y, VerdictInv (body x y)) :
    VerdictInv (storeGate s acc f srcs badTag body) :=
  ite_verdictInv (trapFree_memInv h) (ite_verdictInv (block_memInv h)
    (ite_verdictInv (.ok h) (gate_memInv h (fun _ => hbody _ _))))

theorem execLdv_memInv {o s} (h : MemInv s) : OutInv (execLdv o s) := by
  unfold execLdv
  refine conclude_memInv (vgate_memInv h (fun _ _ _ => ?_))
  extract_lets
  split
  · exact accessTrap_memInv h
  · exact issueLoad_memInv h

theorem execStv_memInv {o s} (h : MemInv s) : OutInv (execStv o s) := by
  unfold execStv
  refine conclude_memInv (storeGate_memInv h (fun _ _ => ?_))
  extract_lets
  split
  · exact accessTrap_memInv h
  · exact issueStore_memInv h

theorem execLdx_memInv {o s} (h : MemInv s) : OutInv (execLdx o s) := by
  unfold execLdx
  refine conclude_memInv (vgate_memInv h (fun _ _ _ => ?_))
  extract_lets
  split
  · exact accessTrap_memInv h
  · exact issueLoad_memInv h

theorem execStx_memInv {o s} (h : MemInv s) : OutInv (execStx o s) := by
  unfold execStx
  refine conclude_memInv (storeGate_memInv h (fun _ _ => ?_))
  extract_lets
  split
  · exact accessTrap_memInv h
  · exact issueStore_memInv h

theorem issueRmw_memInv {s d a n r} (h : MemInv s) : VerdictInv (issueRmw s d a n r) := by
  unfold issueRmw
  extract_lets _ _ _ _ v₁ s₁
  have h₁ : MemInv s₁ := noteAll_memInv h
  split
  · exact accessTrap_memInv (noteAll_memInv h)
  · extract_lets v₂ s₂
    have h₂ : MemInv s₂ := drainTouching_memInv (drainCtx_memInv h₁)
    refine ite_verdictInv (.wait h₂) ?_
    split
    next e => exact .wait (memInv_of_fst (strongBefore_memInv h₂) e)
    next s₃ e₁ =>
      have h₃ : MemInv s₃ := memInv_of_fst (strongBefore_memInv h₂) e₁
      clear_value v₂
      split
      · extract_lets s₄ _ s₅
        have h₄ : MemInv s₄ := dropLines_memInv h₃
        have h₅ : MemInv s₅ := sendRemote_memInv h₄
        split
        next s₆ _ e₂ =>
          have h₆ : MemInv s₆ := (ctxRead_memInv h₄).of_fault e₂
          clear_value v₁
          split
          · exact .ok (ite_memInv (setFencing_memInv (produce_memInv h₅)) (produce_memInv h₅))
          · exact accessTrap_memInv h₆
        next s₇ e₃ =>
          have h₇ : MemInv s₇ := (ctxRead_memInv h₄).of_wait e₃
          clear_value v₁
          split
          · exact .ok (ite_memInv (setFencing_memInv (produce_memInv h₅)) (produce_memInv h₅))
          · exact .wait h₇
        next s₈ _ e₄ =>
          have h₈ : MemInv s₈ := (ctxRead_memInv h₄).of_ok e₄
          clear_value v₁
          split
          · exact .ok (ite_memInv (setFencing_memInv (produce_memInv h₅)) (produce_memInv h₅))
          · exact ite_verdictInv (accessTrap_memInv h₈)
              (.ok (ite_memInv (setFencing_memInv (produce_memInv h₈)) (produce_memInv h₈)))
      · refine ite_verdictInv (.wait h₃) ?_
        split
        · exact .ok (ite_memInv (setFencing_memInv (produce_memInv (countPoison_memInv h₃)))
            (produce_memInv (countPoison_memInv h₃)))
        · extract_lets
          split
          next e => exact .wait (memInv_of_fst (trackFetch_memInv h₃) e)
          next s₉ e₅ =>
            have h₉ : MemInv s₉ := memInv_of_fst (trackFetch_memInv h₃) e₅
            split
            · exact ite_verdictInv (accessTrap_memInv h₉)
                (.ok (ite_memInv (setFencing_memInv (produce_memInv (countPlaced_memInv h₉)))
                  (produce_memInv (countPlaced_memInv h₉))))
            · exact ite_verdictInv (accessTrap_memInv h₉)
                (.ok (ite_memInv (setFencing_memInv (produce_memInv (countPlaced_memInv h₉)))
                  (produce_memInv (countPlaced_memInv h₉))))
            · exact .ok (ite_memInv (setFencing_memInv
                (produce_memInv (countPlaced_memInv (rmwHere_memInv h₉))))
                  (produce_memInv (countPlaced_memInv (rmwHere_memInv h₉))))

theorem execAtom_memInv {o s} (h : MemInv s) : OutInv (execAtom o s) := by
  unfold execAtom
  refine conclude_memInv (gate_memInv h (fun _ => impure_memInv h ?_))
  extract_lets
  split
  · exact accessTrap_memInv h
  · exact issueRmw_memInv h

theorem execCas_memInv {o s} (h : MemInv s) : OutInv (execCas o s) := by
  unfold execCas
  refine conclude_memInv (gate_memInv h (fun _ => impure_memInv h ?_))
  extract_lets
  split
  · exact accessTrap_memInv h
  · exact issueRmw_memInv h

theorem reportDue_memInv {s c} (h : MemInv s) : OptInv (fun x => x.2.2) (reportDue s c) := by
  unfold reportDue
  extract_lets
  split
  · exact .some (taint_memInv (State.setCtx_memInv h))
  · split
    · exact .some h
    · exact .none

theorem execFence_memInv {o s} (h : MemInv s) : OutInv (execFence o s) := by
  unfold execFence
  refine conclude_memInv (gate_memInv h (fun _ => ite_verdictInv (.wait (ite_memInv (drainCtx_memInv h) h))
    ?_))
  extract_lets _ s₁
  have h₁ : MemInv s₁ := ite_memInv (dropLines_memInv (ite_memInv (drainCtx_memInv h) h))
    (ite_memInv (drainCtx_memInv h) h)
  split
  next e => exact .trapNext ((reportDue_memInv h₁).of_some e)
  · exact .ok h₁

theorem execFeset_memInv {o s} (h : MemInv s) : OutInv (execFeset o s) := by
  unfold execFeset
  refine conclude_memInv (gate_memInv h (fun _ => ite_verdictInv (trapFree_memInv h)
    (ite_verdictInv (.ok h) (ite_verdictInv (accessTrap_memInv h) ?_))))
  extract_lets _ s₁
  have h₁ : MemInv s₁ := drainTouching_memInv h
  split
  next e => exact .ok ((enterEntries_memInv h₁).of_some e)
  · exact .wait h₁

theorem forgetJob_memInv {s p id} (h : MemInv s) : MemInv (forgetJob s p id) := State.setPier_memInv h

theorem execJwait_memInv {o s} (h : MemInv s) : OutInv (execJwait o s) := by
  unfold execJwait
  refine conclude_memInv (gate_memInv h (fun _ => ?_))
  extract_lets
  split
  · exact .ok h
  · exact ite_verdictInv (block_memInv h) (ite_verdictInv
      (.trapNext (State.setMe_memInv (forgetJob_memInv h))) (.ok (State.setMe_memInv (forgetJob_memInv h))))

theorem takeMemerr_memInv {s c a fpc} (h : MemInv s) : MemInv (takeMemerr s c a fpc) := by
  unfold takeMemerr
  extract_lets
  split
  · exact ite_memInv (takeFault_memInv h) (ite_memInv h (State.setCtx_memInv h))
  · split
    · exact memerrNotice_memInv h
    · exact h
    · exact takeFault_memInv (State.setCtx_memInv h)

theorem execLoadComplete_memInv {c i s} (h : MemInv s) : OutInv (execLoadComplete c i s) := by
  unfold execLoadComplete
  extract_lets
  split
  · exact .next h
  · refine ite_outInv (.next h) (State.done_memInv (advanceStop_memInv ?_))
    split
    · exact State.setCtx_memInv h
    · exact takeMemerr_memInv (State.setCtx_memInv h)

/-! ### The pager's stores and pins -/

theorem pagerStore_memInv {s a w} (h : MemInv s) : MemInv (pagerStore s a w) :=
  h.withMem (wf_memWrite _ _ h.mem)

theorem pagerStores_memInv {s vd ws} (h : MemInv s) : MemInv (pagerStores s vd ws) :=
  foldl_memInv (fun _ _ h₁ => ite_memInv (pagerStore_memInv h₁) h₁) h

theorem chargeFrames_memInv {s t vd job} (ht : MemInv t) : MemInv (chargeFrames s t vd job) := by
  unfold chargeFrames
  refine foldl_memInv (fun _ _ h₁ => ?_) ht
  split
  · extract_lets
    split
    · exact ite_memInv h₁ h₁
    · exact h₁
  · exact h₁

theorem pagerMaps_memInv {s vd job ws} (h : MemInv s) : MemInv (pagerMaps s vd job ws) :=
  ite_memInv h (chargeFrames_memInv (pagerStores_memInv h))

theorem storeTables_memInv {s vd stores} (h : MemInv s) : MemInv (storeTables s vd stores) :=
  foldl_memInv (fun _ _ h₁ => ite_memInv (pagerStore_memInv h₁) h₁) h

theorem setPin_memInv {s vd va on} (h : MemInv s) : MemInv (setPin s vd va on) := by
  unfold setPin
  split
  · exact h
  · exact pagerStore_memInv h

theorem pinRange_memInv {s vd r} (h : MemInv s) : MemInv (pinRange s vd r) :=
  foldl_memInv (fun _ _ => setPin_memInv) h

theorem retryFrames_memInv {s job} (h : MemInv s) : MemInv (retryFrames s job) :=
  foldl_memInv (fun _ _ h₁ => ite_memInv (setRecCause_memInv h₁) h₁) h

theorem unpinRange_memInv {s vd r} (h : MemInv s) : MemInv (unpinRange s vd r) := by
  unfold unpinRange
  extract_lets
  refine foldl_memInv (fun _ _ h₁ => ?_) h
  extract_lets
  split
  · exact h₁
  · exact ite_memInv h₁ (setPin_memInv h₁)

/-! ### Handles, layouts and conversions -/

theorem recordRead_memInv {s leased a n} (h : MemInv s) : GotInv (recordRead s leased a n) :=
  ite_gotInv (.fault h) (ctxRead_memInv h)

theorem ctlRead_memInv {s x} (h : MemInv s) : GotInv (ctlRead s x) := by
  unfold ctlRead
  split
  next e => exact .fault ((recordRead_memInv h).of_fault e)
  next e => exact .wait ((recordRead_memInv h).of_wait e)
  next e => exact .ok ((recordRead_memInv h).of_ok e)

theorem got_memInv {α : Type} {g} {f : State → α → Verdict} {s} (h : GotInv g)
    (hf : ∀ s x, MemInv s → VerdictInv (f s x)) :
    VerdictInv (got g f s) := by
  unfold got
  split
  · exact accessTrap_memInv ((h.of_fault rfl))
  · exact .wait ((h.of_wait rfl))
  · exact hf _ _ ((h.of_ok rfl))

theorem unbound_memInv {s} (h : MemInv s) : VerdictInv (unbound s) := .trap h

theorem gateE_memInv {s srcs dsts} {body : Ctx → Verdict} (h : MemInv s) (hbody : ∀ x, VerdictInv (body x)) :
    VerdictInv (gateE s srcs dsts body) :=
  gate_memInv h hbody

theorem atLevel_memInv {s n v} (h : MemInv s) (hv : VerdictInv v) : VerdictInv (atLevel s n v) :=
  ite_verdictInv (trapFree_memInv h) hv

theorem setHandle_memInv {s x b} (h : MemInv s) : MemInv (setHandle s x b) := State.setMe_memInv h

theorem execHset_memInv {o s} (h : MemInv s) : OutInv (execHset o s) :=
  conclude_memInv (gateE_memInv h (fun _ => ite_verdictInv (trapFree_memInv h)
    (ite_verdictInv (.ok (setHandle_memInv h)) (ite_verdictInv (accessTrap_memInv h)
      (ite_verdictInv (.trap h) (got_memInv (recordRead_memInv h)
        (fun _ _ h₁ => ite_verdictInv (.ok (setHandle_memInv h₁)) (.trap h₁))))))))

theorem execHget_memInv {o s} (h : MemInv s) : OutInv (execHget o s) := by
  unfold execHget
  refine conclude_memInv (gateE_memInv h (fun _ => ite_verdictInv (trapFree_memInv h) ?_))
  split
  · exact ite_verdictInv (.ok (setD_memInv h)) (unbound_memInv h)
  · exact ite_verdictInv (got_memInv (ctlRead_memInv h) (fun _ _ h₁ => .ok (setD_memInv h₁)))
      (.ok (setD_memInv h))

theorem withHandle_memInv {s o} {body : Handle → Verdict} (h : MemInv s) (hbody : ∀ x, VerdictInv (body x)) :
    VerdictInv (withHandle s o body) := by
  unfold withHandle
  extract_lets
  refine ite_verdictInv (trapFree_memInv h) (ite_verdictInv (block_memInv h) (ite_verdictInv (.ok h) ?_))
  split
  · exact unbound_memInv h
  · exact ite_verdictInv (trapFree_memInv h) (hbody _)

theorem execTld_memInv {o s} (h : MemInv s) : OutInv (execTld o s) := by
  unfold execTld
  refine conclude_memInv (withHandle_memInv h (fun _ => vgate_memInv h
    (fun _ _ _ => got_memInv (ctlRead_memInv h) (fun _ _ h₁ => ?_))))
  extract_lets
  split
  · exact accessTrap_memInv h₁
  · exact issueLoadBy_memInv h₁

theorem execTst_memInv {o s} (h : MemInv s) : OutInv (execTst o s) := by
  unfold execTst
  refine conclude_memInv (withHandle_memInv h (fun _ => storeGate_memInv h
    (fun _ _ => ite_verdictInv (trapFree_memInv h)
      (got_memInv (ctlRead_memInv h) (fun _ _ h₁ => ite_verdictInv (.ok h₁) ?_)))))
  split
  · exact accessTrap_memInv h₁
  · exact issueStoreBy_memInv h₁

theorem keptConv_memInv {s vd record begins} (h : MemInv s) : MemInv (keptConv s vd record begins) := by
  unfold keptConv
  extract_lets
  split <;> exact h

theorem relayoutUpdate_memInv {s w x target old new d ps rd} (h : MemInv s) :
    VerdictInv (relayoutUpdate s w x target old new d ps rd) := by
  unfold relayoutUpdate
  extract_lets
  split
  · split
    next e => exact accessTrap_memInv (keptConv_memInv ((remoteCas_memInv h).of_fault e))
    next s₁ e₁ =>
      have h₁ : MemInv s₁ := (remoteCas_memInv h).of_wait e₁
      exact ite_verdictInv (.wait h₁) (.wait (State.setMe_memInv h₁))
    next e => exact .ok (setD_memInv (keptConv_memInv ((remoteCas_memInv h).of_ok e)))
    next e => exact .wait (State.setMe_memInv (keptConv_memInv ((remoteCas_memInv h).of_ok e)))
  · split
    · exact accessTrap_memInv h
    · exact .ok (setD_memInv (performWrite_memInv h))

theorem execRelayout_memInv {o s} (h : MemInv s) : OutInv (execRelayout o s) := by
  unfold execRelayout
  refine conclude_memInv (gateE_memInv h (fun _ => ite_verdictInv (trapFree_memInv h) (impure_memInv h ?_)))
  split
  · exact unbound_memInv h
  · refine ite_verdictInv (trapFree_memInv h) ?_
    extract_lets
    split
    · exact .trap h
    · exact accessTrap_memInv h
    · exact accessTrap_memInv h
    · extract_lets f
      have h₁ : ∀ s x, MemInv s → VerdictInv (f s x) := by
        intro _ _ h₂
        unfold f
        extract_lets
        split
        · exact .ok (setD_memInv h₂)
        · exact relayoutUpdate_memInv h₂
      split
      · exact relayoutUpdate_memInv h
      · split
        next e => exact .wait (memInv_of_fst (releaseWait_memInv h) e)
        next s₁ e₁ =>
          have h₃ : MemInv s₁ := memInv_of_fst (releaseWait_memInv h) e₁
          split
          next e => exact .wait (memInv_of_fst (trackFetch_memInv (drainTouching_memInv h₃)) e)
          next s₂ e₂ =>
            have h₄ : MemInv s₂ := memInv_of_fst (trackFetch_memInv (drainTouching_memInv h₃)) e₂
            exact got_memInv (operand_memInv h₄) (fun _ _ h₅ => h₁ _ _ (dropArrived_memInv h₅))

theorem execRlwait_memInv {o s} (h : MemInv s) : OutInv (execRlwait o s) := by
  unfold execRlwait
  refine conclude_memInv (gateE_memInv h (fun _ => ite_verdictInv (trapFree_memInv h) ?_))
  split
  · exact unbound_memInv h
  · exact got_memInv (recordRead_memInv h) (fun _ _ h₁ => ite_verdictInv
      (block_memInv (dropArrived_memInv h₁)) (.ok (setD_memInv h₁)))

theorem setConv_memInv {s i c} (h : MemInv s) : MemInv (setConv s i c) := h

theorem convControl_memInv {s c} {f : Nat → Nat} (h : MemInv s) : MemInv (convControl s c f).1 := by
  unfold convControl
  extract_lets
  split
  next e => exact (engReadAt_memInv h).of_wait e
  next e => exact (engReadAt_memInv h).of_fault e
  next s₁ _ e₁ =>
    have h₁ : MemInv s₁ := (engReadAt_memInv h).of_ok e₁
    split
    next e => exact (engWriteAt_memInv (dropArrived_memInv h₁)).of_ok e
    · exact h

theorem execRelayoutStart_memInv {i ans s} (h : MemInv s) : OutInv (execRelayoutStart i ans s) := by
  unfold execRelayoutStart
  split
  · exact .next h
  · extract_lets s₁
    have h₁ : MemInv s₁ := by
      unfold s₁
      split
      · exact pagerMaps_memInv h
      · exact h
    refine ite_outInv (.next h) (ite_outInv ?_ (ite_outInv (State.done_memInv h₁)
      (State.done_memInv (setConv_memInv h₁))))
    split
    next s₂ e =>
      have h₂ : MemInv s₂ := memInv_of_fst (convControl_memInv h₁) e
      exact State.done_memInv h₂
    next e => exact State.done_memInv (memInv_of_fst (convControl_memInv h₁) e)

theorem convTagged_memInv {s i c} (h : MemInv s) : MemInv (convTagged s i c) := by
  unfold convTagged
  refine ite_memInv h ?_
  split
  next e => exact setConv_memInv (memInv_of_fst (convControl_memInv h) e)
  next e => exact memInv_of_fst (convControl_memInv h) e

theorem execRelayoutTileConvert_memInv {i t s} (h : MemInv s) : OutInv (execRelayoutTileConvert i t s) := by
  unfold execRelayoutTileConvert
  split
  · exact .next h
  · refine ite_outInv (.next h) (ite_outInv (State.done_memInv (convTagged_memInv h)) ?_)
    split
    · exact .next h
    · exact ite_outInv (State.done_memInv (convTagged_memInv (convertTile_memInv h)))
        (ite_outInv (.next h) (State.done_memInv (setTileBits_memInv (setConv_memInv h))))

theorem execRelayoutDrainAck_memInv {i p s} (h : MemInv s) : OutInv (execRelayoutDrainAck i p s) := by
  unfold execRelayoutDrainAck
  split
  · exact .next h
  · exact ite_outInv (.next h) (State.done_memInv (setConv_memInv h))

theorem execRelayoutFinish_memInv {i s} (h : MemInv s) : OutInv (execRelayoutFinish i s) := by
  unfold execRelayoutFinish
  split
  · exact .next h
  · refine ite_outInv (.next h) ?_
    split
    next e => exact State.done_memInv (memInv_of_fst (convControl_memInv h) e)
    next s₁ e₁ =>
      have h₁ : MemInv s₁ := memInv_of_fst (convControl_memInv h) e₁
      exact State.done_memInv (foldl_memInv (fun _ _ => setTileBits_memInv) h₁)

theorem execChash_memInv {o s} (h : MemInv s) : OutInv (execChash o s) :=
  conclude_memInv (gateE_memInv h (fun _ => ite_verdictInv (ite_verdictInv (.wait h) (.ok h))
    (ite_verdictInv (trapFree_memInv h) (got_memInv (operand_memInv h)
      (fun _ _ h₁ => ite_verdictInv (accessTrap_memInv h₁)
        (got_memInv (selfStore_memInv h₁) (fun _ _ h₂ => ite_verdictInv
          (.wait (State.setMe_memInv (drainCtx_memInv h₂))) (.ok (drainCtx_memInv h₂)))))))))

theorem execEntset_memInv {o s} (h : MemInv s) : OutInv (execEntset o s) := by
  unfold execEntset
  refine conclude_memInv (gateE_memInv h (fun _ => ?_))
  extract_lets
  split
  · exact trapFree_memInv h
  · refine ite_verdictInv (trapFree_memInv h) (atLevel_memInv h ?_)
    split
    next e => exact .wait (memInv_of_fst (releaseWait_memInv h) e)
    next s₁ e₁ =>
      have h₁ : MemInv s₁ := memInv_of_fst (releaseWait_memInv h) e₁
      exact .ok (setD_memInv (foldl_memInv (fun _ _ => State.setPier_memInv) (sysWrite_memInv h₁)))

/-! ### Issue and start of commands -/

theorem issueCmdPre_memInv {s e cmd d srcs isPure pre} {mark : State → Bytes → Word → Word → State}
    {a : Ctx → Word} {b : Ctx → Word} (h : MemInv s) (hpre : ∀ s x y, MemInv s → GotInv (pre s x y))
    (hmark : ∀ s x y z, MemInv s → MemInv (mark s x y z)) :
    OutInv (issueCmdPre s e cmd d srcs isPure pre mark a b) := by
  unfold issueCmdPre
  refine conclude_memInv (ite_verdictInv (trapFree_memInv h)
    (ite_verdictInv (block_memInv h) (ite_verdictInv (trapFree_memInv h)
      (ite_verdictInv (.wait h) (ite_verdictInv (.wait h)
        (ite_verdictInv (.wait h) (ite_verdictInv (.wait (drainCtx_memInv h)) ?_)))))))
  extract_lets
  split
  next s₁ _ e₁ =>
    have h₁ : MemInv s₁ := GotInv.of_fault e₁ (ite_gotInv (.ok (drainCtx_memInv h))
      (hpre _ _ _ (drainCtx_memInv h)))
    exact accessTrap_memInv h₁
  next s₂ e₂ =>
    have h₂ : MemInv s₂ := GotInv.of_wait e₂ (ite_gotInv (.ok (drainCtx_memInv h))
      (hpre _ _ _ (drainCtx_memInv h)))
    exact .wait h₂
  next s₃ _ e₃ =>
    have h₃ : MemInv s₃ := GotInv.of_ok e₃ (ite_gotInv (.ok (drainCtx_memInv h))
      (hpre _ _ _ (drainCtx_memInv h)))
    exact .ok (State.setMe_memInv (ite_memInv (State.setPier_memInv h₃)
      (hmark _ _ _ _ (State.setPier_memInv h₃))))

theorem issueCmd_memInv {s e cmd d srcs isPure} {mark : State → Word → Word → State} {a : Ctx → Word}
    {b : Ctx → Word} (h : MemInv s) (hmark : ∀ s x y, MemInv s → MemInv (mark s x y)) :
    OutInv (issueCmd s e cmd d srcs isPure mark a b) :=
  issueCmdPre_memInv h (fun _ _ _ h₁ => .ok h₁) (fun _ _ _ _ h₂ => hmark _ _ _ h₂)

theorem noMark_memInv {s x y} (h : MemInv s) : MemInv (noMark s x y) := h

theorem cmd3_memInv {s e cmd o isPure} (h : MemInv s) : OutInv (cmd3 s e cmd o isPure) :=
  issueCmd_memInv h (fun _ _ _ => noMark_memInv)

theorem cmd2_memInv {s e cmd o isPure} (h : MemInv s) : OutInv (cmd2 s e cmd o isPure) :=
  issueCmd_memInv h (fun _ _ _ => noMark_memInv)

theorem headOf_memInv {s p e core} (h : MemInv s) : MemInv (headOf s p e core).1 := by
  unfold headOf
  split
  · exact h
  · split
    · exact h
    · exact ite_fst_memInv h (ite_fst_memInv (setJobOn_memInv h) (endJob_memInv h))

theorem eventDone_memInv {s} (h : MemInv s) : OutInv (eventDone s) := State.done_memInv (settleDying_memInv h)

theorem jobFault_memInv {s p j f} (h : MemInv s) : MemInv (jobFault s p j f) :=
  ite_memInv (setJobOn_memInv (askReclaim_memInv h)) (endJob_memInv h)

theorem jobError_memInv {s p j cause faddr} (h : MemInv s) : MemInv (jobError s p j cause faddr) :=
  endJob_memInv h

theorem startJob_memInv {s p j} (h : MemInv s) : MemInv (startJob s p j).1 := setJobOn_memInv h

/-! ### Images -/

theorem readImgDesc_memInv {read : State → Nat → Nat → Got Bytes} {s a}
    (hread : ∀ s x y, MemInv s → GotInv (read s x y)) (hs : MemInv s) :
    GotInv (readImgDesc read s a) := by
  unfold readImgDesc
  split
  next e => exact .fault ((hread _ _ _ hs).of_fault e)
  next e => exact .wait ((hread _ _ _ hs).of_wait e)
  next s₁ _ e₁ =>
    have h₁ : MemInv s₁ := (hread _ _ _ hs).of_ok e₁
    refine ite_gotInv (.ok h₁) ?_
    split
    next e => exact .fault ((hread _ _ _ h₁).of_fault e)
    next e => exact .wait ((hread _ _ _ h₁).of_wait e)
    next e => exact .ok ((hread _ _ _ h₁).of_ok e)

theorem imgInstall_memInv {s p id sn j vlo vhi buf} (h : MemInv s) :
    MemInv (imgInstall s p id sn j vlo vhi buf) :=
  State.setPier_memInv h

theorem imgldRead_memInv {s a b} (h : MemInv s) : GotInv (imgldRead s a b) := by
  unfold imgldRead
  refine ite_gotInv (.ok h) ?_
  split
  next e => exact .fault ((readImgDesc_memInv (fun _ _ _ => operand_memInv) h).of_fault e)
  next e => exact .wait ((readImgDesc_memInv (fun _ _ _ => operand_memInv) h).of_wait e)
  next s₁ _ _ e₁ =>
    have h₁ : MemInv s₁ := (readImgDesc_memInv (fun _ _ _ => operand_memInv) h).of_ok e₁
    refine ite_gotInv (.ok h₁) ?_
    split
    next e => exact .fault ((operand_memInv h₁).of_fault e)
    next e => exact .wait ((operand_memInv h₁).of_wait e)
    next e => exact .ok ((operand_memInv h₁).of_ok e)

theorem imgldMark_memInv {s seen a b} (h : MemInv s) : MemInv (imgldMark s seen a b) := by
  unfold imgldMark
  extract_lets
  split
  · exact h
  · exact setGranules_memInv h

/-! ### COPY, ZSCAN, CGATH and CSCAT -/

theorem markGather_memInv {s x b} (h : MemInv s) : MemInv (markGather s x b) :=
  ite_memInv (setGranules_memInv h) h

theorem putRecord_memInv {s p j st cause faddr valid} (h : MemInv s) :
    GotInv (putRecord s p j st cause faddr valid) := by
  unfold putRecord
  split
  · exact .ok h
  · exact engWriteAt_memInv h

theorem tryRecord_memInv {s p j st cause faddr} (h : MemInv s) : MemInv (tryRecord s p j st cause faddr) := by
  unfold tryRecord
  split
  next e => exact (putRecord_memInv h).of_ok e
  · exact h

theorem copyPark_memInv {s p j f} (h : MemInv s) : MemInv (copyPark s p j f) :=
  setJobOn_memInv (askReclaim_memInv (tryRecord_memInv h))

theorem copyFinish_memInv {s p j} (h : MemInv s) : MemInv (copyFinish s p j) := by
  unfold copyFinish
  extract_lets
  refine ite_memInv (setJobOn_memInv h) (ite_memInv (endJob_memInv h) ?_)
  split
  next e => exact setJobOn_memInv ((putRecord_memInv h).of_wait e)
  next s₁ _ e₁ =>
    have h₁ : MemInv s₁ := (putRecord_memInv h).of_ok e₁
    exact ite_memInv (setJobOn_memInv h₁) (endJob_memInv h₁)
  next s₂ _ e₂ =>
    have h₂ : MemInv s₂ := (putRecord_memInv h).of_fault e₂
    exact ite_memInv (setJobOn_memInv (askReclaim_memInv h₂))
      (ite_memInv (endJob_memInv h₂) (endJob_memInv h₂))

theorem copyEnd_memInv {s p j err cause faddr} (h : MemInv s) : MemInv (copyEnd s p j err cause faddr) :=
  copyFinish_memInv h

theorem copyFault_memInv {s p j f} (h : MemInv s) : MemInv (copyFault s p j f) :=
  ite_memInv (copyPark_memInv h) (copyEnd_memInv h)

theorem copyBegin_memInv {s p j t slot} (h : MemInv s) : MemInv (copyBegin s p j t slot) :=
  ite_memInv (copyEnd_memInv h) (ite_memInv (copyEnd_memInv h) (setJobOn_memInv h))

theorem ringClaim_memInv {s ag jobid w ring n} (h : MemInv s) : GotInv (ringClaim s ag jobid w ring n) := by
  unfold ringClaim
  split
  · split
    · split
      · exact .fault h
      · exact .ok (dropArrived_memInv h)
    · exact .wait (ite_memInv h (sendRemote_memInv h))
  · split
    next e => exact .fault ((engWriteAt_memInv h).of_fault e)
    next e => exact .wait ((engWriteAt_memInv h).of_wait e)
    next e => exact .ok ((engWriteAt_memInv h).of_ok e)

theorem copyStart_memInv {s p j} (h : MemInv s) : MemInv (copyStart s p j) := by
  unfold copyStart
  extract_lets
  split
  next e => exact jobFault_memInv (startJob_memInv ((engReadAt_memInv h).of_fault e))
  next e => exact (engReadAt_memInv h).of_wait e
  next s₁ _ e₁ =>
    have h₁ : MemInv s₁ := (engReadAt_memInv h).of_ok e₁
    extract_lets
    refine ite_memInv (copyBegin_memInv h₁) ?_
    split
    next e => exact jobFault_memInv (startJob_memInv ((engReadAt_memInv h₁).of_fault e))
    next e => exact (engReadAt_memInv h₁).of_wait e
    next s₂ _ e₂ =>
      have h₂ : MemInv s₂ := (engReadAt_memInv h₁).of_ok e₂
      extract_lets _ _ _ p₁
      have h₃ : MemInv p₁.1 := startJob_memInv h₂
      refine ite_memInv (jobError_memInv h₃) (ite_memInv h₂ ?_)
      split
      next e => exact jobFault_memInv (startJob_memInv ((ringClaim_memInv h₂).of_fault e))
      next e => exact (ringClaim_memInv h₂).of_wait e
      next e => exact (ringClaim_memInv h₂).of_ok e
      next e => exact copyBegin_memInv ((ringClaim_memInv h₂).of_ok e)

theorem copygRows.go_memInv {ag j addr} : ∀ {fuel r s acc}, MemInv s → GotInv
  (copygRows.go ag j addr fuel r s acc)
  | 0, _, _, _, h => .ok h
  | fuel + 1, r, s, acc, h => by
    unfold copygRows.go
    split
    next s₁ _ e =>
      have h₁ : MemInv s₁ := (engReadAt_memInv h).of_fault e
      exact ite_gotInv (.fault h₁) (.ok h₁)
    next e => exact .wait ((engReadAt_memInv h).of_wait e)
    next e => exact copygRows.go_memInv ((engReadAt_memInv h).of_ok e)

theorem copygRows_memInv {s ag j first n} (h : MemInv s) : GotInv (copygRows s ag j first n) :=
  copygRows.go_memInv h

theorem runSector_memInv {s p j es} (h : MemInv s) : MemInv (runSector s p j es) := by
  unfold runSector
  extract_lets
  split
  · exact copyFault_memInv h
  · split
    next e => exact copyFault_memInv ((engRead_memInv h).of_fault e)
    next e => exact (engRead_memInv h).of_wait e
    next s₁ _ e₁ =>
      have h₁ : MemInv s₁ := (engRead_memInv h).of_ok e₁
      extract_lets
      refine ite_memInv ?_ ?_
      · split
        · exact copyFault_memInv h₁
        · split
          next e => exact copyFault_memInv ((engPut_memInv h₁).of_fault e)
          next e => exact (engPut_memInv h₁).of_wait e
          next s₂ _ e₂ =>
            have h₂ : MemInv s₂ := (engPut_memInv h₁).of_ok e₂
            exact ite_memInv (copyEnd_memInv h₂) (setJobOn_memInv h₂)
      · split
        · exact copyFault_memInv h₁
        · split
          next e => exact copyFault_memInv ((engWrite_memInv h₁).of_fault e)
          next e => exact (engWrite_memInv h₁).of_wait e
          next s₃ _ e₃ =>
            have h₃ : MemInv s₃ := (engWrite_memInv h₁).of_ok e₃
            exact ite_memInv (copyEnd_memInv h₃) (setJobOn_memInv h₃)

theorem copyStep_memInv {s p j} (h : MemInv s) : MemInv (copyStep s p j) := by
  unfold copyStep
  refine ite_memInv (copyFinish_memInv h) (ite_memInv h (ite_memInv (runSector_memInv h) ?_))
  extract_lets
  split
  next e => exact copyFault_memInv ((copygRows_memInv h).of_fault e)
  next e => exact (copygRows_memInv h).of_wait e
  next e => exact runSector_memInv ((copygRows_memInv h).of_ok e)

theorem zscanHome_memInv {s x bs y} (h : MemInv s) : MemInv (zscanHome s x bs y) := by
  unfold zscanHome
  split
  · exact bumpHeader_memInv (h.withMem (wf_memWrite _ _ h.mem))
  · exact ite_memInv (h.withMem (wf_memWrite _ _ h.mem)) h

theorem zscanStep_memInv {s p j} (h : MemInv s) : MemInv (zscanStep s p j) := by
  unfold zscanStep
  extract_lets _ _ _ _ _ s₁
  have h₁ : MemInv s₁ := setJobOn_memInv h
  split
  · exact jobFault_memInv h
  · split
    · split
      · exact State.emit_memInv h₁
      · exact h
      · exact jobFault_memInv h
      · exact ite_memInv (endJob_memInv h) (setJobOn_memInv h)
    · split
      next e => exact memInv_of_fst (trackFetch_memInv h) e
      next s₂ e₁ =>
        have h₂ : MemInv s₂ := memInv_of_fst (trackFetch_memInv h) e₁
        split
        · exact jobFault_memInv h₂
        · refine ite_memInv (ite_memInv (endJob_memInv (zscanHome_memInv h₂))
            (setJobOn_memInv (zscanHome_memInv h₂))) ?_
          split
          next e => exact jobFault_memInv ((engRead_memInv h₂).of_fault e)
          next e => exact (engRead_memInv h₂).of_wait e
          next s₃ _ e₂ =>
            have h₃ : MemInv s₃ := (engRead_memInv h₂).of_ok e₂
            exact ite_memInv (endJob_memInv (zscanHome_memInv h₃)) (setJobOn_memInv (zscanHome_memInv h₃))

theorem zscanStart_memInv {s p j} (h : MemInv s) : MemInv (zscanStart s p j) :=
  ite_memInv (jobError_memInv (startJob_memInv h)) (startJob_memInv h)

theorem jobErrorFree_memInv {s p j cause} (h : MemInv s) : MemInv (jobErrorFree s p j cause) :=
  endJob_memInv (State.takeFree_memInv h)

theorem indexBase_memInv {s ag w va} (h : MemInv s) : GotInv (indexBase s ag w va) := by
  unfold indexBase
  extract_lets
  split
  next e => exact .fault ((engReadAt_memInv h).of_fault e)
  next e => exact .wait ((engReadAt_memInv h).of_wait e)
  next s₁ _ e₁ =>
    have h₁ : MemInv s₁ := (engReadAt_memInv h).of_ok e₁
    split
    next e => exact .fault ((engReadAt_memInv h₁).of_fault e)
    next e => exact .wait ((engReadAt_memInv h₁).of_wait e)
    next e => exact .ok ((engReadAt_memInv h₁).of_ok e)

theorem rowsStart_memInv {s p j o16 n} (h : MemInv s) : MemInv (rowsStart s p j o16 n) := by
  unfold rowsStart
  extract_lets p₁
  have h₁ : MemInv p₁.1 := ite_fst_memInv h (startJob_memInv h)
  refine ite_memInv (jobErrorFree_memInv h₁) ?_
  split
  · exact jobFault_memInv h₁
  · split
    next e => exact jobFault_memInv ((engReadAt_memInv h₁).of_fault e)
    next e => exact (engReadAt_memInv h₁).of_wait e
    next s₁ _ e₁ =>
      have h₂ : MemInv s₁ := (engReadAt_memInv h₁).of_ok e₁
      split
      next e => exact jobFault_memInv ((indexBase_memInv h₂).of_fault e)
      next e => exact (indexBase_memInv h₂).of_wait e
      next e => exact setJobOn_memInv ((indexBase_memInv h₂).of_ok e)

theorem imgldStart_memInv {s p j} (h : MemInv s) : MemInv (imgldStart s p j) := by
  unfold imgldStart
  extract_lets p₁
  have h₁ : MemInv p₁.1 := startJob_memInv h
  split
  · exact jobErrorFree_memInv h₁
  · exact setJobOn_memInv h₁

theorem copyUnitStart_memInv {s p j} (h : MemInv s) : MemInv (copyUnitStart s p j) := by
  unfold copyUnitStart
  extract_lets
  split
  · exact copyStart_memInv h
  · exact copyStart_memInv h
  · exact zscanStart_memInv h
  · exact zscanStart_memInv h
  · exact rowsStart_memInv h
  · exact rowsStart_memInv h
  · exact imgldStart_memInv h
  · exact h

theorem execCopyJobStart_memInv {p core s} (h : MemInv s) : OutInv (execCopyJobStart p core s) := by
  unfold execCopyJobStart
  split
  · exact ite_outInv (eventDone_memInv (copyUnitStart_memInv h)) (.next h)
  · split
    next e => exact eventDone_memInv (copyUnitStart_memInv (memInv_of_fst (headOf_memInv h) e))
    next e => exact eventDone_memInv (memInv_of_fst (headOf_memInv h) e)

theorem execRingClaimRetry_memInv {p core s} (h : MemInv s) : OutInv (execRingClaimRetry p core s) := by
  unfold execRingClaimRetry
  split
  next s₁ _ _ e =>
    have h₁ : MemInv s₁ := memInv_of_fst (headOf_memInv h) e
    exact ite_outInv (eventDone_memInv (copyStart_memInv h₁)) (.next h₁)
  · exact .next h

theorem grantRow_memInv {s p core} (h : MemInv s) : OptInv id (grantRow s p core) := by
  unfold grantRow
  split
  · exact ite_optInv (.some (State.setPier_memInv h)) .none
  · exact .none

theorem execCopySector_memInv {p s} (h : MemInv s) : OutInv (execCopySector p s) := by
  unfold execCopySector
  split
  · exact .next h
  · split
    · exact .next h
    · exact ite_outInv (eventDone_memInv (copyStep_memInv (State.setPier_memInv h))) (.next h)

theorem imgldStep_memInv {s p j} (h : MemInv s) : MemInv (imgldStep s p j) := by
  unfold imgldStep
  extract_lets
  split
  · extract_lets
    split
    next e => exact jobFault_memInv ((engReadAt_memInv h).of_fault e)
    next e => exact (engReadAt_memInv h).of_wait e
    next s₁ _ e₁ =>
      have h₁ : MemInv s₁ := (engReadAt_memInv h).of_ok e₁
      extract_lets
      refine ite_memInv (ite_memInv (endJob_memInv (setGranules_memInv h₁))
        (setJobOn_memInv (setGranules_memInv h₁))) ?_
      split
      next e => exact jobFault_memInv ((engReadAt_memInv h₁).of_fault e)
      next e => exact (engReadAt_memInv h₁).of_wait e
      next s₂ _ e₂ =>
        have h₂ : MemInv s₂ := (engReadAt_memInv h₁).of_ok e₂
        split
        next e => exact jobFault_memInv ((engWriteAt_memInv h₂).of_fault e)
        next e => exact (engWriteAt_memInv h₂).of_wait e
        next s₃ _ e₃ =>
          have h₃ : MemInv s₃ := (engWriteAt_memInv h₂).of_ok e₃
          exact ite_memInv (endJob_memInv (imgInstall_memInv h₃)) (setJobOn_memInv (imgInstall_memInv h₃))
  · exact h

theorem execImgldRequest_memInv {p s} (h : MemInv s) : OutInv (execImgldRequest p s) := by
  unfold execImgldRequest
  split
  · exact .next h
  · split
    · exact .next h
    · exact ite_outInv (eventDone_memInv (imgldStep_memInv (State.setPier_memInv h))) (.next h)

theorem execCopyResume_memInv {p id s} (h : MemInv s) : OutInv (execCopyResume p id s) := by
  unfold execCopyResume
  split
  · exact .next h
  · exact ite_outInv (eventDone_memInv (setJobOn_memInv (ite_memInv (tryRecord_memInv h) h))) (.next h)

theorem execZscanTile_memInv {p core s} (h : MemInv s) : OutInv (execZscanTile p core s) := by
  unfold execZscanTile
  split
  · exact .next h
  · exact ite_outInv (eventDone_memInv (zscanStep_memInv h)) (.next h)

theorem rowsDone_memInv {s p j} (h : MemInv s) : MemInv (rowsDone s p j) :=
  ite_memInv (endJob_memInv h) (setJobOn_memInv h)

theorem execCgathRowArrive_memInv {p core row s} (h : MemInv s) :
    OutInv (execCgathRowArrive p core row s) := by
  unfold execCgathRowArrive
  split
  · exact .next h
  · split
    · refine ite_outInv (.next h) ?_
      split
      · exact .next h
      next s₁ e₁ =>
        have h₁ : MemInv s₁ := (grantRow_memInv h).of_some e₁
        extract_lets
        split
        next e => exact eventDone_memInv (jobFault_memInv ((engReadAt_memInv h₁).of_fault e))
        next e => exact State.done_memInv ((engReadAt_memInv h₁).of_wait e)
        next s₂ _ e₂ =>
          have h₂ : MemInv s₂ := (engReadAt_memInv h₁).of_ok e₂
          split
          next e => exact eventDone_memInv (jobFault_memInv ((engWriteAt_memInv h₂).of_fault e))
          next e => exact State.done_memInv ((engWriteAt_memInv h₂).of_wait e)
          next e => exact eventDone_memInv (rowsDone_memInv ((engWriteAt_memInv h₂).of_ok e))
    · exact .next h

theorem freeBytes_memInv {s n} (h : MemInv s) : MemInv (freeBytes s n).1 := h

theorem scatterSlow_memInv {s p j row y} (h : MemInv s) : MemInv (scatterSlow s p j row y) :=
  setJobOn_memInv h

theorem scatterElem_memInv {s p j row a n} {add : Nat → Bytes → Bytes} (h : MemInv s) :
    OutInv (scatterElem s p j row a n add) := by
  unfold scatterElem
  extract_lets
  refine ite_outInv (eventDone_memInv (ite_memInv (rowsDone_memInv h) (setJobOn_memInv h))) ?_
  split
  · exact eventDone_memInv (jobFault_memInv h)
  · split
    · refine ite_outInv (eventDone_memInv (jobFault_memInv h)) ?_
      extract_lets s₁
      have h₁ : MemInv s₁ := dropLines_memInv h
      split
      next e => exact eventDone_memInv (jobFault_memInv ((remoteCas_memInv h₁).of_fault e))
      next e => exact State.done_memInv ((remoteCas_memInv h₁).of_wait e)
      next s₂ e₁ =>
        have h₂ : MemInv s₂ := (remoteCas_memInv h₁).of_ok e₁
        exact eventDone_memInv (ite_memInv (rowsDone_memInv h₂) (setJobOn_memInv h₂))
      next e => exact eventDone_memInv (setJobOn_memInv ((remoteCas_memInv h₁).of_ok e))
    · split
      next e => exact eventDone_memInv (jobFault_memInv ((engRead_memInv h).of_fault e))
      next e => exact State.done_memInv ((engRead_memInv h).of_wait e)
      next s₃ _ e₂ =>
        have h₃ : MemInv s₃ := (engRead_memInv h).of_ok e₂
        extract_lets
        split
        next e => exact eventDone_memInv (jobFault_memInv ((engWrite_memInv h₃).of_fault e))
        next e => exact State.done_memInv ((engWrite_memInv h₃).of_wait e)
        next s₄ _ e₃ =>
          have h₄ : MemInv s₄ := (engWrite_memInv h₃).of_ok e₃
          exact eventDone_memInv (ite_memInv (rowsDone_memInv h₄) (setJobOn_memInv h₄))

theorem execCscatRowApply_memInv {p core row s} (h : MemInv s) : OutInv (execCscatRowApply p core row s) := by
  unfold execCscatRowApply
  split
  · exact .next h
  · split
    · extract_lets r slow sum ag a put
      have hput : ∀ s bs, MemInv s → OutInv (put s bs) := by
        intro s bs h
        unfold put
        split
        next e => exact eventDone_memInv (jobFault_memInv ((engWriteAt_memInv h).of_fault e))
        next e => exact State.done_memInv ((engWriteAt_memInv h).of_wait e)
        next e => exact eventDone_memInv (rowsDone_memInv ((engWriteAt_memInv h).of_ok e))
      refine ite_outInv (.next h) (ite_outInv (eventDone_memInv (rowsDone_memInv h))
        (ite_outInv (.next h) (ite_outInv (.next h) ?_)))
      split
      · exact .next h
      next s₁ e₁ =>
        have h₁ : MemInv s₁ := OptInv.of_some (f := id) e₁ (ite_optInv (.some h) (grantRow_memInv h))
        split
        next e => exact eventDone_memInv (jobFault_memInv ((engReadAt_memInv h₁).of_fault e))
        next e => exact State.done_memInv ((engReadAt_memInv h₁).of_wait e)
        next s₂ _ e₂ =>
          have h₂ : MemInv s₂ := (engReadAt_memInv h₁).of_ok e₂
          split
          next e => exact eventDone_memInv (jobFault_memInv
            (GotInv.of_fault e (ite_gotInv (engReadAt_memInv h₂) (.ok h₂))))
          next e => exact State.done_memInv (GotInv.of_wait e (ite_gotInv (engReadAt_memInv h₂) (.ok h₂)))
          next s₃ _ e₃ =>
            have h₃ : MemInv s₃ := GotInv.of_ok e₃ (ite_gotInv (engReadAt_memInv h₂) (.ok h₂))
            extract_lets
            split
            · exact ite_outInv (hput _ _ (freeBytes_memInv h₃)) (hput _ _ h₃)
            · refine ite_outInv (scatterElem_memInv h₃) ?_
              split
              next e => exact eventDone_memInv (jobFault_memInv ((engReadAt_memInv h₃).of_fault e))
              next e => exact State.done_memInv ((engReadAt_memInv h₃).of_wait e)
              next s₄ _ e₄ =>
                have h₄ : MemInv s₄ := (engReadAt_memInv h₃).of_ok e₄
                exact ite_outInv (eventDone_memInv (scatterSlow_memInv h₄)) (hput _ _ h₄)
    · exact .next h

/-! ### The matrix engine -/

theorem trussWrite_memInv {s p off bs} (h : MemInv s) : MemInv (trussWrite s p off bs) :=
  h.withTruss (wf_memWrite _ _ h.truss)

theorem setAccRow_memInv {s p t r bs} (h : MemInv s) : MemInv (setAccRow s p t r bs) :=
  h.withAcc (wf_memWrite _ _ h.acc)

theorem setMark_memInv {s p t w} (h : MemInv s) : MemInv (setMark s p t w) := State.setPier_memInv h

theorem setSlot_memInv {s p n x} (h : MemInv s) : MemInv (setSlot s p n x) := State.setPier_memInv h

theorem unloadSlot_memInv {s p n} (h : MemInv s) : MemInv (unloadSlot s p n) := setSlot_memInv h

theorem bankError_memInv {s p j w} (h : MemInv s) : MemInv (bankError s p j w) :=
  jobError_memInv (countUncorr_memInv h)

theorem settleHeads_memInv {s p e} (h : MemInv s) : MemInv (settleHeads s p e) :=
  foldl_memInv (fun _ _ => headOf_memInv) h

theorem tryWmark_memInv {s p j} (h : MemInv s) : MemInv (tryWmark s p j) :=
  ite_memInv (jobErrorFree_memInv h) (ite_memInv (ite_memInv h (setJobOn_memInv h))
    (endJob_memInv (deliverReg_memInv h)))

theorem tryTrfree_memInv {s p j} (h : MemInv s) : MemInv (tryTrfree s p j) :=
  ite_memInv (jobErrorFree_memInv h) (endJob_memInv (foldl_memInv (fun _ _ => unloadSlot_memInv) h))

theorem settleMatrix_memInv {s p} (h : MemInv s) : MemInv (settleMatrix s p) := by
  unfold settleMatrix
  refine foldl_memInv (fun _ _ h₁ => ?_) h
  split
  · exact ite_memInv (tryWmark_memInv h₁) h₁
  · exact ite_memInv (tryTrfree_memInv h₁) h₁
  · exact h₁

theorem execMatrixAccept_memInv {p s} (h : MemInv s) : OutInv (execMatrixAccept p s) := by
  unfold execMatrixAccept
  extract_lets s₁
  have h₁ : MemInv s₁ := settleHeads_memInv h
  split
  · exact eventDone_memInv (settleMatrix_memInv h₁)
  · exact eventDone_memInv (settleMatrix_memInv (setJobOn_memInv h₁))

theorem matrixDone_memInv {s p} (h : MemInv s) : OutInv (matrixDone s p) :=
  eventDone_memInv (settleMatrix_memInv h)

theorem mmaBlock_memInv {s p j trim ow} (h : MemInv s) : MemInv (mmaBlock s p j trim ow) := by
  unfold mmaBlock
  extract_lets
  split
  · exact jobErrorFree_memInv h
  · extract_lets _ _ _ _ v s₁
    have h₁ : MemInv s₁ := ite_memInv (foldl_memInv (fun _ _ => setMark_memInv) h) h
    clear_value v
    split
    · exact bankError_memInv (ite_memInv (foldl_memInv (fun _ _ => setMark_memInv) h) h)
    · split
      next e => exact (engRead_memInv h₁).of_wait e
      next s₂ _ e₁ =>
        have h₂ : MemInv s₂ := (engRead_memInv h₁).of_fault e₁
        exact jobError_memInv (foldl_memInv (fun _ _ => setMark_memInv) h₂)
      next e => exact setJobOn_memInv (State.countEvent_memInv ((engRead_memInv h₁).of_ok e))

theorem execMmaRowComplete_memInv {p s} (h : MemInv s) : OutInv (execMmaRowComplete p s) := by
  unfold execMmaRowComplete
  split
  · exact matrixDone_memInv h
  · extract_lets _ _ _ s₁
    have h₁ : MemInv s₁ := foldl_memInv (fun _ _ h₂ => ite_memInv (setMark_memInv (setAccRow_memInv h₂))
      (setAccRow_memInv h₂)) h
    exact ite_outInv (matrixDone_memInv (endJob_memInv (foldl_memInv (fun _ _ => setMark_memInv) h₁)))
      (matrixDone_memInv (setJobOn_memInv h₁))

theorem matClose_memInv {s p j} (h : MemInv s) : MemInv (matClose s p j) := by
  unfold matClose
  refine ite_memInv h ?_
  split
  · exact foldl_memInv (fun _ _ => unloadSlot_memInv) h
  · exact setMark_memInv h
  · exact h

theorem matFault_memInv {s p j f} (h : MemInv s) : MemInv (matFault s p j f) :=
  ite_memInv (setJobOn_memInv (askReclaim_memInv h)) (jobFault_memInv (matClose_memInv h))

theorem matPassOn_memInv {s p j cause va} (h : MemInv s) : MemInv (matPassOn s p j cause va) :=
  settleMatrix_memInv (jobError_memInv (matClose_memInv h))

theorem trldFault_memInv {s p j f} (h : MemInv s) : MemInv (trldFault s p j f) := matFault_memInv h

theorem trldStep_memInv {s p j} (h : MemInv s) : MemInv (trldStep s p j) := by
  unfold trldStep
  extract_lets _ _ _ _ _ _ _ _ _ f
  have h₁ : ∀ s x, MemInv s → MemInv (f s x) := by
    intro _ _ h₂
    exact ite_memInv (endJob_memInv (foldl_memInv (fun _ _ => setSlot_memInv) (trussWrite_memInv h₂)))
      (setJobOn_memInv (trussWrite_memInv h₂))
  refine ite_memInv (jobErrorFree_memInv h) (ite_memInv (h₁ _ _ h) ?_)
  split
  · exact trldFault_memInv h
  · split
    next e => exact setJobOn_memInv ((engRead_memInv h).of_wait e)
    next e => exact trldFault_memInv ((engRead_memInv h).of_fault e)
    next e => exact h₁ _ _ ((engRead_memInv h).of_ok e)

theorem portStep_memInv {s p j} (h : MemInv s) : MemInv (portStep s p j) := by
  unfold portStep
  extract_lets _ _ _ s₁
  have h₁ : MemInv s₁ := ite_memInv (setMark_memInv h) h
  split
  · exact jobErrorFree_memInv h
  · refine ite_memInv (endJob_memInv h) ?_
    split
    · split
      next e => exact matFault_memInv ((engReadAt_memInv h₁).of_fault e)
      next e => exact setJobOn_memInv ((engReadAt_memInv h₁).of_wait e)
      next s₂ _ e₁ =>
        have h₂ : MemInv s₂ := (engReadAt_memInv h₁).of_ok e₁
        extract_lets s₃ s₄ s₅
        have h₃ : MemInv s₃ := setAccRow_memInv h₂
        have h₄ : MemInv s₄ := ite_memInv (setMark_memInv h₃) h₃
        have h₅ : MemInv s₅ := ite_memInv (setMark_memInv h₄) h₄
        exact ite_memInv (endJob_memInv h₅) (setJobOn_memInv h₅)
    · refine ite_memInv (setJobOn_memInv h₁) ?_
      split
      · exact bankError_memInv h₁
      · split
        next e => exact matFault_memInv ((engWriteAt_memInv h₁).of_fault e)
        next e => exact setJobOn_memInv ((engWriteAt_memInv h₁).of_wait e)
        next s₆ _ e₂ =>
          have h₆ : MemInv s₆ := (engWriteAt_memInv h₁).of_ok e₂
          exact ite_memInv (endJob_memInv h₆) (setJobOn_memInv h₆)

theorem execAccPortRow_memInv {p s} (h : MemInv s) : OutInv (execAccPortRow p s) := by
  unfold execAccPortRow
  split
  · exact .next h
  · split
    · exact .next h
    · exact ite_outInv (.next h) (matrixDone_memInv (portStep_memInv (State.setPier_memInv h)))

theorem execAczTile_memInv {p s} (h : MemInv s) : OutInv (execAczTile p s) := by
  unfold execAczTile
  split
  · exact .next h
  · split
    · exact .next h
    · refine ite_outInv (.next h) (ite_outInv (matrixDone_memInv
        (jobErrorFree_memInv (State.setPier_memInv h))) ?_)
      extract_lets
      split
      · exact matrixDone_memInv (endJob_memInv (State.setPier_memInv h))
      · exact matrixDone_memInv (ite_memInv (endJob_memInv
          (setMark_memInv (h.withAcc (wf_memClear _ _ h.acc))))
            (setJobOn_memInv (setMark_memInv (h.withAcc (wf_memClear _ _ h.acc)))))

/-! ### The span engine -/

theorem setDslot_memInv {s p n x} (h : MemInv s) : MemInv (setDslot s p n x) := State.setPier_memInv h

theorem putAtom_memInv {s p slot row j bs} (h : MemInv s) : MemInv (putAtom s p slot row j bs) :=
  trussWrite_memInv h

theorem putAtoms_memInv {s p slot row n xs} (h : MemInv s) : MemInv (putAtoms s p slot row n xs) :=
  foldl_memInv (fun _ _ => putAtom_memInv) h

theorem refuse_memInv {s p j c} (h : MemInv s) : MemInv (refuse s p j c) := jobErrorFree_memInv h

theorem spanFault_memInv {s p j f} (h : MemInv s) : MemInv (spanFault s p j f) := jobFault_memInv h

theorem dinstGo_memInv {s p j} (h : MemInv s) : MemInv (dinstGo s p j) := by
  unfold dinstGo
  extract_lets
  refine ite_memInv (refuse_memInv h) (ite_memInv (refuse_memInv h) ?_)
  split
  next e => exact spanFault_memInv ((engReadAt_memInv h).of_fault e)
  next e => exact (engReadAt_memInv h).of_wait e
  next s₁ _ e₁ =>
    have h₁ : MemInv s₁ := (engReadAt_memInv h).of_ok e₁
    extract_lets
    refine ite_memInv (refuse_memInv h₁) (ite_memInv (endJob_memInv (setDslot_memInv h₁))
      (ite_memInv (refuse_memInv h₁) (ite_memInv (refuse_memInv h₁) ?_)))
    split
    next e => exact spanFault_memInv ((engReadAt_memInv h₁).of_fault e)
    next e => exact (engReadAt_memInv h₁).of_wait e
    next s₂ _ e₂ =>
      have h₂ : MemInv s₂ := (engReadAt_memInv h₁).of_ok e₂
      split
      · exact jobError_memInv h₂
      · exact setJobOn_memInv (setDslot_memInv h₂)

theorem datomGo.go_memInv {p b slot n x ag} : ∀ {fuel s j}, MemInv s → MemInv
  (datomGo.go p b slot n x ag fuel s j)
  | 0, _, _, h => h
  | fuel + 1, s, j, h => by
    unfold datomGo.go
    split
    · refine ite_memInv (refuse_memInv h) (ite_memInv (refuse_memInv h) (ite_memInv (refuse_memInv h) ?_))
      split
      next e => exact spanFault_memInv ((engReadAt_memInv h).of_fault e)
      next e => exact (engReadAt_memInv h).of_wait e
      next s₁ _ e =>
        have h₁ : MemInv s₁ := (engReadAt_memInv h).of_ok e
        exact ite_memInv (jobError_memInv h₁)
          (datomGo.go_memInv (setJobOn_memInv (setDslot_memInv (putAtoms_memInv h₁))))
    · split
      next e => exact spanFault_memInv ((engWriteAt_memInv h).of_fault e)
      next e => exact (engWriteAt_memInv h).of_wait e
      next e => exact datomGo.go_memInv (setJobOn_memInv ((engWriteAt_memInv h).of_ok e))
    · split
      next e => exact spanFault_memInv ((engWriteAt_memInv h).of_fault e)
      next e => exact (engWriteAt_memInv h).of_wait e
      next e => exact datomGo.go_memInv (setJobOn_memInv ((engWriteAt_memInv h).of_ok e))
    · exact ite_memInv h (endJob_memInv h)

theorem dinstGroup_memInv {s p j} (h : MemInv s) : MemInv (dinstGroup s p j) :=
  ite_memInv (endJob_memInv (setDslot_memInv (putAtoms_memInv h))) (setJobOn_memInv (putAtoms_memInv h))

theorem datomGo_memInv {s p j} (h : MemInv s) : MemInv (datomGo s p j) := datomGo.go_memInv h

theorem mapStream_memInv {s core id} {f : List (BitVec 32) × Bool × Bool → List (BitVec 32) × Bool × Bool}
    (h : MemInv s) :
    MemInv (mapStream s core id f) :=
  State.setCore_memInv h

theorem streamEnd_memInv {s p j err} (h : MemInv s) : MemInv (streamEnd s p j err) :=
  ite_memInv (mapStream_memInv h) (endJob_memInv (mapStream_memInv h))

theorem streamPush_memInv {s p j} (h : MemInv s) : MemInv (streamPush s p j) :=
  ite_memInv (streamEnd_memInv (mapStream_memInv h)) (setJobOn_memInv (mapStream_memInv h))

theorem streamRoom_memInv {s core} (h : MemInv s) : MemInv (streamRoom s core) := by
  unfold streamRoom
  extract_lets
  split
  · exact streamPush_memInv h
  · exact h

theorem encFail_memInv {s p j} {end_ : State → State} (h : MemInv s) (hend_ : ∀ s, MemInv s → MemInv (end_ s))
    :
    MemInv (encFail s p j end_) :=
  hend_ _ (ite_memInv h (streamEnd_memInv h))

theorem encEmitMem_memInv {s p j ws} (h : MemInv s) : ExceptInv Prod.fst (encEmitMem s p j ws) := by
  unfold encEmitMem
  extract_lets
  split
  · exact .ok h
  · split
    · exact .error
    · split
      · exact .error
      next e => exact .ok ((engWriteAt_memInv h).of_wait e)
      next e => exact .ok ((engWriteAt_memInv h).of_ok e)

theorem encEndMem_memInv {s p j} (h : MemInv s) : MemInv (encEndMem s p j) := by
  unfold encEndMem
  extract_lets
  refine ite_memInv (jobError_memInv h) ?_
  split
  next e => exact jobError_memInv ((engWriteAt_memInv h).of_fault e)
  next e => exact (engWriteAt_memInv h).of_wait e
  next e => exact endJob_memInv ((engWriteAt_memInv h).of_ok e)

theorem encEmit_memInv {s p j ws} (h : MemInv s) : MemInv (encEmit s p j ws) := by
  unfold encEmit
  refine ite_memInv (streamPush_memInv h) ?_
  split
  · exact jobError_memInv h
  next s₁ _ e =>
    have h₁ : MemInv s₁ := (encEmitMem_memInv h).of_ok e
    exact ite_memInv (encEndMem_memInv h₁) (setJobOn_memInv h₁)

theorem encStart_memInv {s p j} (h : MemInv s) : MemInv (encStart s p j) := by
  unfold encStart
  extract_lets _ _ _ _ _ s₁
  have h₁ : MemInv s₁ := ite_memInv h (State.setCore_memInv h)
  exact ite_memInv (encFail_memInv h₁ (fun _ => refuse_memInv))
    (ite_memInv (encFail_memInv h₁ (fun _ => refuse_memInv)) (encEmit_memInv h₁))

theorem encStep_memInv {s p j} (h : MemInv s) : MemInv (encStep s p j) := by
  unfold encStep
  extract_lets
  refine ite_memInv (encFail_memInv h (fun _ => jobError_memInv)) ?_
  split
  next e => exact encFail_memInv ((engReadAt_memInv h).of_fault e) (fun _ => jobError_memInv)
  next e => exact (engReadAt_memInv h).of_wait e
  next s₁ _ e₁ =>
    have h₁ : MemInv s₁ := (engReadAt_memInv h).of_ok e₁
    split
    · exact encFail_memInv (countUncorr_memInv h₁) (fun _ => jobError_memInv)
    · exact encEmit_memInv (State.countEvent_memInv (State.countEvent_memInv h₁))

theorem readSpans_memInv {ag w atoms} : ∀ {k a s acc}, MemInv s → GotInv (readSpans ag w atoms k a s acc)
  | 0, _, _, _, h => .ok h
  | k + 1, a, s, acc, h => by
    unfold readSpans
    split
    next e => exact .fault ((engReadAt_memInv h).of_fault e)
    next e => exact .wait ((engReadAt_memInv h).of_wait e)
    next s₁ _ e =>
      have h₁ : MemInv s₁ := (engReadAt_memInv h).of_ok e
      extract_lets
      split
      · exact .ok h₁
      · exact readSpans_memInv h₁
      · split
        next e₂ => exact .fault ((engReadAt_memInv h₁).of_fault e₂)
        next e₂ => exact .wait ((engReadAt_memInv h₁).of_wait e₂)
        next s₂ _ e₂ =>
          have h₂ : MemInv s₂ := (engReadAt_memInv h₁).of_ok e₂
          exact ite_gotInv (readSpans_memInv h₂) (.ok h₂)

theorem readHead_memInv {s ag w a} (h : MemInv s) : GotInv (readHead s ag w a) := by
  unfold readHead
  split
  next e => exact .fault ((engReadAt_memInv h).of_fault e)
  next e => exact .wait ((engReadAt_memInv h).of_wait e)
  next e => exact .ok ((engReadAt_memInv h).of_ok e)

theorem decStart_memInv {s p j} (h : MemInv s) : MemInv (decStart s p j) := by
  unfold decStart
  extract_lets
  refine ite_memInv (refuse_memInv h) (ite_memInv (refuse_memInv h) ?_)
  split
  next e => exact spanFault_memInv ((readHead_memInv h).of_fault e)
  next e => exact (readHead_memInv h).of_wait e
  next s₁ _ e₁ =>
    have h₁ : MemInv s₁ := (readHead_memInv h).of_ok e₁
    extract_lets
    refine ite_memInv (refuse_memInv h₁) ?_
    split
    next e => exact spanFault_memInv ((readSpans_memInv h₁).of_fault e)
    next e => exact (readSpans_memInv h₁).of_wait e
    next e => exact refuse_memInv ((readSpans_memInv h₁).of_ok e)
    next s₂ _ e₂ =>
      have h₂ : MemInv s₂ := (readSpans_memInv h₁).of_ok e₂
      exact ite_memInv (endJob_memInv h₂) (setJobOn_memInv h₂)

theorem decStep_memInv {s p j} (h : MemInv s) : MemInv (decStep s p j) := by
  unfold decStep
  extract_lets
  refine ite_memInv (jobError_memInv h) ?_
  split
  · exact bankError_memInv h
  · split
    next e => exact spanFault_memInv ((engWriteAt_memInv h).of_fault e)
    next e => exact (engWriteAt_memInv h).of_wait e
    next s₁ _ e₁ =>
      have h₁ : MemInv s₁ := (engWriteAt_memInv h).of_ok e₁
      exact ite_memInv (endJob_memInv h₁) (setJobOn_memInv h₁)

theorem acciPark_memInv {s p j} (h : MemInv s) : MemInv (acciPark s p j) := setJobOn_memInv h

theorem releaseParked_memInv {s p id newest} (h : MemInv s) : MemInv (releaseParked s p id newest) :=
  State.setPier_memInv h

theorem annEnd_memInv {s a err} (h : MemInv s) : MemInv (annEnd s a err) := by
  unfold annEnd
  split
  · exact h
  · split
    · exact h
    · exact ite_memInv (jobErrorFree_memInv h) (endJob_memInv h)

theorem annApply_memInv {s p a} (h : MemInv s) : MemInv (annApply s p a).1 := by
  unfold annApply
  extract_lets
  split
  · exact ite_fst_memInv (annEnd_memInv h) (annEnd_memInv (releaseParked_memInv (State.setPier_memInv h)))
  · exact ite_fst_memInv (annEnd_memInv h) (ite_fst_memInv
      (ite_fst_memInv h (annEnd_memInv (State.setPier_memInv h)))
        (annEnd_memInv (releaseParked_memInv (State.setPier_memInv h))))

theorem annRetry_memInv {s p} (h : MemInv s) : MemInv (annRetry s p) := by
  unfold annRetry
  refine foldl_memInv (fun _ _ h₁ => ?_) h
  extract_lets
  split
  next e => exact memInv_of_fst (annApply_memInv (State.setPier_memInv h₁)) e
  next e => exact State.setPier_memInv (memInv_of_fst (annApply_memInv (State.setPier_memInv h₁)) e)

theorem acciLost_memInv {s p j c} (h : MemInv s) : MemInv (acciLost s p j c) :=
  ite_memInv (endJob_memInv (raiseNotice_memInv h)) (jobError_memInv h)

theorem acciClose_memInv {s p j} (h : MemInv s) : MemInv (acciClose s p j) := by
  unfold acciClose
  extract_lets
  refine ite_memInv (endJob_memInv h) (ite_memInv (ite_memInv (setJobOn_memInv h) (endJob_memInv h)) ?_)
  split
  next e => exact setJobOn_memInv ((engWriteAt_memInv h).of_wait e)
  next s₁ _ e₁ =>
    have h₁ : MemInv s₁ := (engWriteAt_memInv h).of_ok e₁
    exact ite_memInv (setJobOn_memInv h₁) (endJob_memInv h₁)
  next s₂ _ e₂ =>
    have h₂ : MemInv s₂ := (engWriteAt_memInv h).of_fault e₂
    exact ite_memInv (setJobOn_memInv (askReclaim_memInv h₂)) (acciLost_memInv h₂)

theorem acciFail_memInv {s p j c faddr} (h : MemInv s) : MemInv (acciFail s p j c faddr) :=
  acciClose_memInv (ite_memInv (setGranules_memInv h) h)

theorem acciRefuse_memInv {s p j c} (h : MemInv s) : MemInv (acciRefuse s p j c) :=
  acciFail_memInv (State.takeFree_memInv h)

theorem acciFault_memInv {s p j f} (h : MemInv s) : MemInv (acciFault s p j f) :=
  ite_memInv (jobFault_memInv h) (acciFail_memInv h)

theorem acciGo_memInv {s p j} (h : MemInv s) : MemInv (acciGo s p j) := by
  unfold acciGo
  extract_lets ag w read
  have hread : ∀ s a n, MemInv s → GotInv (read s a n) := fun _ _ _ h => engReadAt_memInv h
  refine ite_memInv (acciRefuse_memInv h) ?_
  split
  next e => exact acciFault_memInv ((hread _ _ _ h).of_fault e)
  next e => exact (hread _ _ _ h).of_wait e
  next s₁ _ e₁ =>
    have h₁ : MemInv s₁ := (hread _ _ _ h).of_ok e₁
    refine ite_memInv (acciRefuse_memInv h₁) (ite_memInv (acciRefuse_memInv h₁)
      (ite_memInv (acciRefuse_memInv h₁) ?_))
    split
    next e => exact acciFault_memInv ((readImgDesc_memInv hread h₁).of_fault e)
    next e => exact (readImgDesc_memInv hread h₁).of_wait e
    next s₂ _ _ e₂ =>
      have h₂ : MemInv s₂ := (readImgDesc_memInv hread h₁).of_ok e₂
      extract_lets
      split
      · exact acciRefuse_memInv h₂
      next d _ =>
        refine ite_memInv (acciRefuse_memInv h₂) ?_
        have hhead : GotInv (match j.msg with
            | some m => Got.ok s₂ (m.words.map BitVec.toNat)
            | none => readHead s₂ ag w j.b.toNat) := by
          split
          · exact .ok h₂
          · exact readHead_memInv h₂
        split
        next e => exact acciFault_memInv (hhead.of_fault e)
        next e => exact hhead.of_wait e
        next s₃ ws e₃ =>
          have h₃ : MemInv s₃ := hhead.of_ok e₃
          extract_lets w0
          refine ite_memInv (acciRefuse_memInv h₃) ?_
          split
          · exact acciPark_memInv h₃
          · exact acciClose_memInv h₃
          · have hbody : GotInv (match j.msg with
                | some _ => Got.ok s₃ (if spansOk d.n (msgSpans w0) (ws.drop 2) then some
                  (ws.drop 2) else none)
                | none => readSpans ag w d.n (msgSpans w0) (j.b.toNat + 8) s₃ []) := by
              split
              · exact .ok h₃
              · exact readSpans_memInv h₃
            split
            next e => exact acciFault_memInv (hbody.of_fault e)
            next e => exact hbody.of_wait e
            next e => exact acciRefuse_memInv (hbody.of_ok e)
            next s₄ _ e₄ =>
              have h₄ : MemInv s₄ := hbody.of_ok e₄
              split
              next e => exact acciFault_memInv ((hread _ _ _ h₄).of_fault e)
              next e => exact (hread _ _ _ h₄).of_wait e
              next e => exact setJobOn_memInv (setGranules_memInv ((hread _ _ _ h₄).of_ok e))

theorem acciRow_memInv {s p j d sn a} (h : MemInv s) : GotInv (acciRow s p j d sn a) := by
  unfold acciRow
  extract_lets
  split
  · refine ite_gotInv (.fault (countUncorr_memInv h)) ?_
    split
    next e => exact .fault ((engReadAt_memInv (State.setPier_memInv h)).of_fault e)
    next e => exact .wait ((engReadAt_memInv (State.setPier_memInv h)).of_wait e)
    next e => exact .ok ((engReadAt_memInv (State.setPier_memInv h)).of_ok e)
  · split
    next e => exact .fault ((engReadAt_memInv h).of_fault e)
    next e => exact .wait ((engReadAt_memInv h).of_wait e)
    next s₁ _ e₁ =>
      have h₁ : MemInv s₁ := (engReadAt_memInv h).of_ok e₁
      split
      · exact .ok h₁
      · split
        next e => exact .fault ((engReadAt_memInv h₁).of_fault e)
        next e => exact .wait ((engReadAt_memInv h₁).of_wait e)
        next s₂ _ e₂ =>
          have h₂ : MemInv s₂ := (engReadAt_memInv h₁).of_ok e₂
          split
          next e => exact .fault ((engWriteAt_memInv h₂).of_fault e)
          next e => exact .wait ((engWriteAt_memInv h₂).of_wait e)
          next e => exact .ok ((engWriteAt_memInv h₂).of_ok e)

theorem acciWeights_memInv {s p j d sn} (h : MemInv s) : GotInv (acciWeights s p j d sn) := by
  unfold acciWeights
  extract_lets
  refine ite_gotInv (.ok h) ?_
  split
  next e => exact .fault ((engReadAt_memInv h).of_fault e)
  next e => exact .wait ((engReadAt_memInv h).of_wait e)
  next s₁ _ e₁ =>
    have h₁ : MemInv s₁ := (engReadAt_memInv h).of_ok e₁
    extract_lets
    refine ite_gotInv (.ok h₁) ?_
    split
    next e => exact .fault ((engReadBy_memInv h₁).of_fault e)
    next e => exact .wait ((engReadBy_memInv h₁).of_wait e)
    next e => exact .ok ((engReadBy_memInv h₁).of_ok e)

theorem acciFinish_memInv {s p j} (h : MemInv s) : MemInv (acciFinish s p j) := by
  unfold acciFinish
  split
  next e => exact acciFault_memInv ((engWriteAt_memInv h).of_fault e)
  next e => exact setJobOn_memInv ((engWriteAt_memInv h).of_wait e)
  next e => exact acciClose_memInv ((engWriteAt_memInv h).of_ok e)

theorem acciNext_memInv {s p j} (h : MemInv s) : MemInv (acciNext s p j) :=
  ite_memInv (acciFinish_memInv h) (setJobOn_memInv h)

theorem acciTerms_memInv {p d sn} : ∀ {ts s j}, MemInv s → MemInv (acciTerms p d sn ts s j)
  | [], _, _, h => acciNext_memInv h
  | t :: ts, s, j, h => by
    unfold acciTerms
    split
    next e => exact acciFault_memInv ((acciRow_memInv h).of_fault e)
    next e => exact setJobOn_memInv ((acciRow_memInv h).of_wait e)
    next e => exact setJobOn_memInv ((acciRow_memInv h).of_ok e)
    next e => exact acciTerms_memInv ((acciRow_memInv h).of_ok e)

theorem acciStep_memInv {s p j} (h : MemInv s) : MemInv (acciStep s p j) := by
  unfold acciStep
  split
  · exact h
  · refine ite_memInv (acciFinish_memInv h) (ite_memInv (acciRefuse_memInv h) ?_)
    split
    · exact acciTerms_memInv h
    · split
      next e => exact acciFault_memInv ((acciWeights_memInv h).of_fault e)
      next e => exact setJobOn_memInv ((acciWeights_memInv h).of_wait e)
      next e => exact acciRefuse_memInv ((acciWeights_memInv h).of_ok e)
      next e => exact acciNext_memInv ((acciWeights_memInv h).of_ok e)
    · exact acciNext_memInv h

theorem sinkJob_memInv {s p r core m} (h : MemInv s) : MemInv (sinkJob s p r core m) := State.setPier_memInv h

theorem dverGo_memInv {s p j} (h : MemInv s) : MemInv (dverGo s p j) := by
  unfold dverGo
  extract_lets
  refine ite_memInv (refuse_memInv h) (ite_memInv (refuse_memInv h) ?_)
  split
  next e => exact spanFault_memInv ((engReadAt_memInv h).of_fault e)
  next e => exact (engReadAt_memInv h).of_wait e
  next s₁ _ e₁ =>
    have h₁ : MemInv s₁ := (engReadAt_memInv h).of_ok e₁
    exact setJobOn_memInv h₁

theorem dretGo_memInv {s p j} (h : MemInv s) : MemInv (dretGo s p j) := by
  unfold dretGo
  extract_lets
  split
  · exact refuse_memInv h
  · exact ite_memInv (refuse_memInv h) (endJob_memInv (State.setPier_memInv h))

theorem dqryGo_memInv {s p j} (h : MemInv s) : MemInv (dqryGo s p j) := by
  unfold dqryGo
  split
  · exact refuse_memInv h
  · exact ite_memInv (bankError_memInv h) (endJob_memInv (deliverReg_memInv h))

theorem imginvGo_memInv {s p j} (h : MemInv s) : MemInv (imginvGo s p j) := by
  unfold imginvGo
  extract_lets _ _ _ _ s₁ _ s₂ _ s₃
  have h₁ : MemInv s₁ := State.setPier_memInv h
  have h₂ : MemInv s₂ := State.setPier_memInv h₁
  have h₃ : MemInv s₃ := ite_memInv h₁ (foldl_memInv (fun _ _ => setJobOn_memInv) h₂)
  exact ite_memInv (refuse_memInv h) (annRetry_memInv (endJob_memInv h₃))

theorem spanGo_memInv {s p j} (h : MemInv s) : MemInv (spanGo s p j) := by
  unfold spanGo
  split
  · exact dinstGo_memInv h
  · exact datomGo_memInv h
  · exact encStart_memInv h
  · exact decStart_memInv h
  · exact acciGo_memInv h
  · exact h

theorem execAcciSpan_memInv {p s} (h : MemInv s) : OutInv (execAcciSpan p s) := by
  unfold execAcciSpan
  extract_lets _ s₁
  have h₁ : MemInv s₁ := foldl_memInv (fun _ _ => acciClose_memInv) h
  split
  · exact eventDone_memInv h₁
  · split
    · exact eventDone_memInv h₁
    · exact eventDone_memInv (acciStep_memInv (State.setPier_memInv h₁))

theorem execAcciStallResume_memInv {p core s} (h : MemInv s) : OutInv (execAcciStallResume p core s) := by
  unfold execAcciStallResume
  split
  · exact .next h
  · split
    · exact .next h
    · exact ite_outInv (eventDone_memInv (acciStep_memInv h)) (.next h)

theorem execAcciRestart_memInv {p s} (h : MemInv s) : OutInv (execAcciRestart p s) := by
  unfold execAcciRestart
  split
  · exact .next h
  · exact eventDone_memInv (acciGo_memInv (setJobOn_memInv h))

theorem execSpanTableCommand_memInv {p s} (h : MemInv s) : OutInv (execSpanTableCommand p s) := by
  unfold execSpanTableCommand
  extract_lets s₁
  have h₁ : MemInv s₁ := settleHeads_memInv h
  split
  · exact eventDone_memInv (dverGo_memInv h₁)
  · split
    · exact eventDone_memInv h₁
    · extract_lets p₁
      have h₂ : MemInv p₁.1 := startJob_memInv h₁
      refine eventDone_memInv ?_
      split
      · exact dverGo_memInv h₂
      · exact dretGo_memInv h₂
      · exact dqryGo_memInv h₂
      · exact imginvGo_memInv h₂

theorem execVersionAnnounce_memInv {src p s} (h : MemInv s) : OutInv (execVersionAnnounce src p s) := by
  unfold execVersionAnnounce
  split
  · refine ite_outInv (.next h) ?_
    extract_lets s₁
    have h₁ : MemInv s₁ := h
    split
    next e => exact eventDone_memInv (annRetry_memInv (memInv_of_fst (annApply_memInv h₁) e))
    next e => exact eventDone_memInv (State.setPier_memInv (memInv_of_fst (annApply_memInv h₁) e))
  · exact .next h

/-! ### IMGBLD -/

theorem imgbldStart_memInv {s p j} (h : MemInv s) : GotInv (imgbldStart s p j) := by
  unfold imgbldStart
  extract_lets
  refine ite_gotInv (.ok h) (ite_gotInv (.ok h) ?_)
  split
  next e => exact .fault ((readImgDesc_memInv (fun _ _ _ => engReadAt_memInv) h).of_fault e)
  next e => exact .wait ((readImgDesc_memInv (fun _ _ _ => engReadAt_memInv) h).of_wait e)
  next s₁ _ _ e₁ =>
    have h₁ : MemInv s₁ := (readImgDesc_memInv (fun _ _ _ => engReadAt_memInv) h).of_ok e₁
    split
    · exact .ok h₁
    · extract_lets
      refine ite_gotInv (.ok h₁) ?_
      split
      · exact .ok h₁
      · split
        next e => exact .fault ((engReadAt_memInv h₁).of_fault e)
        next e => exact .wait ((engReadAt_memInv h₁).of_wait e)
        next s₂ _ e₂ =>
          have h₂ : MemInv s₂ := (engReadAt_memInv h₁).of_ok e₂
          extract_lets
          split <;> exact .ok h₂

theorem imgbldBlock_memInv {s p rot j} (h : MemInv s) : MemInv (imgbldBlock s p rot j) := by
  unfold imgbldBlock
  extract_lets
  refine ite_memInv (setJobOn_memInv (State.setPier_memInv h)) ?_
  split
  next e => exact matFault_memInv (State.setPier_memInv ((imgbldStart_memInv h).of_fault e))
  next e => exact (imgbldStart_memInv h).of_wait e
  next e => exact jobErrorFree_memInv (State.setPier_memInv ((imgbldStart_memInv h).of_ok e))
  next e => exact setJobOn_memInv (State.setPier_memInv ((imgbldStart_memInv h).of_ok e))

/-- A part of a miss request leaves a canonical state, whether the request goes on with a job or not. -/
inductive ReqInv : State ⊕ (State × Job) → Prop
  | inl {s} (h : MemInv s) : ReqInv (.inl s)
  | inr {x} (h : MemInv x.1) : ReqInv (.inr x)

theorem imgbldReq_memInv {p d r row} : ∀ {fuel s j}, MemInv s → MemInv (imgbldReq p d r row fuel s j)
  | 0, _, _, h => h
  | fuel + 1, s, j, h => by
    unfold imgbldReq
    extract_lets ag v k at_ wrote stage _ _ _ out
    have hwrote : ∀ {x k}, GotInv x → ReqInv (wrote x k)
      | _, _, .fault h => .inl (matFault_memInv h)
      | _, _, .wait h => .inl h
      | _, _, .ok h => .inr (setJobOn_memInv h)
    have hout : ReqInv out := by
      unfold out
      clear_value stage
      split
      · exact hwrote (engWriteAt_memInv h)
      · split
        next e => exact .inl (matFault_memInv ((engReadAt_memInv h).of_fault e))
        next e => exact .inl ((engReadAt_memInv h).of_wait e)
        next s₁ _ e₁ =>
          have h₁ : MemInv s₁ := (engReadAt_memInv h).of_ok e₁
          extract_lets xs
          have hxs : GotInv (xs.foldl (fun (b : Got Unit) x =>
              match b with
              | .ok s _ => engWriteAt s ag j.jobid j.who x.1 (leBytes 8 x.2)
              | b => b) (.ok s₁ ())) := by
            refine List.foldlRecOn (motive := GotInv) _ _ (.ok h₁) fun b hb x _ => ?_
            split
            · exact engWriteAt_memInv (hb.of_ok rfl)
            · exact hb
          split
          next e => exact .inl (matFault_memInv (hxs.of_fault e))
          next e => exact .inl (hxs.of_wait e)
          next e => exact .inr (setJobOn_memInv (hxs.of_ok e))
      · exact hwrote (engWriteAt_memInv h)
      · split
        · exact hwrote (engWriteAt_memInv h)
        · exact .inr (setJobOn_memInv h)
      · exact .inl (ite_memInv (endJob_memInv (ite_memInv (imgInstall_memInv h) h))
          (setJobOn_memInv (ite_memInv (imgInstall_memInv h) h)))
    refine ite_memInv h ?_
    clear_value out
    cases hout with
    | inl h => exact h
    | inr h => exact imgbldReq_memInv h

theorem execImgbldRequest_memInv {p s} (h : MemInv s) : OutInv (execImgbldRequest p s) := by
  unfold execImgbldRequest
  split
  · exact .next h
  · split
    · extract_lets
      split
      · exact matrixDone_memInv (bankError_memInv h)
      · exact matrixDone_memInv (imgbldReq_memInv h)
    · exact .next h

/-! ### The truss -/

theorem askTrlds_memInv {s p} (h : MemInv s) : MemInv (askTrlds s p) := by
  unfold askTrlds
  refine foldl_memInv (fun _ _ h₁ => ?_) h
  split
  · exact h₁
  · refine ite_memInv h₁ ?_
    split
    next e => exact setJobOn_memInv ((engRead_memInv h₁).of_wait e)
    · exact h₁

theorem contend_memInv {s p n other} (h : MemInv s) : MemInv (contend s p n other) :=
  ite_memInv (State.countEvent_memInv h) h

theorem execMmaBlock_memInv {p s} (h : MemInv s) : OutInv (execMmaBlock p s) := by
  unfold execMmaBlock
  split
  · exact eventDone_memInv (askTrlds_memInv h)
  · extract_lets s₁
    have h₁ : MemInv s₁ := contend_memInv h
    split
    · exact matrixDone_memInv (mmaBlock_memInv (State.setPier_memInv h₁))
    · exact matrixDone_memInv (imgbldBlock_memInv h₁)
    · exact eventDone_memInv (askTrlds_memInv h₁)

theorem execTrldSlotWrite_memInv {p s} (h : MemInv s) : OutInv (execTrldSlotWrite p s) := by
  unfold execTrldSlotWrite
  split
  · exact eventDone_memInv (askTrlds_memInv h)
  · exact ite_outInv (matrixDone_memInv (trldStep_memInv (State.setPier_memInv (contend_memInv h))))
      (eventDone_memInv (askTrlds_memInv h))

theorem encShared_memInv {s p j} (h : MemInv s) : MemInv (encShared s p j) := ite_memInv (contend_memInv h) h

theorem encGrant_memInv {s p c} {f : State → Job → State} (h : MemInv s)
    (hf : ∀ s x, MemInv s → MemInv (f s x)) :
    OutInv (encGrant s p c f) := by
  unfold encGrant
  split
  · exact .next h
  · split
    · exact .next h
    · exact ite_outInv (eventDone_memInv (hf _ _ (State.setPier_memInv (encShared_memInv h)))) (.next h)

theorem datomHold_memInv {old new p j} (hnew : MemInv new) : MemInv (datomHold old new p j) :=
  ite_memInv (contend_memInv hnew) hnew

theorem execSpanJobStart_memInv {p s} (h : MemInv s) : OutInv (execSpanJobStart p s) := by
  unfold execSpanJobStart
  extract_lets s₁ go s₂
  have hgo : ∀ s j, MemInv s → MemInv (go s j) := fun _ _ h => datomHold_memInv (spanGo_memInv h)
  have h₂ : MemInv s₂ := foldl_memInv hgo (settleHeads_memInv h)
  split
  · exact eventDone_memInv h₂
  · exact eventDone_memInv (hgo _ _ (startJob_memInv h₂))

theorem execTrussBoundaryMove_memInv {p s} (h : MemInv s) : OutInv (execTrussBoundaryMove p s) :=
  ite_outInv (.next h) (matrixDone_memInv (State.setPier_memInv
    (foldl_memInv (fun _ _ => unloadSlot_memInv) h)))

/-! ### The reuse table -/

theorem homeWords_memInv {s agent vd core n as} (h : MemInv s) : GotInv (homeWords s agent vd core n as) := by
  unfold homeWords
  split
  next e => exact .fault ((engRead_memInv h).of_fault e)
  next e => exact .wait ((engRead_memInv h).of_wait e)
  next e => exact .ok ((engRead_memInv h).of_ok e)

theorem allGens_memInv {s agent vd core rs} (h : MemInv s) : GotInv (allGens s agent vd core rs) := by
  unfold allGens
  split
  next e => exact .fault ((homeWords_memInv h).of_fault e)
  next e => exact .wait ((homeWords_memInv h).of_wait e)
  next e => exact .ok ((homeWords_memInv h).of_ok e)

theorem freeSlot_memInv {s e} (h : MemInv s) : MemInv (freeSlot s e) := by
  unfold freeSlot
  split
  · exact State.setVdev_memInv h
  · exact h

theorem reuseClear_memInv {s} {f : Reuse → Bool} (h : MemInv s) : MemInv (reuseClear s f) :=
  foldl_memInv (fun _ _ h => freeSlot_memInv h) h

theorem reuseTouch_memInv {s i e} (h : MemInv s) : MemInv (reuseTouch s i e) := h

theorem reuseCheck_memInv {s agent core l tenant u} (h : MemInv s) :
    ReuseInv (reuseCheck s agent core l tenant u) := by
  unfold reuseCheck
  split
  · exact .place h
  · extract_lets
    split
    · exact .place (reuseClear_memInv (dropArrived_memInv h))
    · split
      next e => exact .wait ((allGens_memInv h).of_wait e)
      next e => exact .place (reuseClear_memInv (dropArrived_memInv ((allGens_memInv h).of_fault e)))
      next s₁ _ e₁ =>
        have h₁ : MemInv s₁ := (allGens_memInv h).of_ok e₁
        split
        · exact .place (reuseClear_memInv (dropArrived_memInv h₁))
        · extract_lets s₂
          have h₂ : MemInv s₂ := reuseTouch_memInv (dropArrived_memInv h₁)
          split
          · exact .retire h₂
          · exact .copy h₂

theorem reuseCopyOut_memInv {s agent lid l vd pier done sectors} (h : MemInv s) :
    MemInv (reuseCopyOut s agent lid l vd pier done sectors).s := by
  unfold reuseCopyOut
  extract_lets _ _ _ stop
  refine List.foldlRecOn (motive := fun r : CopyRun => MemInv r.s) _ _ h fun r hr x _ => ?_
  split
  · exact hr
  split
  · exact hr
  split
  · exact hr
  next s₁ e =>
    have h₁ : MemInv s₁ := (engReadAt_memInv hr).of_wait e
    exact h₁
  next s₁ _ e =>
    have h₁ : MemInv (dropArrived s₁ agent) := dropArrived_memInv ((engReadAt_memInv hr).of_ok e)
    split
    next s₂ _ e₂ =>
      have h₂ : MemInv s₂ := (engWriteAt_memInv h₁).of_fault e₂
      exact h₂
    next s₂ e₂ =>
      have h₂ : MemInv s₂ := (engWriteAt_memInv h₁).of_wait e₂
      exact h₂
    next s₂ _ e₂ =>
      have h₂ : MemInv s₂ := (engWriteAt_memInv h₁).of_ok e₂
      exact h₂

theorem writeSummary_memInv {s vd a key results gens} (h : MemInv s) :
    MemInv (writeSummary s vd a key results gens) :=
  sysWrite_memInv (sysWrite_memInv (sysWrite_memInv (sysWrite_memInv (sysWrite_memInv h))))

theorem reuseEnter_memInv {s vd tenant quota key tag records gens} (h : MemInv s) :
    MemInv (reuseEnter s vd tenant quota key tag records gens) := by
  unfold reuseEnter
  extract_lets v
  clear_value v
  split
  · exact h
  · extract_lets s₁
    have h₁ : MemInv s₁ := by
      unfold s₁
      split
      · exact freeSlot_memInv h
      · exact h
    split
    · split
      · exact h₁
      · exact reuseTouch_memInv (writeSummary_memInv (State.setVdev_memInv h₁))
    · exact h₁

theorem reuseInsert_memInv {s c} (h : MemInv s) : GotInv (reuseInsert s c) := by
  unfold reuseInsert
  extract_lets
  split
  · refine ite_gotInv (.ok h) ?_
    split
    next e => exact .wait ((allGens_memInv h).of_wait e)
    next e => exact .ok ((allGens_memInv h).of_fault e)
    next s₁ _ e₁ =>
      have h₁ : MemInv s₁ := (allGens_memInv h).of_ok e₁
      split
      next e => exact .wait ((homeWords_memInv h₁).of_wait e)
      next e => exact .ok ((homeWords_memInv h₁).of_fault e)
      next s₂ _ e₂ =>
        have h₂ : MemInv s₂ := (homeWords_memInv h₁).of_ok e₂
        exact .ok (ite_memInv h₂ (reuseEnter_memInv h₂))
  · exact .ok h

theorem execRprobe_memInv {o s} (h : MemInv s) : OutInv (execRprobe o s) :=
  conclude_memInv (gateE_memInv h (fun _ => ite_verdictInv (accessTrap_memInv h)
    (got_memInv (operand_memInv h) (fun _ _ h₁ => .ok (setD_memInv h₁)))))

theorem execRinv_memInv {o s} (h : MemInv s) : OutInv (execRinv o s) := by
  unfold execRinv
  exact conclude_memInv (gateE_memInv h (fun _ => ite_verdictInv (trapFree_memInv h)
    (ite_verdictInv (trapFree_memInv h) (ite_verdictInv (.ok (setD_memInv (reuseClear_memInv h)))
      (ite_verdictInv (accessTrap_memInv h) (ite_verdictInv
        (got_memInv (operand_memInv h) (fun _ _ h₁ => .ok (setD_memInv (reuseClear_memInv h₁))))
          (got_memInv (operand_memInv h) (fun _ _ h₂ => .ok (setD_memInv (reuseClear_memInv h₂))))))))))

/-! ### Faults, suspension and the ends of units -/

theorem suspend_memInv {s} {pick : State → State × Nat × Nat} (h : MemInv s)
    (hpick : ∀ s, MemInv s → MemInv (pick s).1) :
    VerdictInv (suspend s pick) := by
  unfold suspend
  extract_lets _ _ s₁ _ s₂
  have h₁ : MemInv s₁ := drainCtx_memInv h
  have h₂ : MemInv s₂ := leaveGuards_memInv h₁
  split
  · exact trapFree_memInv h
  · exact .ok h
  · refine ite_verdictInv (.wait h₁) ?_
    split
    · exact .trap (taint_memInv (State.setMe_memInv h₁))
    · exact .left (suspendUnit_memInv (hpick _ h₂))

theorem execSusp_memInv {o s} (h : MemInv s) : OutInv (execSusp o s) := by
  unfold execSusp
  refine conclude_memInv (gate_memInv h (fun _ => suspend_memInv h (fun _ h₁ => ?_)))
  split
  · exact ite_fst_memInv h₁ h₁
  · exact h₁

theorem endOfUnit_memInv {s c} (h : MemInv s) : MemInv (endOfUnit s c) :=
  retireUnit_memInv (freeCtx_memInv (setRecState_memInv (setRecCause_memInv h)))

theorem endOfHandler_memInv {s c} (h : MemInv s) : MemInv (endOfHandler s c) :=
  freeCtx_memInv (orphanRecvs_memInv (keepJobs_memInv h))

theorem execEndUnit_memInv {s} (h : MemInv s) : OutInv (execEndUnit s) := by
  unfold execEndUnit
  refine conclude_memInv (gate_memInv h (fun _ => ite_verdictInv
    (.wait (drainCtx_memInv (ite_memInv h (State.setMe_memInv (leaveGuards_memInv h))))) ?_))
  extract_lets s₁ _ s₂
  have h₁ : MemInv s₁ := leaveGuards_memInv h
  have h₂ : MemInv s₂ := State.setMe_memInv (drainCtx_memInv (ite_memInv h (State.setMe_memInv h₁)))
  split
  · exact .trap (setJobOn_memInv h₂)
  · split
    next e => exact .trap ((reportDue_memInv h₂).of_some e)
    · refine ite_verdictInv (.left (endOfHandler_memInv h₂)) ?_
      split
      next e => exact .wait ((reuseInsert_memInv h₂).of_wait e)
      next e => exact accessTrap_memInv ((reuseInsert_memInv h₂).of_fault e)
      next e => exact .left (endOfUnit_memInv ((reuseInsert_memInv h₂).of_ok e))

theorem granuleLoad_memInv {i f s} (e : granuleLoad i = some f) (h : MemInv s) : OutInv (f s) := by
  have hon : ∀ {q : BitVec 2} {g : State → Out}, (if q.toNat ≥ 2 then some g else none) = some f →
      (∀ s, MemInv s → OutInv (g s)) → OutInv (f s) := by
    intro q g e hg
    split at e
    · cases e; exact hg s h
    · cases e
  unfold granuleLoad at e
  split at e
  · exact hon e fun _ h => execLdb_memInv h
  · exact hon e fun _ h => execLdh_memInv h
  · exact hon e fun _ h => execLdw_memInv h
  · exact hon e fun _ h => execLdd_memInv h
  · exact hon e fun _ h => execLdbn_memInv h
  · exact hon e fun _ h => execLdhn_memInv h
  · exact hon e fun _ h => execLdwn_memInv h
  · exact hon e fun _ h => execLdv_memInv h
  · exact hon e fun _ h => execLdx_memInv h
  · exact hon e fun _ h => execTld_memInv h
  · cases e

theorem execGranuleWaitIssue_memInv {c s} (h : MemInv s) : OutInv (execGranuleWaitIssue c s) := by
  unfold execGranuleWaitIssue
  refine ite_outInv (.next h) ?_
  split
  next t w e =>
    have ht : MemInv t := (fetchWord_memInv h).of_ok e
    split
    · exact .next h
    next f hf =>
      obtain ⟨i, -, hi⟩ := Option.bind_eq_some_iff.mp hf
      split
      next u hu =>
        have h₁ : MemInv u := (granuleLoad_memInv (s := { t with cur := c }) hi ht).of_next hu
        exact .next (ite_memInv h₁ h)
      · exact .next h
  · exact .next h

theorem stopEvent_memInv {s c} {due : Ctx → Bool} (h : MemInv s) : OutInv (stopEvent s c due) :=
  ite_outInv (State.done_memInv (takeStop_memInv h)) (.next h)

theorem preReach_memInv {s c} (h : MemInv s) : MemInv (preReach s c) := by
  unfold preReach
  extract_lets _ s₁
  have h₁ : MemInv s₁ := State.setCtx_memInv h
  split
  · exact ite_memInv h (ite_memInv (takeStop_memInv h₁) h₁)
  · exact ite_memInv h (ite_memInv (stopCtx_memInv h) (ite_memInv h (ite_memInv (takeStop_memInv h₁) h₁)))
  · exact h

theorem execFrameSave_memInv {c s} (h : MemInv s) : OutInv (execFrameSave c s) := by
  unfold execFrameSave
  split
  · exact ite_outInv (.next h) (State.done_memInv (advanceStop_memInv h))
  · exact .next h

theorem execFramePoolSupply_memInv {c s} (h : MemInv s) : OutInv (execFramePoolSupply c s) := by
  unfold execFramePoolSupply
  split
  · exact ite_outInv (State.done_memInv (advanceStop_memInv h)) (.next h)
  · exact .next h

/-! ### Placement, FORK, SPAWN and JOIN -/

theorem dequeEnter_memInv {s p vd r} (h : MemInv s) : MemInv (dequeEnter s p vd r) :=
  ite_memInv (State.setPier_memInv h) (State.setPier_memInv h)

theorem execDequeEntryResume_memInv {p s} (h : MemInv s) : OutInv (execDequeEntryResume p s) := by
  unfold execDequeEntryResume
  extract_lets
  split
  · exact ite_outInv (State.done_memInv (State.setPier_memInv h)) (.next h)
  · exact .next h

theorem generate_memInv {s l i} (h : MemInv s) : OptInv Prod.snd (generate s l i) := by
  unfold generate
  split
  · exact .none
  · split
    · exact .none
    next e => exact .some (State.setLaunch_memInv (writeRecord_memInv ((takeRecord_memInv h).of_some e)))

theorem corePlace_memInv {s l i} (h : MemInv s) : MemInv (corePlace s l i) := by
  unfold corePlace
  split
  · exact h
  · extract_lets
    split
    next e => exact takeUnit_memInv ((generate_memInv h).of_some e)
    · exact h

theorem coresStart_memInv {s vd} (h : MemInv s) : MemInv (coresStart s vd) := by
  unfold coresStart
  split
  · exact h
  · split
    · exact h
    · split
      · exact h
      · refine ite_memInv h (foldl_memInv (fun _ _ h₁ => ite_memInv h₁ (State.setCtx_memInv h₁)) ?_)
        split
        · exact State.setLaunch_memInv (foldl_memInv (fun _ _ => corePlace_memInv)
            (State.setLaunch_memInv (State.setVdev_memInv h)))
        · exact foldl_memInv (fun _ _ => corePlace_memInv) (State.setLaunch_memInv (State.setVdev_memInv h))

theorem coresReserve_memInv {s vd c} (h : MemInv s) : MemInv (coresReserve s vd c) := by
  unfold coresReserve
  split
  · exact h
  · split
    · exact h
    · exact ite_memInv (State.setCtx_memInv h) h

theorem coresGather_memInv {s vd} (h : MemInv s) : MemInv (coresGather s vd) :=
  coresStart_memInv (foldl_memInv (fun _ _ h₁ => ite_memInv (coresReserve_memInv h₁) h₁) h)

theorem execRecordOffer_memInv {i c s} (h : MemInv s) : OutInv (execRecordOffer i c s) := by
  unfold execRecordOffer
  split
  · exact .next h
  · extract_lets _ _ _ _ v
    refine State.done_memInv ?_
    clear_value v
    split
    · exact takeUnit_memInv h
    · exact ite_memInv (dequeEnter_memInv h) h

theorem steal_memInv {s c p vd} (h : MemInv s) : MemInv (steal s c p vd) := by
  unfold steal
  extract_lets _ s₁
  have h₁ : MemInv s₁ := State.setCtx_memInv h
  refine ite_memInv h₁ ?_
  split
  · exact State.countEvent_memInv h₁
  · extract_lets _ s₂ s₃ _ s₄
    have h₂ : MemInv s₂ := State.setPier_memInv h₁
    have h₃ : MemInv s₃ := State.countEvent_memInv h₂
    have h₄ : MemInv s₄ := State.setCtx_memInv h₃
    split
    · exact h₁
    · exact h₄

theorem execContextFreePop_memInv {c s} (h : MemInv s) : OutInv (execContextFreePop c s) := by
  unfold execContextFreePop
  extract_lets
  split
  · exact .next h
  · refine ite_outInv (.next h) ?_
    split
    · exact ite_outInv (State.done_memInv (takeUnit_memInv (State.setCtx_memInv h))) (.next h)
    · refine ite_outInv (State.done_memInv (coresStart_memInv h))
        (ite_outInv (.next h) (ite_outInv (State.done_memInv (coresStart_memInv (coresReserve_memInv h))) ?_))
      split
      · exact State.done_memInv (takeUnit_memInv (State.setPier_memInv h))
      · exact ite_outInv (State.done_memInv (steal_memInv h)) (.next h)

theorem execStolenRecordArrive_memInv {c s} (h : MemInv s) : OutInv (execStolenRecordArrive c s) := by
  unfold execStolenRecordArrive
  refine ite_outInv (.next h) ?_
  extract_lets _ s₁
  have h₁ : MemInv s₁ := State.setCtx_memInv h
  split
  · exact State.done_memInv h₁
  · exact State.done_memInv (ite_memInv (dequeEnter_memInv h₁) (takeUnit_memInv h₁))

theorem createUnit_memInv {s i l pc w3 budget s1 s2 s3} (h : MemInv s) :
    OptInv Prod.snd (createUnit s i l pc w3 budget s1 s2 s3) := by
  unfold createUnit
  extract_lets
  split
  · exact .none
  next s₁ e =>
    have h₁ : MemInv s₁ := (takeRecord_memInv h).of_some e
    exact .some (addCounter_memInv (State.setLaunch_memInv (writeRecord_memInv h₁)))

theorem execFork_memInv {o s} (h : MemInv s) : OutInv (execFork o s) := by
  unfold execFork
  refine conclude_memInv (gateE_memInv h (fun _ => ?_))
  extract_lets _ _ _ p
  have h₁ : MemInv p.1 := releaseWait_memInv h
  split
  · refine ite_verdictInv (trapFree_memInv h) (impure_memInv h
      (ite_verdictInv (accessTrap_memInv h) (ite_verdictInv (.wait h₁) ?_)))
    split
    · exact .wait h₁
    next s₁ e =>
      have h₂ : MemInv s₁ := (createUnit_memInv h₁).of_some e
      exact .ok (setD_memInv (dequeEnter_memInv (addCounter_memInv h₂)))
  · exact trapFree_memInv h

theorem execJoin_memInv {o s} (h : MemInv s) : OutInv (execJoin o s) := by
  unfold execJoin
  refine conclude_memInv (gateE_memInv h (fun _ => ?_))
  extract_lets
  split
  · exact trapFree_memInv h
  · refine impure_memInv h (ite_verdictInv (.wait h)
      (ite_verdictInv (.ok h) (suspend_memInv h (fun _ h₁ => ?_))))
    split
    · exact h₁
    · exact ite_fst_memInv h₁ (setCounter_memInv h₁)

theorem execSpawn_memInv {o s} (h : MemInv s) : OutInv (execSpawn o s) := by
  unfold execSpawn
  refine conclude_memInv (gateE_memInv h (fun _ => impure_memInv h
    (ite_verdictInv (accessTrap_memInv h) (got_memInv (operand_memInv h) (fun _ _ h₁ => ?_)))))
  extract_lets _ p
  have h₂ : MemInv p.1 := releaseWait_memInv h₁
  split
  · exact trapFree_memInv h₁
  · refine ite_verdictInv (trapFree_memInv h₁) (ite_verdictInv (.wait h₂) (ite_verdictInv (.wait h₂) ?_))
    split
    · exact .wait h₂
    next e => exact .ok (setD_memInv (enterWalk_memInv ((createUnit_memInv h₂).of_some e)))

/-! ### Counters -/

theorem dropCounter_memInv {s id} (h : MemInv s) : MemInv (dropCounter s id) := h

theorem cancelIndex_memInv {s l x i} (h : MemInv s) : MemInv (cancelIndex s l x i) := by
  unfold cancelIndex
  split
  · exact cancelUnit_memInv h
  · exact ite_memInv (coresStart_memInv (addCounter_memInv (State.setLaunch_memInv h))) h

theorem cancelGraph_memInv {s job id} (h : MemInv s) : MemInv (cancelGraph s job id) :=
  ite_memInv h (foldl_memInv (fun _ _ => cancelLaunch_memInv) h)

theorem cancelAt_memInv {s r kind i} (h : MemInv s) : ExceptInv id (cancelAt s r kind i) := by
  unfold cancelAt
  extract_lets
  split
  · split
    · exact .error
    · split
      · exact .error
      · exact .ok h
  · split
    · exact .error
    · split
      · split
        · exact .error
        · split
          · exact .error
          · exact .ok (cancelGraph_memInv h)
      · split
        · exact .error
        · split
          · exact .error
          · exact .ok (wakeWhere_memInv (setCounter_memInv h))
      · split
        · exact .error
        · split
          · exact .error
          · exact .ok (cancelJob_memInv h)
      · split
        · exact .error
        · split
          · exact .error
          · split
            · exact .error
            · exact .ok (ite_memInv (cancelIndex_memInv h) (cancelLaunch_memInv h))

theorem sliceFault_memInv {s r c} (h : MemInv s) : MemInv (sliceFault s r c) := h

theorem answer_memInv {s c ws} (h : MemInv s) : MemInv (answer s c ws) := State.setCtx_memInv h

theorem answerFault_memInv {s c f} (h : MemInv s) : MemInv (answerFault s c f) := answer_memInv h

theorem cnewAt_memInv {s r phase v} (h : MemInv s) : MemInv (cnewAt s r phase v) := by
  unfold cnewAt
  extract_lets
  split
  · exact answer_memInv h
  · exact ite_memInv (answer_memInv h) (answer_memInv (setCounter_memInv h))

theorem slicePerform_memInv {s r} (h : MemInv s) : MemInv (slicePerform s r) := by
  unfold slicePerform
  extract_lets v
  split
  · clear_value v
    split
    · exact sliceFault_memInv h
    · exact ite_memInv (sliceFault_memInv h) (addCounter_memInv h)
  · clear_value v
    split
    · exact sliceFault_memInv h
    · exact ite_memInv (sliceFault_memInv h) (ite_memInv h (wakeWaiters_memInv (setCounter_memInv h)))
  · split
    · exact sliceFault_memInv h
    next e => exact (cancelAt_memInv h).of_ok e
  · exact cnewAt_memInv h
  · clear_value v
    split
    · exact answerFault_memInv h
    · exact ite_memInv (answer_memInv h) (answer_memInv (dropCounter_memInv h))
  · clear_value v
    split
    · exact answerFault_memInv h
    · exact ite_memInv (answerFault_memInv h) (ite_memInv (answer_memInv h)
        (answer_memInv (wakeWaiters_memInv (setCounter_memInv h))))
  · clear_value v
    split
    · exact answerFault_memInv h
    · exact ite_memInv (answer_memInv h) (answer_memInv (ite_memInv h (setCounter_memInv h)))

theorem execCounterOpArrive_memInv {i s} (h : MemInv s) : OutInv (execCounterOpArrive i s) := by
  unfold execCounterOpArrive
  split
  · exact .next h
  · exact ite_outInv (.next h) (State.done_memInv (settleDying_memInv
      (advanceStop_memInv (slicePerform_memInv h))))

theorem request_memInv {s id op} (h : MemInv s) : MemInv (request s id op) := h

theorem post_memInv {s id op} (h : MemInv s) : VerdictInv (post s id op) :=
  .ok (request_memInv (drainCtx_memInv h))

theorem ask_memInv {s id op} {f : State → List Word → Verdict} (h : MemInv s)
    (hf : ∀ s x, MemInv s → VerdictInv (f s x)) :
    VerdictInv (ask s id op f) := by
  unfold ask
  split
  · exact .wait (ite_memInv h (State.setMe_memInv (request_memInv h)))
  · exact trapFree_memInv h
  · exact hf _ _ h

theorem cnewForm_memInv {s o phase} (h : MemInv s) : OutInv (cnewForm s o phase) := by
  unfold cnewForm
  refine conclude_memInv (gateE_memInv h (fun _ => ?_))
  extract_lets
  split
  · exact trapFree_memInv h
  · refine ite_verdictInv (trapFree_memInv h) (ask_memInv h (fun _ _ h₁ => ?_))
    split
    · extract_lets s₁
      have h₂ : MemInv s₁ := by
        unfold s₁
        split
        · exact setCounter_memInv h₁
        · exact h₁
      exact .ok (setD_memInv h₂)
    · exact .wait h₁

theorem execCnewFree_memInv {o s} (h : MemInv s) : OutInv (execCnewFree o s) := by
  unfold execCnewFree
  refine conclude_memInv (gateE_memInv h (fun _ => ask_memInv h (fun _ _ h₁ => ?_)))
  split
  · exact .ok (setD_memInv h₁)
  · exact .wait h₁

theorem execCadd_memInv {o s} (h : MemInv s) : OutInv (execCadd o s) :=
  conclude_memInv (gateE_memInv h (fun _ => ite_verdictInv (trapFree_memInv h)
    (impure_memInv h (post_memInv h))))

theorem cwaitDone_memInv {d s ws} (h : MemInv s) : VerdictInv (cwaitDone d s ws) := by
  unfold cwaitDone
  split
  · exact .ok (setD_memInv h)
  · exact suspend_memInv h (fun _ h₁ => ite_fst_memInv h₁ h₁)
  · exact .wait h

theorem execCwaitPh_memInv {o s} (h : MemInv s) : OutInv (execCwaitPh o s) :=
  conclude_memInv (gateE_memInv h (fun _ => ite_verdictInv (trapFree_memInv h)
    (ask_memInv h (fun _ _ => cwaitDone_memInv))))

theorem execExpect_memInv {o s} (h : MemInv s) : OutInv (execExpect o s) := by
  unfold execExpect
  refine conclude_memInv (gate_memInv h (fun _ => ite_verdictInv (trapFree_memInv h)
    (impure_memInv h (ask_memInv h (fun _ _ h₁ => ?_)))))
  split
  · exact .ok (setKBool_memInv (setD_memInv h₁))
  · exact .wait h₁

theorem execArrive_memInv {o s} (h : MemInv s) : OutInv (execArrive o s) :=
  conclude_memInv (gateE_memInv h (fun _ => ite_verdictInv (trapFree_memInv h)
    (impure_memInv h (post_memInv h))))

theorem cancelForm_memInv {s o kind} (h : MemInv s) : OutInv (cancelForm s o kind) :=
  conclude_memInv (gateE_memInv h (fun _ => impure_memInv h (post_memInv h)))

theorem execPerfrd_memInv {o s} (h : MemInv s) : OutInv (execPerfrd o s) :=
  conclude_memInv (gateE_memInv h (fun _ => ite_verdictInv (trapFree_memInv h) (.ok (setD_memInv h))))

theorem execAccnt_memInv {o s} (h : MemInv s) : OutInv (execAccnt o s) := by
  unfold execAccnt
  refine conclude_memInv (gateE_memInv h (fun _ => ite_verdictInv (trapFree_memInv h)
    (ite_verdictInv (.ok (setD_memInv h)) ?_)))
  split
  · exact .ok (setD_memInv h)
  · refine ite_verdictInv (.ok (setD_memInv h)) ?_
    split
    · exact .ok (setD_memInv h)
    · extract_lets
      refine ite_verdictInv (.ok (setD_memInv h)) ?_
      split
      · exact .ok (setD_memInv h)
      · exact .wait h
      · exact .wait (State.emit_memInv h)

/-! ### Messages -/

theorem acceptMsg_memInv {s p m} (h : MemInv s) : MemInv (acceptMsg s p m) := by
  unfold acceptMsg
  extract_lets s₁
  have h₁ : MemInv s₁ := State.countEvent_memInv h
  split
  · exact h₁
  · split
    · exact h₁
    · exact endJob_memInv h₁

theorem recvDone_memInv {s p r w} (h : MemInv s) : MemInv (recvDone s p r w) := by
  unfold recvDone
  extract_lets _ v s₁
  have h₁ : MemInv s₁ := State.setPier_memInv h
  clear_value v
  split
  · exact wakeOn_memInv h₁
  · exact h₁

theorem holdDelivery_memInv {s p core d} (h : MemInv s) : MemInv (holdDelivery s p core d) :=
  State.setPier_memInv h

theorem pageDelivery_memInv {s p core d f} (h : MemInv s) : MemInv (pageDelivery s p core d f) :=
  ite_memInv (holdDelivery_memInv (askReclaim_memInv h)) (holdDelivery_memInv h)

theorem stopDelivery_memInv {s p core d f passed} (h : MemInv s) :
    MemInv (stopDelivery s p core d f passed) := by
  unfold stopDelivery
  extract_lets
  split
  next e => exact recvDone_memInv (raiseNotice_memInv ((engWriteAt_memInv h).of_ok e))
  next e => exact holdDelivery_memInv ((engWriteAt_memInv h).of_wait e)
  next s₁ _ e₁ =>
    have h₁ : MemInv s₁ := (engWriteAt_memInv h).of_fault e₁
    exact ite_memInv (pageDelivery_memInv h₁) (recvDone_memInv (raiseNotice_memInv h₁))

theorem deliver_memInv {s p core d} (h : MemInv s) : MemInv (deliver s p core d) := by
  unfold deliver
  extract_lets _ _ _ _ _ _ v
  refine ite_memInv (holdDelivery_memInv h) ?_
  split
  next e => exact holdDelivery_memInv (GotInv.of_wait e (ite_gotInv (.ok h) (engWrite_memInv h)))
  next s₁ _ e₁ =>
    have h₁ : MemInv s₁ := GotInv.of_fault e₁ (ite_gotInv (.ok h) (engWrite_memInv h))
    exact ite_memInv (pageDelivery_memInv h₁) (stopDelivery_memInv h₁)
  next s₂ _ e₂ =>
    have h₂ : MemInv s₂ := GotInv.of_ok e₂ (ite_gotInv (.ok h) (engWrite_memInv h))
    clear_value v
    split
    · exact ite_memInv (pageDelivery_memInv h₂) (stopDelivery_memInv h₂)
    · refine ite_memInv (holdDelivery_memInv h₂) ?_
      split
      next e => exact holdDelivery_memInv ((engWriteAt_memInv h₂).of_wait e)
      next s₃ _ e₃ =>
        have h₃ : MemInv s₃ := (engWriteAt_memInv h₂).of_fault e₃
        exact ite_memInv (pageDelivery_memInv h₃) (stopDelivery_memInv h₃)
      next e => exact recvDone_memInv ((engWriteAt_memInv h₂).of_ok e)

theorem takeMsg_memInv {s p core r m avail} (h : MemInv s) : MemInv (takeMsg s p core r m avail) :=
  deliver_memInv (ite_memInv (sinkJob_memInv (acceptMsg_memInv h)) (acceptMsg_memInv h))

theorem startHandler_memInv {s p core m pc} (h : MemInv s) : MemInv (startHandler s p core m pc) :=
  State.setCtx_memInv (acceptMsg_memInv h)

theorem storeMsg_memInv {s p m cause} (h : MemInv s) : OptInv id (storeMsg s p m cause) :=
  ite_optInv (.some (State.setPier_memInv (acceptMsg_memInv h))) .none

theorem badEntry_memInv {s p m} (h : MemInv s) : OptInv id (badEntry s p m) :=
  (storeMsg_memInv h).map fun _ h => raiseNotice_memInv h

theorem placeMsg_memInv {s p m} (h : MemInv s) : OptInv id (placeMsg s p m) := by
  unfold placeMsg
  refine ite_optInv (ite_optInv (.some (acceptMsg_memInv h)) ?_) ?_
  · split
    · exact badEntry_memInv h
    · exact ite_optInv (.some (startHandler_memInv h)) (.some (State.setCore_memInv h))
  · split
    · exact ite_optInv .none (.some (takeMsg_memInv (State.setPier_memInv h)))
    · exact storeMsg_memInv h

theorem holdMsg_memInv {s p m} (h : MemInv s) : MemInv (holdMsg s p m) :=
  ite_memInv (State.setPier_memInv h) (raiseNotice_memInv (State.countEvent_memInv (State.setPier_memInv h)))

theorem execMessageArrive_memInv {src dst s} (h : MemInv s) : OutInv (execMessageArrive src dst s) := by
  unfold execMessageArrive
  split
  · exact .next h
  · refine ite_outInv (.next h) ?_
    extract_lets _ s₁
    have h₁ : MemInv s₁ := h
    refine eventDone_memInv ?_
    split
    next e => exact (placeMsg_memInv h₁).of_some e
    · exact holdMsg_memInv h₁

theorem execIngressRelease_memInv {p s} (h : MemInv s) : OutInv (execIngressRelease p s) := by
  unfold execIngressRelease
  extract_lets x go
  have hgo : ∀ m, MemInv (go m s) := fun _ => State.setPier_memInv h
  have hplace : ∀ m, OutInv (match placeMsg (go m s) p m with | some s => eventDone s | none => .next s) := by
    intro m
    split
    next e => exact eventDone_memInv ((placeMsg_memInv (hgo m)).of_some e)
    · exact .next h
  refine ite_outInv (.next h) ?_
  split
  · refine ite_outInv (State.done_memInv (setJobOn_memInv h)) ?_
    split
    · exact hplace _
    · exact .next h
  · generalize (match x.held.find? _ with | some m => some m | none => x.held.find? (lacksEntries x)) = o
    split
    · exact .next h
    · exact hplace _

theorem execHandlerDispatch_memInv {core s} (h : MemInv s) : OutInv (execHandlerDispatch core s) := by
  unfold execHandlerDispatch
  extract_lets
  split
  · exact .next h
  · extract_lets s₁
    have h₁ : MemInv s₁ := State.setCore_memInv h
    refine ite_outInv (.next h) (ite_outInv (eventDone_memInv (acceptMsg_memInv h₁)) ?_)
    split
    · exact ite_outInv (eventDone_memInv (startHandler_memInv h₁)) (.next h)
    · split
      next e => exact eventDone_memInv ((badEntry_memInv h₁).of_some e)
      · exact .next h

theorem execDeliveryPageResume_memInv {p i s} (h : MemInv s) : OutInv (execDeliveryPageResume p i s) := by
  unfold execDeliveryPageResume
  extract_lets
  split
  · exact .next h
  · exact ite_outInv (.next h) (State.done_memInv (deliver_memInv (State.setPier_memInv h)))

theorem inject_memInv {s p j dst ws} (h : MemInv s) : MemInv (inject s p j dst ws) :=
  setJobOn_memInv (State.countEvent_memInv h)

theorem sendGo_memInv {s p j} (h : MemInv s) : MemInv (sendGo s p j) := by
  unfold sendGo
  extract_lets
  split
  · exact jobErrorFree_memInv h
  · refine ite_memInv (jobErrorFree_memInv h) (ite_memInv (jobError_memInv h) ?_)
    split
    next e => exact jobFault_memInv (GotInv.of_fault e (ite_gotInv (.ok h) (engReadAt_memInv h)))
    next e => exact GotInv.of_wait e (ite_gotInv (.ok h) (engReadAt_memInv h))
    next e => exact inject_memInv (GotInv.of_ok e (ite_gotInv (.ok h) (engReadAt_memInv h)))

theorem sendcMemGo_memInv {s p j} (h : MemInv s) : MemInv (sendcMemGo s p j) := by
  unfold sendcMemGo
  extract_lets
  split
  · exact jobErrorFree_memInv h
  · refine ite_memInv (jobError_memInv h) ?_
    split
    next e => exact jobFault_memInv ((readHead_memInv h).of_fault e)
    next e => exact (readHead_memInv h).of_wait e
    next s₁ _ e₁ =>
      have h₁ : MemInv s₁ := (readHead_memInv h).of_ok e₁
      extract_lets
      refine ite_memInv (jobErrorFree_memInv h₁) ?_
      split
      next e => exact jobFault_memInv ((readSpans_memInv h₁).of_fault e)
      next e => exact (readSpans_memInv h₁).of_wait e
      next e => exact jobErrorFree_memInv ((readSpans_memInv h₁).of_ok e)
      next s₂ _ e₂ =>
        have h₂ : MemInv s₂ := (readSpans_memInv h₁).of_ok e₂
        exact ite_memInv (jobErrorFree_memInv h₂) (inject_memInv h₂)

theorem sendcGo_memInv {s p j} (h : MemInv s) : MemInv (sendcGo s p j) := by
  unfold sendcGo
  split
  · exact jobErrorFree_memInv h
  · extract_lets
    split
    · exact h
    · extract_lets _ _ s₁ s₂
      have h₁ : MemInv s₁ := State.setCore_memInv h
      have h₂ : MemInv s₂ := ite_memInv (jobErrorFree_memInv h₁)
        (ite_memInv (inject_memInv (State.takeFree_memInv h₁)) (inject_memInv h₁))
      exact ite_memInv (ite_memInv h (streamRoom_memInv (setJobOn_memInv (State.setCore_memInv h))))
        (streamRoom_memInv h₂)

theorem postGo_memInv {s p j} (h : MemInv s) : MemInv (postGo s p j) := by
  unfold postGo
  extract_lets
  refine ite_memInv (jobError_memInv h) ?_
  split
  next e => exact jobFault_memInv ((engReadAt_memInv h).of_fault e)
  next e => exact (engReadAt_memInv h).of_wait e
  next s₁ _ e₁ =>
    have h₁ : MemInv s₁ := (engReadAt_memInv h).of_ok e₁
    extract_lets
    split
    · exact jobErrorFree_memInv h₁
    · refine ite_memInv (jobErrorFree_memInv h₁) ?_
      split
      · exact ite_memInv h₁ (endJob_memInv (deliver_memInv
          (ite_memInv (sinkJob_memInv (State.setPier_memInv h₁)) (State.setPier_memInv h₁))))
      · exact endJob_memInv (State.setPier_memInv h₁)

theorem execMessageCommandStart_memInv {p core s} (h : MemInv s) :
    OutInv (execMessageCommandStart p core s) := by
  unfold execMessageCommandStart
  refine ite_outInv (.next h) ?_
  split
  next e => exact eventDone_memInv (memInv_of_fst (headOf_memInv h) e)
  next s₁ _ e₁ =>
    have h₁ : MemInv s₁ := memInv_of_fst (headOf_memInv h) e₁
    refine ite_outInv (eventDone_memInv h₁) (eventDone_memInv ?_)
    split
    · exact sendGo_memInv h₁
    · exact sendcGo_memInv h₁
    · exact sendcMemGo_memInv h₁
    · exact postGo_memInv h₁
    · exact h₁

theorem postRead_memInv {s a x} (h : MemInv s) : GotInv (postRead s a x) := by
  unfold postRead
  refine ite_gotInv (.ok h) ?_
  split
  next e => exact .ok ((operand_memInv h).of_fault e)
  next e => exact .wait ((operand_memInv h).of_wait e)
  next e => exact .ok ((operand_memInv h).of_ok e)

theorem postMark_memInv {s d a x} (h : MemInv s) : MemInv (postMark s d a x) := by
  unfold postMark
  exact ite_memInv h (ite_memInv (ite_memInv (setGranules_memInv h) h)
    (ite_memInv (setGranules_memInv (ite_memInv (setGranules_memInv h) h))
      (ite_memInv (setGranules_memInv h) h)))

theorem dropRecv_memInv {s p id} (h : MemInv s) : MemInv (dropRecv s p id) := State.setPier_memInv h

theorem execRecv_memInv {o s} (h : MemInv s) : OutInv (execRecv o s) := by
  unfold execRecv
  refine conclude_memInv (gateE_memInv h (fun _ => impure_memInv h ?_))
  extract_lets
  split
  · exact .ok (produceWord_memInv h)
  · split
    · exact .ok (produceWord_memInv (dropRecv_memInv h))
    · refine suspend_memInv h (fun _ h₁ => ?_)
      split <;> exact h₁

theorem execRcancel_memInv {o s} (h : MemInv s) : OutInv (execRcancel o s) := by
  unfold execRcancel
  refine conclude_memInv (gateE_memInv h (fun _ => ?_))
  extract_lets
  split
  · split
    next e => exact accessTrap_memInv ((engWriteAt_memInv h).of_fault e)
    next e => exact .wait ((engWriteAt_memInv h).of_wait e)
    next e => exact .ok (setD_memInv (dropRecv_memInv (State.setPier_memInv ((engWriteAt_memInv h).of_ok e))))
  · exact .ok (setD_memInv h)

theorem execOvpop_memInv {o s} (h : MemInv s) : OutInv (execOvpop o s) := by
  unfold execOvpop
  refine conclude_memInv (gateE_memInv h (fun _ => ite_verdictInv (accessTrap_memInv h) ?_))
  split
  · exact .ok (setD_memInv h)
  · exact ite_verdictInv (.ok (setD_memInv h)) (got_memInv (selfStore_memInv (drainCtx_memInv h))
      (fun _ _ h₁ => .ok (setD_memInv (State.setPier_memInv h₁))))

theorem setFifo_memInv {s p n q} (h : MemInv s) : MemInv (setFifo s p n q) := State.setPier_memInv h

theorem fifoPark_memInv {s n pop} (h : MemInv s) : MemInv (fifoPark s n pop) := State.setMe_memInv h

theorem fifoBlock_memInv {s n pop} (h : MemInv s) : VerdictInv (fifoBlock s n pop) :=
  ite_verdictInv (trapFree_memInv h) (.wait (fifoPark_memInv h))

theorem execQpush_memInv {o s} (h : MemInv s) : OutInv (execQpush o s) := by
  unfold execQpush
  refine conclude_memInv (gateE_memInv h (fun _ => ite_verdictInv (trapFree_memInv h)
    (impure_memInv h (ite_verdictInv (fifoBlock_memInv h) (ite_verdictInv (.wait (fifoPark_memInv h)) ?_)))))
  split
  next e => exact .wait (memInv_of_fst (releaseWait_memInv h) e)
  next e => exact .ok (setFifo_memInv (memInv_of_fst (releaseWait_memInv h) e))

theorem execQpop_memInv {o s} (h : MemInv s) : OutInv (execQpop o s) := by
  unfold execQpop
  refine conclude_memInv (gateE_memInv h (fun _ => ite_verdictInv (trapFree_memInv h) (impure_memInv h ?_)))
  split
  · exact fifoBlock_memInv h
  · exact ite_verdictInv (.wait (fifoPark_memInv h)) (.ok (setD_memInv (setFifo_memInv h)))

theorem ringAcquire_memInv {s a} (h : MemInv s) : MemInv (ringAcquire s a) := by
  unfold ringAcquire
  extract_lets
  split
  · exact ite_memInv (dropLines_memInv h) h
  · exact h

theorem execCrwait_memInv {o s} (h : MemInv s) : OutInv (execCrwait o s) := by
  unfold execCrwait
  refine conclude_memInv (gateE_memInv h (fun _ => ite_verdictInv (accessTrap_memInv h)
    (got_memInv (operand_memInv h) (fun _ _ h₁ => ?_))))
  split
  · exact trapFree_memInv h₁
  · exact got_memInv (operand_memInv h₁) (fun _ _ h₂ => ite_verdictInv
      (.ok (setD_memInv (ringAcquire_memInv h₂))) (block_memInv (dropArrived_memInv (ringAcquire_memInv h₂))))

/-! ### Queues and launches -/

theorem execQueueErrorReset_memInv {n enabled s} (h : MemInv s) :
    OutInv (execQueueErrorReset n enabled s) := by
  unfold execQueueErrorReset
  split
  · exact .next h
  · exact State.done_memInv (State.setQueue_memInv h)

theorem writeCompletion_memInv {s agent vd job a bs} (h : MemInv s) :
    MemInv (writeCompletion s agent vd job a bs).1 := by
  unfold writeCompletion
  refine ite_fst_memInv h ?_
  split
  next e => exact (engWriteAt_memInv h).of_ok e
  next e => exact (engWriteAt_memInv h).of_wait e
  next s₁ _ e₁ =>
    have h₁ : MemInv s₁ := (engWriteAt_memInv h).of_fault e₁
    exact ite_fst_memInv (askReclaim_memInv h₁) h₁

theorem jobSettle_memInv {s job} (h : MemInv s) : MemInv (jobSettle s job) := ite_memInv h h

theorem jobLevel_memInv {s job} (h : MemInv s) : MemInv (jobLevel s job) := ite_memInv h (setCounter_memInv h)

theorem endLaunchOf_memInv {s qn job seq signal} (h : MemInv s) :
    MemInv (endLaunchOf s qn job seq signal) := by
  unfold endLaunchOf
  extract_lets s₁ s₂
  have h₁ : MemInv s₁ := ite_memInv (addCounter_memInv h) h
  have h₂ : MemInv s₂ := by
    unfold s₂
    split
    · exact State.setQueue_memInv h₁
    · exact h₁
  exact addCounter_memInv h₂

theorem finishPacket_memInv {s qn} (h : MemInv s) : MemInv (finishPacket s qn) := by
  unfold finishPacket
  split
  · exact h
  · split
    · exact h
    · extract_lets _ p _ _ s₁
      have h₁ : MemInv p.1 := ite_fst_memInv h (writeCompletion_memInv h)
      have h₂ : MemInv s₁ := dropArrived_memInv (State.setQueue_memInv h₁)
      exact ite_memInv (State.setQueue_memInv h₁) (jobSettle_memInv (endLaunchOf_memInv h₂))

theorem endPacket_memInv {s qn status cause} (h : MemInv s) : MemInv (endPacket s qn status cause) := by
  unfold endPacket
  split
  · exact h
  · exact finishPacket_memInv (ite_memInv (retryFrames_memInv
      (foldl_memInv (fun _ _ => unpinRange_memInv) (State.setQueue_memInv h))) (State.setQueue_memInv h))

theorem listRead_memInv {s qn q final a n} (h : MemInv s) : ListInv (listRead s qn q final a n) := by
  unfold listRead
  split
  next e => exact .ok ((engReadAt_memInv h).of_ok e)
  next e => exact .wait ((engReadAt_memInv h).of_wait e)
  next s₁ _ e₁ =>
    have h₁ : MemInv s₁ := (engReadAt_memInv h).of_fault e₁
    split
    · exact .wait (askReclaim_memInv h₁)
    · exact .bad

theorem admitLaunch_memInv {s qn q seq p id gens} (h : MemInv s) :
    MemInv (admitLaunch s qn q seq p id gens) := by
  unfold admitLaunch
  extract_lets _ _ _ s₁ s₂ s₃ s₄
  have h₁ : MemInv s₁ := setCounter_memInv h
  have h₂ : MemInv s₂ := State.setQueue_memInv (State.setLaunch_memInv h₁)
  have h₃ : MemInv s₃ := dropArrived_memInv h₂
  have h₄ : MemInv s₄ := foldl_memInv (fun _ _ => pinRange_memInv) h₃
  refine ite_memInv h₄ ?_
  split
  · exact h₄
  · exact ite_memInv (State.setVdev_memInv h₄) (coresGather_memInv (State.setVdev_memInv h₄))

theorem admitNumber_memInv {s qn q seq p final} (h : MemInv s) : MemInv (admitNumber s qn q seq p final) := by
  unfold admitNumber
  extract_lets
  split
  · exact State.setQueue_memInv h
  · split
    next e => exact admitLaunch_memInv (GotInv.of_ok e (ite_gotInv (allGens_memInv h) (.ok h)))
    next e => exact State.setQueue_memInv (GotInv.of_wait e (ite_gotInv (allGens_memInv h) (.ok h)))
    next s₁ _ e₁ =>
      have h₁ : MemInv s₁ := GotInv.of_fault e₁ (ite_gotInv (allGens_memInv h) (.ok h))
      exact ite_memInv (State.setQueue_memInv (askReclaim_memInv h₁)) (endPacket_memInv h₁)

theorem admitRanges_memInv {s qn q seq p final} (h : MemInv s) : MemInv (admitRanges s qn q seq p final) :=
  ite_memInv (admitNumber_memInv h) (State.setQueue_memInv h)

theorem readRecords_memInv {qn q final} : ∀ {as s out}, MemInv s → RecordsInv
  (readRecords qn q final as s out)
  | [], _, _, h => .ok h
  | a :: as, s, out, h => by
    unfold readRecords
    split
    next e => exact readRecords_memInv ((listRead_memInv h).of_ok e)
    · exact .error (listRead_memInv h)

theorem admitPure_memInv {s qn q seq p final} (h : MemInv s) : MemInv (admitPure s qn q seq p final) := by
  unfold admitPure
  refine ite_memInv (admitRanges_memInv h) (ite_memInv (endPacket_memInv h) ?_)
  extract_lets n later
  have hlater : ∀ {r}, ListInv r → MemInv (later r)
    | _, .wait h => State.setQueue_memInv h
    | _, .bad => endPacket_memInv h
    | _, .ok h => h
  split
  next s₁ _ e₁ =>
    have h₁ : MemInv s₁ := (listRead_memInv h).of_ok e₁
    extract_lets
    split
    next e₂ => exact hlater ((readRecords_memInv h₁).of_error e₂)
    next s₂ rs e₂ =>
      have h₂ : MemInv s₂ := (readRecords_memInv h₁).of_ok e₂
      extract_lets _ _ _ _ go
      have hgo : ∀ s, MemInv s → MemInv (go s) := fun _ h =>
        ite_memInv (admitRanges_memInv (State.setQueue_memInv h)) (endPacket_memInv h)
      refine ite_memInv (endPacket_memInv h₂) (ite_memInv (hgo _ h₂) ?_)
      split
      next s₃ _ e₃ =>
        have h₃ : MemInv s₃ := (listRead_memInv h₂).of_ok e₃
        exact ite_memInv (endPacket_memInv h₃) (hgo _ (State.setDeck_memInv h₃))
      · exact hlater (listRead_memInv h₂)
  · exact hlater (listRead_memInv h)

theorem admitCores_memInv {s qn q seq p final} (h : MemInv s) : MemInv (admitCores s qn q seq p final) :=
  ite_memInv (endPacket_memInv h) (admitPure_memInv h)

theorem admitDepend_memInv {s qn q seq p final} (h : MemInv s) : MemInv (admitDepend s qn q seq p final) :=
  ite_memInv (admitCores_memInv h) (State.setQueue_memInv h)

theorem admitAcq_memInv {s qn q seq p final} (h : MemInv s) : MemInv (admitAcq s qn q seq p final) :=
  ite_memInv (State.setQueue_memInv h) (admitDepend_memInv h)

theorem admitCheck_memInv {s qn q seq p final} (h : MemInv s) : MemInv (admitCheck s qn q seq p final) := by
  unfold admitCheck
  refine ite_memInv (endPacket_memInv h) (ite_memInv (admitAcq_memInv h) ?_)
  split
  next e => exact State.setQueue_memInv ((listRead_memInv h).of_wait e)
  · exact endPacket_memInv h
  next s₁ _ e₁ =>
    have h₁ : MemInv s₁ := (listRead_memInv h).of_ok e₁
    exact ite_memInv (endPacket_memInv h₁) (ite_memInv (endPacket_memInv h₁)
      (admitAcq_memInv (State.setQueue_memInv h₁)))

theorem admitRun_memInv {s qn final} (h : MemInv s) : MemInv (admitRun s qn final) := by
  unfold admitRun
  split
  · exact h
  · split
    · exact h
    · refine ite_memInv (finishPacket_memInv h) (ite_memInv (endPacket_memInv h) ?_)
      split
      · exact admitCheck_memInv h
      · exact admitAcq_memInv h
      · exact admitDepend_memInv h
      · exact admitPure_memInv h
      · exact admitRanges_memInv h
      · exact admitNumber_memInv h

theorem execPacketAdmit_memInv {qn s} (h : MemInv s) : OutInv (execPacketAdmit qn s) := by
  unfold execPacketAdmit
  split
  · exact .next h
  · exact ite_outInv (.next h) (ite_outInv (State.done_memInv (admitRun_memInv h))
      (ite_outInv (.next h) (State.done_memInv (admitRun_memInv
        (addCounter_memInv (jobLevel_memInv (State.setQueue_memInv h)))))))

theorem execAdmissionNotice_memInv {qn ans s} (h : MemInv s) : OutInv (execAdmissionNotice qn ans s) := by
  unfold execAdmissionNotice
  split
  · exact .next h
  · refine ite_outInv (.next h) ?_
    split
    · extract_lets s₁ s₂
      have h₁ : MemInv s₁ := pagerMaps_memInv h
      have h₂ : MemInv s₂ := foldl_memInv (fun _ _ => pinRange_memInv) h₁
      exact ite_outInv (State.done_memInv (admitRun_memInv (State.setQueue_memInv h₂)))
        (State.done_memInv (admitRun_memInv h₁))
    · exact State.done_memInv (admitRun_memInv h)
    · exact State.done_memInv (admitRun_memInv h)

theorem launchWalk_memInv {s l r} (h : MemInv s) : MemInv (launchWalk s l r) := by
  unfold launchWalk
  split
  · exact h
  · exact enterWalk_memInv (State.setLaunch_memInv h)

theorem reuseRetire_memInv {s l} (h : MemInv s) : MemInv (reuseRetire s l) := by
  unfold reuseRetire
  split
  · exact h
  · exact addCounter_memInv (State.setLaunch_memInv h)

theorem execUnitGenerate_memInv {l s} (h : MemInv s) : OutInv (execUnitGenerate l s) := by
  unfold execUnitGenerate
  split
  · exact .next h
  · extract_lets i
    clear_value i
    split
    · exact .next h
    · refine ite_outInv (.next h) (ite_outInv (State.done_memInv (State.setLaunch_memInv h)) ?_)
      extract_lets place
      have hplace : ∀ s, MemInv s → OutInv (place s) := by
        intro s h
        unfold place
        split
        · exact .next h
        next e => exact State.done_memInv (launchWalk_memInv ((generate_memInv h).of_some e))
      refine ite_outInv (hplace _ h) ?_
      split
      next e => exact State.done_memInv ((reuseCheck_memInv h).of_wait e)
      next e => exact hplace _ ((reuseCheck_memInv h).of_place e)
      next e => exact State.done_memInv (reuseRetire_memInv
        (State.setLaunch_memInv ((reuseCheck_memInv h).of_retire e)))
      next s₁ _ _ _ e₁ =>
        have h₁ : MemInv s₁ := (reuseCheck_memInv h).of_copy e₁
        split
        · exact .next h₁
        next s₂ e₂ =>
          have h₂ : MemInv s₂ := (generate_memInv h₁).of_some e₂
          refine State.done_memInv ?_
          split
          · exact State.setLaunch_memInv h₂
          · exact h₂

theorem execReuseCopyDone_memInv {l s} (h : MemInv s) : OutInv (execReuseCopyDone l s) := by
  unfold execReuseCopyDone
  split
  · exact .next h
  · split
    · exact .next h
    · extract_lets _ _ f₁ _ _ p f₂
      have h₁ : ∀ s, MemInv s → MemInv (f₁ s) := by
        intro _ h₂
        unfold f₁
        refine dropArrived_memInv ?_
        split
        · exact State.setLaunch_memInv h₂
        · exact h₂
      have h₃ : MemInv p.s := reuseCopyOut_memInv h
      have h₄ : ∀ s, MemInv s → OutInv (f₂ s) := by
        intro _ h₅
        unfold f₂
        refine State.done_memInv ?_
        split
        · exact State.setLaunch_memInv h₅
        · exact h₅
      refine ite_outInv (.next h) (ite_outInv (State.done_memInv (h₁ _ h))
        (ite_outInv (State.done_memInv (launchWalk_memInv (h₁ _ h₃))) (ite_outInv (h₄ _ h₃) ?_)))
      split
      next e => exact h₄ _ ((allGens_memInv h₃).of_wait e)
      · exact State.done_memInv (launchWalk_memInv (h₁ _ h₃))
      next s₁ _ e₁ =>
        have h₆ : MemInv s₁ := (allGens_memInv h₃).of_ok e₁
        refine ite_outInv (State.done_memInv (launchWalk_memInv (h₁ _ h₆)))
          (State.done_memInv (retireUnit_memInv (setRecState_memInv ?_)))
        split
        · exact State.setLaunch_memInv (h₁ _ h₆)
        · exact h₁ _ h₆

theorem endLaunch_memInv {s l x} (h : MemInv s) : MemInv (endLaunch s l x) :=
  jobSettle_memInv (dropCounter_memInv (endLaunchOf_memInv (State.setLaunch_memInv h)))

theorem recordLaunch_memInv {s l x} (h : MemInv s) : MemInv (recordLaunch s l x) := by
  unfold recordLaunch
  extract_lets _ p
  have h₁ : MemInv p.1 := writeCompletion_memInv (State.setLaunch_memInv h)
  exact ite_memInv (State.setLaunch_memInv h₁) (ite_memInv h₁ (endLaunch_memInv h₁))

theorem execLaunchComplete_memInv {l s} (h : MemInv s) : OutInv (execLaunchComplete l s) := by
  unfold execLaunchComplete
  split
  · exact .next h
  · split
    · exact .next h
    · exact ite_outInv (.next h) (State.done_memInv (recordLaunch_memInv h))
    · exact ite_outInv (.next h) (State.done_memInv (endLaunch_memInv h))
    · split
      · exact .next h
      · exact ite_outInv (.next h) (State.done_memInv
          (recordLaunch_memInv (ite_memInv h (retryFrames_memInv
            (foldl_memInv (fun _ _ => unpinRange_memInv) h)))))

theorem execLaunch_memInv {o s} (h : MemInv s) : OutInv (execLaunch o s) := by
  unfold execLaunch
  refine conclude_memInv (gateE_memInv h (fun _ => ?_))
  extract_lets
  split
  · exact trapFree_memInv h
  · refine ite_verdictInv (trapFree_memInv h) (impure_memInv h
      (ite_verdictInv (accessTrap_memInv h) (got_memInv (operand_memInv h)
        (fun _ _ h₁ => ite_verdictInv (.wait (releaseWait_memInv h₁)) ?_))))
    split
    · exact .wait (releaseWait_memInv h₁)
    · exact ite_verdictInv (got_memInv (engWriteAt_memInv (releaseWait_memInv h₁))
        (fun _ _ h₂ => .ok (setD_memInv (writeWidx_memInv h₂)))) (.ok (setD_memInv (releaseWait_memInv h₁)))

/-! ### Shoot-downs, leases, migration and collapse -/

theorem shootInvalidate_memInv {s p vd r} (h : MemInv s) : MemInv (shootInvalidate s p vd r) :=
  State.setDeck_memInv (foldl_memInv (fun _ _ => State.setCore_memInv) (State.setPier_memInv h))

theorem shootComplete_memInv {s p} (h : MemInv s) : MemInv (shootComplete s p) :=
  foldl_memInv (fun _ _ => drainN_memInv) h

theorem execShootdownPier_memInv {i p s} (h : MemInv s) : OutInv (execShootdownPier i p s) := by
  unfold execShootdownPier
  split
  · exact .next h
  · exact ite_outInv (.next h) (State.done_memInv (shootInvalidate_memInv h))

theorem execShootdownAck_memInv {i p s} (h : MemInv s) : OutInv (execShootdownAck i p s) := by
  unfold execShootdownAck
  split
  · exact .next h
  · refine ite_outInv (.next h) ?_
    extract_lets _ s₁ s₂
    have h₁ : MemInv s₁ := shootComplete_memInv h
    clear_value s₁
    have h₂ : MemInv s₂ := h₁
    exact ite_outInv (State.done_memInv h₁) (State.done_memInv
      (foldl_memInv (fun _ _ => advanceStop_memInv) h₂))

theorem shootNow_memInv {s vd base pages} (h : MemInv s) : MemInv (shootNow s vd base pages) := by
  unfold shootNow
  split
  · exact h
  · exact foldl_memInv (fun _ _ h₁ => shootComplete_memInv (shootInvalidate_memInv h₁)) h

theorem tlbinvForm_memInv {s o all} (h : MemInv s) : OutInv (tlbinvForm s o all) :=
  conclude_memInv (gateE_memInv h (fun _ => ite_verdictInv (trapFree_memInv h)
    (atLevel_memInv h (ite_verdictInv (ite_verdictInv (.wait h) (.ok h))
      (ite_verdictInv (.wait (releaseWait_memInv h))
        (ite_verdictInv (.ok (releaseWait_memInv h)) (.wait (State.setMe_memInv (releaseWait_memInv h)))))))))

theorem execLease_memInv {o s} (h : MemInv s) : OutInv (execLease o s) := by
  unfold execLease
  refine conclude_memInv (gateE_memInv h (fun _ => ?_))
  split
  · exact trapFree_memInv h
  · extract_lets v
    refine ite_verdictInv (ite_verdictInv (trapFree_memInv h) (accessTrap_memInv h)) ?_
    split
    · exact trapFree_memInv h
    · unfold v
      refine ite_verdictInv (ite_verdictInv (trapFree_memInv h) ?_) (accessTrap_memInv h)
      split
      · exact .ok (setD_memInv h)
      · refine ite_verdictInv (.ok (setD_memInv h)) ?_
        split
        · exact .wait h
        · exact ite_verdictInv (.wait h) (.ok (setD_memInv (State.setLaunch_memInv h)))

theorem execLeaseRangeResident_memInv {i stores s} (h : MemInv s) :
    OutInv (execLeaseRangeResident i stores s) := by
  unfold execLeaseRangeResident
  split
  · exact .next h
  · split
    · exact .next h
    · exact ite_outInv (State.done_memInv (pagerMaps_memInv h))
        (State.done_memInv (pinRange_memInv (pagerMaps_memInv h)))

theorem execUnlease_memInv {o s} (h : MemInv s) : OutInv (execUnlease o s) := by
  unfold execUnlease
  refine conclude_memInv (gateE_memInv h (fun _ => ite_verdictInv (trapFree_memInv h)
    (ite_verdictInv (trapFree_memInv h) ?_)))
  split
  · exact trapFree_memInv h
  · refine ite_verdictInv (trapFree_memInv h) (ite_verdictInv (.wait (releaseWait_memInv h)) ?_)
    split
    · exact .ok (releaseWait_memInv h)
    · exact .ok (retryFrames_memInv (unpinRange_memInv (State.setLaunch_memInv (releaseWait_memInv h))))

theorem execPgadv_memInv {o s} (h : MemInv s) : OutInv (execPgadv o s) :=
  conclude_memInv (gateE_memInv h (fun _ => impure_memInv h
    (ite_verdictInv (accessTrap_memInv h) (got_memInv (operand_memInv h)
      (fun _ _ h₁ => ite_verdictInv (trapFree_memInv h₁) (.ok h₁))))))

theorem adviseLeaf_memInv {s vd va} {f : Nat → Nat} (h : MemInv s) : MemInv (adviseLeaf s vd va f) := by
  unfold adviseLeaf
  split
  · exact ite_memInv (pagerStore_memInv h) h
  · exact h

theorem advisePage_memInv {s v i} (h : MemInv s) : MemInv (advisePage s v i) := by
  unfold advisePage
  extract_lets _ _ _ s₁
  have h₁ : MemInv s₁ := adviseLeaf_memInv h
  split
  case h_6 => exact sysWrite_memInv h₁
  case h_8 => exact h
  all_goals exact adviseLeaf_memInv h

theorem execPagerAdviceApply_memInv {stores s} (h : MemInv s) : OutInv (execPagerAdviceApply stores s) := by
  unfold execPagerAdviceApply
  split
  · exact .next h
  · extract_lets s₁ _ s₂ s₃
    have h₁ : MemInv s₁ := pagerMaps_memInv h
    have h₂ : MemInv s₂ := foldl_memInv (fun _ _ => advisePage_memInv) h₁
    have h₃ : MemInv s₃ := ite_memInv h₂ h₂
    exact ite_outInv (.next h) (State.done_memInv (shootNow_memInv h₃))

theorem execPgqry_memInv {o s} (h : MemInv s) : OutInv (execPgqry o s) := by
  unfold execPgqry
  refine conclude_memInv (gateE_memInv h (fun _ => ?_))
  split <;> exact .ok (setD_memInv h)

theorem execPgqryRes_memInv {o s} (h : MemInv s) : OutInv (execPgqryRes o s) := by
  unfold execPgqryRes
  refine conclude_memInv (gateE_memInv h (fun _ => ?_))
  extract_lets
  split <;> exact .ok (setD_memInv h)

theorem execMigrateThreshold_memInv {pa toPa s} (h : MemInv s) : OutInv (execMigrateThreshold pa toPa s) := by
  unfold execMigrateThreshold
  split
  · exact .next h
  · split
    · extract_lets
      split
      · exact .next h
      · split
        · exact .next h
        · exact ite_outInv (.next h) (State.done_memInv h)
    · exact .next h

theorem forwardQueued_memInv {s t r} (h : MemInv s) : MemInv (forwardQueued s t r) := resend_memInv h

theorem sendAck_memInv {s src seq pa} (h : MemInv s) : MemInv (sendAck s src seq pa) := State.emit_memInv h

theorem execMigrateHandover_memInv {pa s} (h : MemInv s) : OutInv (execMigrateHandover pa s) := by
  unfold execMigrateHandover
  split
  · exact .next h
  · refine ite_outInv (.next h) ?_
    extract_lets s₁
    have h₁ : MemInv s₁ := shootNow_memInv h
    split
    · exact .next h₁
    · extract_lets _ _ s₂ s₃ s₄ s₅ s₆
      have h₂ : MemInv s₂ := h₁.withMem (wf_memClear _ _ h₁.mem)
      have h₃ : MemInv s₃ := State.emit_memInv h₂
      have h₄ : MemInv s₄ := by
        unfold s₄
        split
        · exact pagerStore_memInv h₃
        · exact h₃
      have h₅ : MemInv s₅ := foldl_memInv (fun _ _ => forwardQueued_memInv) h₄
      have h₆ : MemInv s₆ := foldl_memInv (fun _ _ => sendAck_memInv) h₅
      exact eventDone_memInv (foldl_memInv (fun _ _ => advanceStop_memInv) h₆)

theorem splitLeaf_memInv {s a x table} (h : MemInv s) : MemInv (splitLeaf s a x table) :=
  pagerStore_memInv (foldl_memInv (fun _ _ => pagerStore_memInv) h)

theorem collapseHere_memInv {s vd va peer frame split table} (h : MemInv s) :
    MemInv (collapseHere s vd va peer frame split table) := by
  unfold collapseHere
  extract_lets f
  have h₁ : ∀ s, MemInv s → MemInv (f s) := by
    intro _ h₂
    unfold f
    split
    · exact h₂
    · exact ite_memInv h₂ (shootNow_memInv (pagerStore_memInv h₂))
  split
  · exact ite_memInv (h₁ _ (splitLeaf_memInv h)) (h₁ _ h)
  · exact h₁ _ h

theorem adviceArrive_memInv {s tenant src base pages split writes} (h : MemInv s) :
    MemInv (adviceArrive s tenant src base pages split writes) :=
  h

theorem collapseGo_memInv {s c} (h : MemInv s) : MemInv (collapseGo s c).1 := by
  unfold collapseGo
  split
  · refine ite_fst_memInv h ?_
    dsimp only
    exact foldl_memInv (fun _ _ => State.emit_memInv) (collapseHere_memInv h)
  · exact h

theorem collapseHeard_memInv {s vd va} (h : MemInv s) : MemInv (collapseHeard s vd va) := h

theorem collapseOver_memInv {s c} (h : MemInv s) : MemInv (collapseOver s c) :=
  ite_memInv (collapseHeard_memInv h) (State.emit_memInv h)

theorem collapseNext_memInv : ∀ {fuel s vd}, MemInv s → MemInv (collapseNext fuel s vd)
  | 0, _, _, h => h
  | fuel + 1, s, vd, h => by
    unfold collapseNext
    split
    · exact h
    next c _ =>
      have h₁ : MemInv (collapseGo s c).1 := collapseGo_memInv h
      exact ite_memInv h (ite_memInv (collapseNext_memInv (collapseOver_memInv h₁)) h₁)

theorem collapseArrive_memInv {s c} (h : MemInv s) : MemInv (collapseArrive s c) := collapseNext_memInv h

theorem collapseAcked_memInv {s tenant src} (h : MemInv s) : MemInv (collapseAcked s tenant src) := by
  unfold collapseAcked
  split
  · exact h
  · exact ite_memInv (collapseNext_memInv (collapseOver_memInv h)) h

theorem execCollapseRequest_memInv {vd va writer frame table master s} (h : MemInv s) :
    OutInv (execCollapseRequest vd va writer frame table master s) := by
  unfold execCollapseRequest
  split
  · exact ite_outInv (.next h) (ite_outInv (State.done_memInv (collapseArrive_memInv h))
      (State.done_memInv (State.emit_memInv h)))
  · exact .next h

theorem collapseAsked_memInv {s tenant src va frame table pinned} (h : MemInv s) :
    OutInv (collapseAsked s tenant src va frame table pinned) := by
  unfold collapseAsked
  split
  · exact State.done_memInv (State.emit_memInv h)
  · exact ite_outInv (.next h) (State.done_memInv (collapseArrive_memInv h))

theorem collapseTold_memInv {s tenant src va writer frame table split} (h : MemInv s) :
    OutInv (collapseTold s tenant src va writer frame table split) := by
  unfold collapseTold
  split
  · exact State.done_memInv (State.emit_memInv h)
  · split
    · exact .next h
    · exact ite_outInv (.next h) (State.done_memInv (State.emit_memInv (collapseHere_memInv h)))

/-! ### The returns of entries, preemption and halts -/

theorem eretWait_memInv {s} (h : MemInv s) : MemInv (eretWait s).1 := releaseWait_memInv h

theorem eretClean_memInv {s} (h : MemInv s) : MemInv (eretClean s) := leaveGuards_memInv h

theorem eretEntry_memInv {s} {body : EntryKind → Verdict} (h : MemInv s) (hbody : ∀ x, VerdictInv (body x)) :
    VerdictInv (eretEntry s body) := by
  unfold eretEntry
  refine atLevel_memInv h ?_
  split
  · exact hbody _
  · exact trapFree_memInv h

theorem endEntryRecord_memInv {s} (h : MemInv s) : MemInv (endEntryRecord s) :=
  dropRecord_memInv (freeCtx_memInv (eretClean_memInv h))

theorem execEretResume_memInv {o s} (h : MemInv s) : OutInv (execEretResume o s) := by
  unfold execEretResume
  exact conclude_memInv (gateE_memInv h (fun _ => ite_verdictInv (trapFree_memInv h)
    (eretEntry_memInv h (fun _ => ite_verdictInv (trapFree_memInv h)
      (ite_verdictInv (.wait (eretWait_memInv h)) (.left
        (State.setCtx_memInv (restoreUnit_memInv (setRecCause_memInv
          (ite_memInv (ite_memInv (eretClean_memInv (eretWait_memInv h))
            (setRecWord_memInv (eretClean_memInv (eretWait_memInv h))))
              (setRecWord_memInv (ite_memInv (eretClean_memInv (eretWait_memInv h))
                (setRecWord_memInv (eretClean_memInv (eretWait_memInv h)))))))))))))))

theorem execEretEnd_memInv {o s} (h : MemInv s) : OutInv (execEretEnd o s) := by
  unfold execEretEnd
  refine conclude_memInv (gateE_memInv h (fun _ => ?_))
  extract_lets _ p s₁
  have h₁ : MemInv p.1 := eretWait_memInv h
  have h₂ : MemInv s₁ := eretClean_memInv h₁
  split
  · exact trapFree_memInv h
  · exact eretEntry_memInv h (fun _ => ite_verdictInv (.wait h₁)
      (ite_verdictInv (.left (endEntryRecord_memInv h₁)) (.left (finishRecord_memInv (freeCtx_memInv h₂)))))

theorem execEretPark_memInv {s} (h : MemInv s) : OutInv (execEretPark s) :=
  conclude_memInv (gateE_memInv h (fun _ => eretEntry_memInv h
    (fun _ => ite_verdictInv (.wait (eretWait_memInv h))
      (ite_verdictInv (.left (endEntryRecord_memInv (eretWait_memInv h)))
        (.left (freeCtx_memInv (eretClean_memInv (eretWait_memInv h))))))))

theorem execNoticeRaise_memInv {i s} (h : MemInv s) : OutInv (execNoticeRaise i s) := by
  unfold execNoticeRaise
  split
  · exact .next h
  · refine ite_outInv (.next h) (ite_outInv (State.done_memInv h) ?_)
    split
    · exact .next h
    next e => exact State.done_memInv (enterWalk_memInv
      (writeRecord_memInv ((takeRecord_memInv h).of_some e)))

theorem frameExhausted_memInv {s job} (h : MemInv s) : MemInv (frameExhausted s job) :=
  ite_memInv (cancelJob_memInv h) h

theorem readyWith_memInv {s vd r cause} (h : MemInv s) : MemInv (readyWith s vd r cause) :=
  enterWalk_memInv (setRecState_memInv (setRecCause_memInv h))

theorem pagerUnit_memInv {s vd r ans} (h : MemInv s) : OutInv (pagerUnit s vd r ans) := by
  unfold pagerUnit
  extract_lets
  refine ite_outInv (.next h) ?_
  split
  · exact ite_outInv (.next h) (State.done_memInv (readyWith_memInv (pagerMaps_memInv h)))
  · exact ite_outInv (.next h) (State.done_memInv (taint_memInv (readyWith_memInv h)))
  · exact ite_outInv (.next h) (State.done_memInv (frameExhausted_memInv (setRecCause_memInv h)))
  · exact ite_outInv (State.done_memInv (frameExhausted_memInv h)) (.next h)

theorem pagerCtx_memInv {s c ans} (h : MemInv s) : OutInv (pagerCtx s c ans) := by
  unfold pagerCtx
  extract_lets _ _ s₁
  have h₁ : MemInv s₁ := State.setCtx_memInv h
  split
  · exact .next h
  · refine ite_outInv (.next h) ?_
    extract_lets _ s₂
    have h₂ : MemInv s₂ := cancelJob_memInv (State.setCtx_memInv h)
    split
    · exact ite_outInv (.next h) (State.done_memInv (State.setCtx_memInv (pagerMaps_memInv h)))
    · exact .next h
    · exact State.done_memInv (frameExhausted_memInv h)
    · refine ite_outInv (.next h) ?_
      split
      · exact State.done_memInv (stopCtx_memInv (State.setCtx_memInv h))
      · exact State.done_memInv (ite_memInv (stopCtx_memInv h₂) h₂)
      · exact State.done_memInv h₁

theorem jobGiveUp_memInv {s p j cause va} (h : MemInv s) : MemInv (jobGiveUp s p j cause va) := by
  unfold jobGiveUp
  extract_lets
  split
  · exact copyEnd_memInv h
  · exact copyEnd_memInv h
  · exact acciFail_memInv h
  · exact encFail_memInv h (fun _ => jobError_memInv)
  · exact ite_memInv (matPassOn_memInv h) (jobError_memInv h)

theorem pagerAcci_memInv {s p j ans} (h : MemInv s) : OutInv (pagerAcci s p j ans) := by
  unfold pagerAcci
  extract_lets
  split
  · exact State.done_memInv (setJobOn_memInv (pagerMaps_memInv h))
  · exact ite_outInv (State.done_memInv (acciLost_memInv h)) (.next h)
  · exact .next h
  · exact State.done_memInv (frameExhausted_memInv h)

theorem pagerJob_memInv {s p id ans} (h : MemInv s) : OutInv (pagerJob s p id ans) := by
  unfold pagerJob
  extract_lets
  split
  · refine ite_outInv (pagerAcci_memInv h) (State.done_memInv ?_)
    split
    · exact setJobOn_memInv (pagerMaps_memInv h)
    · exact ite_memInv (jobGiveUp_memInv h) h
    · exact h
    · exact frameExhausted_memInv h
  · split
    · exact .next h
    · extract_lets
      split
      · exact State.done_memInv (deliver_memInv (State.setPier_memInv (pagerMaps_memInv h)))
      · exact State.done_memInv (stopDelivery_memInv (State.setPier_memInv h))
      · exact .next h
      · exact State.done_memInv (frameExhausted_memInv h)

theorem execPagerResolve_memInv {t ans s} (h : MemInv s) : OutInv (execPagerResolve t ans s) := by
  unfold execPagerResolve
  split
  · exact pagerUnit_memInv h
  · exact pagerCtx_memInv h
  · exact pagerJob_memInv h

theorem execUnitRelease_memInv {vd r p s} (h : MemInv s) : OutInv (execUnitRelease vd r p s) := by
  unfold execUnitRelease
  split
  · exact .next h
  · exact ite_outInv (.next h) (State.done_memInv (enterWalk_memInv (setRecState_memInv h)))

theorem execPreempt_memInv {o s} (h : MemInv s) : OutInv (execPreempt o s) := by
  unfold execPreempt
  refine conclude_memInv (gateE_memInv h (fun _ => ?_))
  split
  · exact trapFree_memInv h
  · refine atLevel_memInv h ?_
    split
    · exact ite_verdictInv (.wait h) (.ok (setD_memInv h))
    · split
      · exact .ok (setD_memInv h)
      · exact ite_verdictInv (.ok (setD_memInv h)) (.wait h)

theorem setHalt_memInv {s k on} (h : MemInv s) : MemInv (setHalt s k on) := State.setCore_memInv h

theorem haltForm_memInv {s o} {body : List Nat → Verdict} (h : MemInv s) (hbody : ∀ x, VerdictInv (body x)) :
    OutInv (haltForm s o body) :=
  conclude_memInv (gateE_memInv h (fun _ => ite_verdictInv (trapFree_memInv h) (atLevel_memInv h (hbody _))))

theorem execDbghalt_memInv {o s} (h : MemInv s) : OutInv (execDbghalt o s) :=
  haltForm_memInv h (fun _ => ite_verdictInv (.wait
    (foldl_memInv (fun _ _ h₁ => ite_memInv h₁ (setHalt_memInv h₁)) h))
      (.ok (setD_memInv (ite_memInv (setHalt_memInv
        (foldl_memInv (fun _ _ h₂ => ite_memInv h₂ (setHalt_memInv h₂)) h))
          (foldl_memInv (fun _ _ h₃ => ite_memInv h₃ (setHalt_memInv h₃)) h)))))

theorem execDbghaltStep_memInv {o s} (h : MemInv s) : OutInv (execDbghaltStep o s) :=
  haltForm_memInv h (fun _ => .ok (foldl_memInv (fun _ _ h₁ => ite_memInv (State.setCore_memInv h₁) h₁) h))

/-! ### The fabric -/

theorem keepSeq_memInv {s src seq reply} (h : MemInv s) : MemInv (keepSeq s src seq reply) := h

theorem pathWorks_memInv {s r} (h : MemInv s) : MemInv (pathWorks s r) := h

theorem forget_memInv {s r} (h : MemInv s) : MemInv (forget s r) := sendWaiting_memInv h

theorem arrive_memInv {s agent r bs f} (h : MemInv s) : MemInv (arrive s agent r bs f) := ite_memInv h h

theorem feedLoad_memInv {s c r bs bad} (h : MemInv s) : MemInv (feedLoad s c r bs bad) :=
  State.setCtx_memInv h

theorem zeroLoad_memInv {s c r} (h : MemInv s) : MemInv (zeroLoad s c r) :=
  noteUnknown_memInv (State.setCtx_memInv h)

theorem fillLine_memInv {s r bs} (h : MemInv s) : MemInv (fillLine s r bs) := by
  unfold fillLine
  split
  · exact h
  · exact State.setDeck_memInv h

theorem splitGiant_memInv {s a x table} (h : MemInv s) : MemInv (splitGiant s a x table) :=
  pagerStore_memInv (foldl_memInv (fun _ _ => pagerStore_memInv) h)

theorem splitDown_memInv {s vd va tables} (h : MemInv s) : MemInv (splitDown s vd va tables) := by
  unfold splitDown
  split
  · extract_lets s₁
    have h₁ : MemInv s₁ := splitGiant_memInv h
    split
    · exact splitLeaf_memInv h₁
    · exact h₁
  · exact splitLeaf_memInv h
  · exact h

theorem pullsOver_memInv {s vd} (h : MemInv s) : MemInv (pullsOver s vd) := by
  unfold pullsOver
  split
  · exact h
  · exact ite_memInv h (State.setVdev_memInv h)

theorem fixRecords_memInv {s vd} (h : MemInv s) : MemInv (fixRecords s vd) := by
  unfold fixRecords
  split
  · exact h
  · exact foldl_memInv (fun _ _ => sysWrite_memInv) (State.setVdev_memInv h)

theorem partArrive_memInv {s vd va frame tables} (h : MemInv s) :
    MemInv (partArrive s vd va frame tables) := by
  unfold partArrive
  extract_lets s₁
  have h₁ : MemInv s₁ := splitDown_memInv h
  split
  · exact pullsOver_memInv (fixRecords_memInv (shootNow_memInv (pagerStore_memInv h₁)))
  · exact h₁

theorem pullElsewhere_memInv {s vd va target pa} (h : MemInv s) :
    MemInv (pullElsewhere s vd va target pa) := by
  unfold pullElsewhere
  split
  · exact pullsOver_memInv (shootNow_memInv (pagerStore_memInv h))
  · exact h

theorem engineUnknown_memInv {s agent va} (h : MemInv s) : MemInv (engineUnknown s agent va) := by
  unfold engineUnknown
  split
  · exact ite_memInv (writeAnswered_memInv h) (jobGiveUp_memInv h)
  · split
    · exact stopDelivery_memInv (State.setPier_memInv h)
    · exact h

theorem declareUnknown_memInv {s r} (h : MemInv s) : MemInv (declareUnknown s r) := by
  unfold declareUnknown
  extract_lets s₁
  have h₁ : MemInv s₁ := forget_memInv h
  split
  · exact advanceStop_memInv (zeroLoad_memInv h₁)
  · exact advanceStop_memInv (noteUnknown_memInv h₁)
  · exact arrive_memInv h₁
  · exact engineUnknown_memInv h₁
  · exact h₁
  · exact foldl_memInv (fun _ _ => cancelJob_memInv) h₁

theorem execRemoteRetryTimeout_memInv {u s} (h : MemInv s) : OutInv (execRemoteRetryTimeout u s) := by
  unfold execRemoteRetryTimeout
  split
  · exact .next h
  · exact ite_outInv (.next h) (ite_outInv (eventDone_memInv (declareUnknown_memInv (ite_memInv h h)))
      (State.done_memInv (State.emit_memInv (ite_memInv h h))))

theorem fwdTo_memInv {s src seq pa kind target toPa size} (h : MemInv s) :
    MemInv (fwdTo s src seq pa kind target toPa size) :=
  State.emit_memInv h

theorem sendFwd_memInv {s t src seq pa kind} (h : MemInv s) : MemInv (sendFwd s t src seq pa kind) :=
  fwdTo_memInv h

theorem sendReply_memInv {s src seq pa kind bs bad} (h : MemInv s) :
    MemInv (sendReply s src seq pa kind bs bad) :=
  State.emit_memInv h

theorem countServed_memInv {s pa n} (h : MemInv s) : MemInv (countServed s pa n) := by
  unfold countServed
  refine ite_memInv h ?_
  split
  · exact countUncorr_memInv h
  · exact h

theorem countRemote_memInv {s src pa seen} (h : MemInv s) : MemInv (countRemote s src pa seen) := by
  unfold countRemote
  split
  · refine ite_memInv ?_ h
    split
    · exact countAccess_memInv h
    · exact h
  · exact h

theorem homeWait_memInv {s x pa} (h : MemInv s) : OutInv (homeWait s x pa) :=
  State.done_memInv (trackFetch_memInv h)

theorem homeDone_memInv {s x} (h : MemInv s) : MemInv (homeDone s x) := ite_memInv (dropArrived_memInv h) h

theorem headerWrite_memInv {s x seen} (h : MemInv s) : MemInv (headerWrite s x seen) := by
  unfold headerWrite
  split
  · exact h
  · exact ite_memInv (h.withMem (wf_memWrite _ _ h.mem)) (bumpHeader_memInv h)

theorem writeFor_memInv {s x pa bs seen} (h : MemInv s) : MemInv (writeFor s x pa bs seen) := by
  unfold writeFor
  extract_lets _ _ s₁ _ s₂
  have h₁ : MemInv s₁ := unlockTiles_memInv h
  have h₂ : MemInv s₂ := homeDone_memInv (writeCells_memInv h₁)
  exact ite_memInv (memerrNotice_memInv h) (ite_memInv h₂ (headerWrite_memInv h₂))

theorem rmwFor_memInv {s pa n seen} {f : Nat → Option Nat} (h : MemInv s) : MemInv (rmwFor s pa n seen f).1 :=
  ite_fst_memInv (countServed_memInv h) (ite_memInv (headerWrite_memInv (homeDone_memInv (rmwHere_memInv h)))
    (homeDone_memInv (rmwHere_memInv h)))

theorem queueFor_memInv {s t src seq pa n cas w2 w3} (h : MemInv s) :
    MemInv (queueFor s t src seq pa n cas w2 w3) :=
  h

theorem execFabricRead_memInv {f s} (h : MemInv s) : OutInv (execFabricRead f s) := by
  unfold execFabricRead
  refine ite_outInv (.next h) ?_
  split
  · exact State.done_memInv (sendFwd_memInv h)
  · exact ite_outInv (.next h) (State.done_memInv (countRemote_memInv
      (sendReply_memInv (countServed_memInv h))))

theorem holdIn_memInv {s t source pa bs acks} (h : MemInv s) : MemInv (holdIn s t source pa bs acks) := h

theorem execFabricWrite_memInv {f s} (h : MemInv s) : OutInv (execFabricWrite f s) := by
  unfold execFabricWrite
  refine ite_outInv (.next h) ?_
  split
  · exact .next h
  · exact ite_outInv (.next h) (State.done_memInv (sendAck_memInv h))
  · extract_lets _ _ _ s₁
    have h₁ : MemInv s₁ := countRemote_memInv (writeFor_memInv h)
    split
    · exact State.done_memInv (sendFwd_memInv h)
    · refine ite_outInv (homeWait_memInv h) ?_
      split
      · exact State.done_memInv (keepSeq_memInv (homeDone_memInv
          (headerWrite_memInv (holdIn_memInv (countRemote_memInv h)))))
      · exact State.done_memInv (sendAck_memInv (keepSeq_memInv h₁))

theorem combinedAtom_memInv {s f} (h : MemInv s) : MemInv (combinedAtom s f) := by
  unfold combinedAtom
  extract_lets _ _ _ _ p₁ _ f₁ p₂ s₁
  have h₁ : MemInv p₁.1 := rmwFor_memInv h
  have h₂ : ∀ p x, MemInv p.1 → MemInv (f₁ p x).1 := by
    intro _ _ h₃
    unfold f₁
    extract_lets
    split
    · exact keepSeq_memInv h₃
    · exact h₃
    · exact h₃
  have h₄ : MemInv p₂.1 := foldl_fst_memInv h₂ h₁
  have h₅ : MemInv s₁ := foldl_memInv (fun _ _ h₆ => ite_memInv (countRemote_memInv h₆) h₆) h₄
  split
  · exact foldl_memInv (fun _ _ => sendFwd_memInv) h
  · refine foldl_memInv (fun _ _ h₇ => ?_) h
    split
    · exact queueFor_memInv (countRemote_memInv h₇)
    · exact sendReply_memInv h₇
    · exact h₇
  · exact ite_memInv h₅ (State.emit_memInv h₅)

theorem fabricRmw_memInv {f cas s} (h : MemInv s) : OutInv (fabricRmw f cas s) := by
  unfold fabricRmw
  extract_lets
  split
  · exact .next h
  · split
    · exact .next h
    · exact .next h
    · exact State.done_memInv (sendReply_memInv h)
    · split
      · exact State.done_memInv (sendFwd_memInv h)
      · exact State.done_memInv (queueFor_memInv (countRemote_memInv h))
      · exact ite_outInv (.next h) (ite_outInv (homeWait_memInv h)
          (State.done_memInv (sendReply_memInv (keepSeq_memInv (countRemote_memInv (rmwFor_memInv h))))))

theorem execFabricAtom_memInv {f s} (h : MemInv s) : OutInv (execFabricAtom f s) :=
  ite_outInv (.next h) (ite_outInv (ite_outInv (.next h)
    (ite_outInv (homeWait_memInv h) (State.done_memInv (combinedAtom_memInv h)))) (fabricRmw_memInv h))

theorem answerRequest_memInv {s r bs bad} (h : MemInv s) : MemInv (answerRequest s r bs bad) := by
  unfold answerRequest
  extract_lets s₁
  have h₁ : MemInv s₁ := forget_memInv h
  split
  · exact advanceStop_memInv (feedLoad_memInv h₁)
  · exact advanceStop_memInv h₁
  · exact arrive_memInv h₁
  · exact writeAnswered_memInv h₁
  · exact sendReply_memInv (keepSeq_memInv h₁)
  · exact partArrive_memInv h₁

theorem pullPiece_memInv {s r frame f} (h : MemInv s) : MemInv (pullPiece s r frame f) :=
  ite_memInv h (ite_memInv (h.withMem (wf_memWrite _ _ h.mem))
    (answerRequest_memInv (h.withMem (wf_memWrite _ _ h.mem))))

theorem execFabricReply_memInv {f s} (h : MemInv s) : OutInv (execFabricReply f s) := by
  unfold execFabricReply
  refine ite_outInv (.next h) ?_
  split
  · exact .next h
  · split
    · exact eventDone_memInv (pullPiece_memInv (pathWorks_memInv h))
    · exact ite_outInv (.next h) (eventDone_memInv
        (answerRequest_memInv (ite_memInv (pathWorks_memInv h) (fillLine_memInv (pathWorks_memInv h)))))

theorem execFabricAck_memInv {f s} (h : MemInv s) : OutInv (execFabricAck f s) := by
  unfold execFabricAck
  refine ite_outInv (.next h) ?_
  split
  · exact .next h
  · exact eventDone_memInv (answerRequest_memInv (pathWorks_memInv h))

theorem performOwn_memInv {s r pa} (h : MemInv s) : MemInv (performOwn s r pa) := by
  unfold performOwn
  extract_lets _ _ _ s₁
  have h₁ : MemInv s₁ := forget_memInv h
  split
  · exact answerRequest_memInv (countServed_memInv h)
  · exact h
  · split
    · exact answerRequest_memInv (homeDone_memInv (headerWrite_memInv (holdIn_memInv h)))
    · exact answerRequest_memInv (writeFor_memInv h)
  · split
    · exact h₁
    · exact h
    · exact answerRequest_memInv (rmwFor_memInv h)

theorem execFabricFwd_memInv {f s} (h : MemInv s) : OutInv (execFabricFwd f s) := by
  unfold execFabricFwd
  refine ite_outInv (.next h) ?_
  split
  · exact .next h
  · extract_lets _ _ s₁
    have h₁ : MemInv s₁ := foldl_memInv (fun _ _ => dropLines_memInv) (pathWorks_memInv h)
    split
    · exact eventDone_memInv (pullElsewhere_memInv (forget_memInv h₁))
    · exact ite_outInv (.next h₁) (eventDone_memInv (ite_memInv (performOwn_memInv h₁) (resend_memInv h₁)))

theorem takeTable_memInv {s vd} (h : MemInv s) : OptInv Prod.snd (takeTable s vd) := by
  unfold takeTable
  split
  · exact .none
  · split
    · exact .none
    · exact .some (h.withMem (wf_memClear _ _ h.mem))

theorem splitSource_memInv {s vd va} (h : MemInv s) : MemInv (splitSource s vd va) := by
  unfold splitSource
  extract_lets f
  have h₁ : ∀ s, MemInv s → MemInv (f s) := by
    intro _ h₂
    unfold f
    split
    next e => exact splitGiant_memInv ((takeTable_memInv h₂).of_some e)
    next e => exact splitLeaf_memInv ((takeTable_memInv h₂).of_some e)
    · exact h₂
  exact h₁ _ (h₁ _ h)

theorem sendPart_memInv {s src seq pa} (h : MemInv s) : MemInv (sendPart s src seq pa) :=
  foldl_memInv (fun _ _ => sendReply_memInv) h

theorem execFabricPagePull_memInv {f s} (h : MemInv s) : OutInv (execFabricPagePull f s) := by
  unfold execFabricPagePull
  refine ite_outInv (.next h) ?_
  split
  · exact ite_outInv (State.done_memInv (sendPart_memInv h)) (.next h)
  · split
    · split
      · exact State.done_memInv (fwdTo_memInv h)
      · exact .next h
    · refine ite_outInv (.next h) (State.done_memInv ?_)
      split
      · exact pagerStore_memInv (sendPart_memInv (splitSource_memInv h))
      · exact sendPart_memInv (splitSource_memInv h)

theorem pageArrive_memInv {s vd va pa size bs} (h : MemInv s) : MemInv (pageArrive s vd va pa size bs) := by
  unfold pageArrive
  extract_lets s₁
  have h₁ : MemInv s₁ := h.withMem (wf_memWrite _ _ h.mem)
  split
  · exact ite_memInv h₁ (shootNow_memInv (pagerStore_memInv h₁))
  · exact h₁

theorem zscanServe_memInv {s f tag pa ib} (h : MemInv s) : OutInv (zscanServe s f tag pa ib) := by
  unfold zscanServe
  extract_lets _ f₁
  have h₁ : ∀ s x, MemInv s → OutInv (f₁ s x) := by
    intro _ _ h₂
    exact State.done_memInv (State.emit_memInv (countRemote_memInv (countServed_memInv h₂)))
  refine ite_outInv (homeWait_memInv h) (ite_outInv (.next h) ?_)
  split
  · exact h₁ _ _ (homeDone_memInv (zscanHome_memInv h))
  · exact h₁ _ _ h

theorem accntServe_memInv {s src tag pa peer} (h : MemInv s) : MemInv (accntServe s src tag pa peer) := by
  unfold accntServe
  split
  · exact State.emit_memInv h
  · split <;> exact State.emit_memInv h

theorem accntHeard_memInv {s tag w} (h : MemInv s) : MemInv (accntHeard s tag w) := h

theorem execFabricSystem_memInv {f m table s} (h : MemInv s) : OutInv (execFabricSystem f m table s) := by
  unfold execFabricSystem
  refine ite_outInv (.next h) ?_
  split
  · exact collapseAsked_memInv h
  · exact State.done_memInv h
  · exact collapseTold_memInv h
  · exact State.done_memInv (collapseAcked_memInv h)
  · exact State.done_memInv (adviceArrive_memInv h)
  · refine State.done_memInv ?_
    split
    · exact pageArrive_memInv h
    · exact h
  · exact State.done_memInv h
  · exact ite_outInv (.next h) (State.done_memInv h)
  · exact .next h
  · exact zscanServe_memInv h
  · exact eventDone_memInv (mapJobs_memInv h)
  · exact State.done_memInv (accntServe_memInv h)
  · exact State.done_memInv (accntHeard_memInv h)
  · exact ite_outInv (State.done_memInv (State.emit_memInv h)) (State.done_memInv (accntHeard_memInv h))

/-! ### Relocation -/

theorem parkCopy_memInv {s p j} (h : MemInv s) : MemInv (parkCopy s p j) :=
  ite_memInv h (setJobOn_memInv (tryRecord_memInv (dropArrived_memInv h)))

theorem parkCopies_memInv {s vd} (h : MemInv s) : MemInv (parkCopies s vd) :=
  foldl_memInv (fun _ _ h₁ => foldl_memInv (fun _ _ => parkCopy_memInv) h₁) h

theorem beginQuiesce_memInv {s vd} (h : MemInv s) : MemInv (beginQuiesce s vd) := by
  unfold beginQuiesce
  split <;> exact h

theorem dictBytes_memInv {s vd p d} (h : MemInv s) : GotInv (dictBytes s vd p d) := by
  unfold dictBytes
  extract_lets w read
  have hread : ∀ {s a n f}, MemInv s → (∀ s bs, MemInv s → GotInv (f s bs)) → GotInv (read s a n f) := by
    intro s a n f h hf
    unfold read
    split
    next e => exact hf _ _ ((engReadAt_memInv h).of_ok e)
    next e => exact .wait ((engReadAt_memInv h).of_wait e)
    next s₁ _ e =>
      have h₁ : MemInv s₁ := (engReadAt_memInv h).of_fault e
      exact ite_gotInv (.wait (askReclaim_memInv h₁)) (.ok h₁)
  exact hread h fun _ _ h₁ => ite_gotInv (.ok h₁) (hread h₁ fun _ _ h₂ => .ok h₂)

theorem relocDicts_memInv {s vd piers} (h : MemInv s) : GotInv (relocDicts s vd piers) := by
  unfold relocDicts
  refine List.foldlRecOn (motive := GotInv) _ _ (.ok h) fun acc hacc p _ => ?_
  split
  next s₁ _ =>
    extract_lets one
    have hone : GotInv one := by
      refine List.foldlRecOn (motive := GotInv) _ _ (.ok (hacc.of_ok rfl)) fun acc hacc d _ => ?_
      split
      next s₂ _ =>
        have h₂ : MemInv s₂ := hacc.of_ok rfl
        split
        next e => exact .ok ((dictBytes_memInv h₂).of_ok e)
        next e => exact .ok ((dictBytes_memInv h₂).of_ok e)
        next e => exact .wait ((dictBytes_memInv h₂).of_wait e)
        next e => exact .fault ((dictBytes_memInv h₂).of_fault e)
      · exact hacc
    clear_value one
    split
    · exact .ok (hone.of_ok rfl)
    · exact .wait (hone.of_wait rfl)
    · exact .fault (hone.of_fault rfl)
  · exact hacc

theorem dropMoved_memInv {s vd toPrefix} (h : MemInv s) : MemInv (dropMoved s vd toPrefix) := by
  unfold dropMoved
  split <;> exact h

theorem readyParked_memInv {s vd} (h : MemInv s) : MemInv (readyParked s vd) :=
  foldl_memInv (fun _ _ h₁ => ite_memInv (enterWalk_memInv
    (setRecState_memInv (ite_memInv (setRecCause_memInv h₁) h₁))) h₁) h

theorem resumeHere_memInv {s vd} (h : MemInv s) : MemInv (resumeHere s vd) := by
  unfold resumeHere
  split
  · exact h
  · exact readyParked_memInv (State.setVdev_memInv h)

theorem putLeaf_memInv : ∀ {fuel s vd lvl t va x}, MemInv s → MemInv (putLeaf fuel s vd lvl t va x)
  | 0, _, _, _, _, _, _, h => h
  | fuel + 1, s, vd, lvl, t, va, x, h => by
    unfold putLeaf
    refine ite_memInv
      (ite_memInv (pagerStore_memInv h) (ite_memInv (foldl_memInv (fun _ _ => putLeaf_memInv) h) h))
      (ite_memInv (ite_memInv (putLeaf_memInv h) h) ?_)
    split
    · exact h
    next s₁ e =>
      have h₁ : MemInv s₁ := (takeTable_memInv h).of_some e
      exact putLeaf_memInv (pagerStore_memInv h₁)

theorem mapLeaves_memInv {s vd img} (h : MemInv s) : MemInv (mapLeaves s vd img) := by
  unfold mapLeaves
  refine foldl_memInv (fun _ _ h₁ => ?_) h
  split
  · exact putLeaf_memInv h₁
  · exact h₁

theorem areaWrite_memInv {s vd va bs} (h : MemInv s) : MemInv (areaWrite s vd va bs) :=
  foldl_memInv (fun _ _ => sysWrite_memInv) h

theorem mapRecord_memInv {s m r} (h : MemInv s) : MemInv (mapRecord s m r) := by
  unfold mapRecord
  extract_lets _ _ _ s₁ _ s₂ _ _ _ s₃
  have h₁ : MemInv s₁ := setRecWord_memInv h
  have h₂ : MemInv s₂ := setRecWord_memInv h₁
  have h₃ : MemInv s₃ := ite_memInv (setRecWord_memInv h₂) h₂
  exact ite_memInv h₃ (foldl_memInv (fun _ _ h₄ => ite_memInv h₄ (sysWrite_memInv h₄)) h₃)

theorem reloadDict_memInv {s p x old} (h : MemInv s) : MemInv (reloadDict s p x old) :=
  ite_memInv (setDslot_memInv h) (setDslot_memInv (putAtoms_memInv (setDslot_memInv h)))

theorem placePier_memInv {s m p x} (h : MemInv s) : MemInv (placePier s m p x) := by
  unfold placePier
  refine foldl_memInv (fun s c h => setGranules_memInv (setGranules_memInv ?_))
    (foldl_memInv (fun _ _ => reloadDict_memInv) (State.setPier_memInv (State.setPier_memInv h)))
  exact (State.setCore_memInv h).withSpad (wf_foldl_memPut (wf_memClear _ _ h.spad))

theorem recordFix.addFix_memInv {s vd x} (h : MemInv s) : MemInv (recordFix.addFix s vd x) := by
  unfold recordFix.addFix
  split
  · exact State.setVdev_memInv h
  · exact h

theorem recordFix_memInv {s m p j} (h : MemInv s) : MemInv (recordFix s m p j) := by
  unfold recordFix
  split
  · exact h
  · extract_lets
    split
    · exact h.withSpad (wf_memWrite _ _ h.spad)
    · exact recordFix.addFix_memInv h
    · exact recordFix.addFix_memInv h
    · exact h

theorem acceptImage_memInv {s m img} (h : MemInv s) : MemInv (acceptImage s m img) := by
  unfold acceptImage
  extract_lets _ s₁
  have h₁ : MemInv s₁ := foldl_memInv (fun _ _ => areaWrite_memInv) h
  split
  · exact h
  · extract_lets s₂ s₃ s₄ s₅ s₆ s₇ _ s₈ s₉ s₁₀
    have h₂ : MemInv s₂ := State.setVdev_memInv h₁
    have h₃ : MemInv s₃ := foldl_memInv (fun _ _ => setCounter_memInv) h₂
    have h₄ : MemInv s₄ := foldl_memInv (fun _ _ => State.setJob_memInv) h₃
    have h₅ : MemInv s₅ := foldl_memInv (fun _ _ => State.setLaunch_memInv) h₄
    have h₆ : MemInv s₆ := foldl_memInv (fun _ _ => State.setQueue_memInv) h₅
    have h₇ : MemInv s₇ := foldl_memInv (fun _ _ => placePier_memInv) h₆
    have h₈ : MemInv s₈ := foldl_memInv (fun _ _ => State.setCtx_memInv) h₇
    have h₉ : MemInv s₉ := foldl_memInv (fun _ _ => mapRecord_memInv) h₈
    have h₁₀ : MemInv s₁₀ := foldl_memInv (fun _ _ h₁₁ => foldl_memInv (fun _ _ => recordFix_memInv) h₁₁) h₉
    exact readyParked_memInv (pullsOver_memInv (fixRecords_memInv h₁₀))

theorem relocForm_memInv {s o} {body : State → Nat → Nat → Nat → Verdict} (h : MemInv s)
    (hbody : ∀ s x y z, MemInv s → VerdictInv (body s x y z)) :
    OutInv (relocForm s o body) := by
  unfold relocForm
  refine conclude_memInv (gateE_memInv h (fun _ => ite_verdictInv (trapFree_memInv h)
    (atLevel_memInv h (ite_verdictInv (accessTrap_memInv h)
      (got_memInv (operand_memInv h) (fun _ _ h₁ => ?_))))))
  split
  · exact trapFree_memInv h₁
  · exact hbody _ _ _ _ h₁

theorem relocSays_memInv {s d c} (h : MemInv s) : VerdictInv (relocSays s d c) := .ok (setD_memInv h)

theorem execRelocOut_memInv {o s} (h : MemInv s) : OutInv (execRelocOut o s) := by
  unfold execRelocOut
  refine relocForm_memInv h (fun _ _ _ _ h₁ => ?_)
  split
  · split
    · exact relocSays_memInv h₁
    · exact ite_verdictInv (relocSays_memInv h₁) (.wait (beginQuiesce_memInv h₁))
  · extract_lets
    refine ite_verdictInv (ite_verdictInv (relocSays_memInv (resumeHere_memInv h₁))
      (relocSays_memInv (dropMoved_memInv h₁))) (ite_verdictInv (relocSays_memInv (resumeHere_memInv h₁))
        (ite_verdictInv (.wait h₁) (ite_verdictInv ?_ (.wait (parkCopies_memInv h₁)))))
    split
    next e => exact .wait (State.emit_memInv (dropArrived_memInv ((relocDicts_memInv h₁).of_ok e)))
    next e => exact .wait ((relocDicts_memInv h₁).of_wait e)
    next e => exact .wait ((relocDicts_memInv h₁).of_fault e)

theorem execRelocIn_memInv {o s} (h : MemInv s) : OutInv (execRelocIn o s) := by
  unfold execRelocIn
  refine relocForm_memInv h (fun s _ _ _ h => ?_)
  split
  · exact .wait h
  · extract_lets s₁ m kept
    have h₁ : MemInv s₁ := h
    split
    · exact relocSays_memInv (State.emit_memInv h₁)
    · exact ite_verdictInv (relocSays_memInv (State.emit_memInv (acceptImage_memInv (mapLeaves_memInv h₁))))
        (relocSays_memInv (State.emit_memInv h₁))

theorem execRelocDrain_memInv {o s} (h : MemInv s) : OutInv (execRelocDrain o s) := by
  unfold execRelocDrain
  refine relocForm_memInv h (fun _ _ _ _ h₁ => ?_)
  split
  · exact relocSays_memInv h₁
  · exact ite_verdictInv (relocSays_memInv h₁) (ite_verdictInv (.wait h₁)
      (.wait (State.emit_memInv (State.setMe_memInv h₁))))

theorem execRelocPagePull_memInv {vd va frame tables s} (h : MemInv s) :
    OutInv (execRelocPagePull vd va frame tables s) := by
  unfold execRelocPagePull
  extract_lets
  split
  · split
    · exact ite_outInv (.next h) (State.done_memInv (sendRemote_memInv h))
    · exact .next h
  · exact .next h

/-! ### Management, hosts, storage, resets and sensors -/

theorem tell_memInv {s host ok bs} (h : MemInv s) : MemInv (tell s host ok bs) := State.emit_memInv h

theorem command_memInv {s host} {body : State → State} (h : MemInv s)
    (hbody : ∀ s, MemInv s → MemInv (body s)) :
    OutInv (command s host body) :=
  ite_outInv (.next h) (ite_outInv (State.done_memInv (hbody _ h)) (State.done_memInv (tell_memInv h)))

theorem execMgmtQueueCreate_memInv {host cfg create s} (h : MemInv s) :
    OutInv (execMgmtQueueCreate host cfg create s) := by
  unfold execMgmtQueueCreate
  refine command_memInv h (fun _ h₁ => ite_memInv (ite_memInv (tell_memInv (State.setQueue_memInv h₁))
    (tell_memInv h₁)) ?_)
  split
  · exact tell_memInv h₁
  · exact ite_memInv (tell_memInv h₁) (jobSettle_memInv (tell_memInv h₁))

theorem setHostPage_memInv {s vd page host} (h : MemInv s) : MemInv (setHostPage s vd page host) := h

theorem setH_memInv {s vd page on} (h : MemInv s) : MemInv (setH s vd page on) := by
  unfold setH
  split
  · exact h
  · exact shootNow_memInv (pagerStore_memInv h)

theorem nextRequest_memInv {s vd page} (h : MemInv s) : MemInv (nextRequest s vd page) := by
  unfold nextRequest
  split
  · exact State.emit_memInv h
  · exact h

theorem serveGrants_memInv : ∀ {n s vd page}, MemInv s → MemInv (serveGrants n s vd page)
  | 0, _, _, _, h => h
  | n + 1, s, vd, page, h => by
    unfold serveGrants
    split
    · refine ite_memInv h ?_
      extract_lets s₁
      have h₁ : MemInv s₁ := setHostPage_memInv (setH_memInv h)
      exact serveGrants_memInv (nextRequest_memInv (tell_memInv h₁))
    · exact h

theorem execMgmtExchangeGrant_memInv {host vd va s} (h : MemInv s) :
    OutInv (execMgmtExchangeGrant host vd va s) := by
  unfold execMgmtExchangeGrant
  refine command_memInv h (fun _ h₁ => ?_)
  split
  · exact tell_memInv h₁
  · exact ite_memInv (tell_memInv h₁) (serveGrants_memInv (ite_memInv h₁ h₁))

theorem retryPage_memInv {s vd page size} (h : MemInv s) : MemInv (retryPage s vd page size) :=
  mapJobs_memInv (foldl_memInv (fun _ _ h₁ => ite_memInv (readyWith_memInv h₁) h₁) h)

theorem execExchangeReclaimAck_memInv {host vd va s} (h : MemInv s) :
    OutInv (execExchangeReclaimAck host vd va s) := by
  unfold execExchangeReclaimAck
  refine command_memInv h (fun _ h₁ => ?_)
  split
  · exact tell_memInv h₁
  · extract_lets
    split
    · exact ite_memInv (tell_memInv h₁) (serveGrants_memInv
        (nextRequest_memInv (tell_memInv (retryPage_memInv (setHostPage_memInv (setH_memInv h₁))))))
    · exact tell_memInv h₁

theorem rodTurn_memInv {s host x} (h : MemInv s) : OptInv id (rodTurn s host x) := by
  unfold rodTurn
  split
  · exact .some h
  · exact ite_optInv (.some h) .none

theorem execHostMemoryWrite_memInv {host vd va data s} (h : MemInv s) :
    OutInv (execHostMemoryWrite host vd va data s) := by
  unfold execHostMemoryWrite
  split
  · exact .next h
  next s₁ e₁ =>
    have h₁ : MemInv s₁ := (rodTurn_memInv h).of_some e₁
    split
    · exact State.done_memInv (tell_memInv h₁)
    · extract_lets
      split
      next e => exact State.done_memInv (memInv_of_fst (trackFetch_memInv h) e)
      · split
        · exact .next h
        · exact State.done_memInv (tell_memInv (performWrite_memInv (dropArrived_memInv h₁)))

theorem execHostMemoryRead_memInv {host vd va n s} (h : MemInv s) :
    OutInv (execHostMemoryRead host vd va n s) := by
  unfold execHostMemoryRead
  split
  · exact State.done_memInv (tell_memInv h)
  · exact ite_outInv (State.done_memInv (tell_memInv h))
      (ite_outInv (.next h) (State.done_memInv (tell_memInv h)))

theorem storageBegin_memInv {s host t data} (h : MemInv s) : MemInv (storageBegin s host t data) :=
  tell_memInv (State.emit_memInv (pinRange_memInv h))

theorem execMgmtStorageTransfer_memInv {host cfg s} (h : MemInv s) :
    OutInv (execMgmtStorageTransfer host cfg s) := by
  unfold execMgmtStorageTransfer
  refine command_memInv h (fun _ h₁ => ite_memInv (tell_memInv h₁) ?_)
  split
  · exact tell_memInv h₁
  · refine ite_memInv h₁ (ite_memInv (storageBegin_memInv h₁) ?_)
    extract_lets
    split
    next e => exact storageBegin_memInv (dropArrived_memInv ((engReadAt_memInv h₁).of_ok e))
    next e => exact (engReadAt_memInv h₁).of_wait e
    next s₁ _ e₁ =>
      have h₂ : MemInv s₁ := (engReadAt_memInv h₁).of_fault e₁
      exact ite_memInv (askReclaim_memInv h₂) (tell_memInv h₂)

theorem placeData_memInv {s ag vd va bs} (h : MemInv s) : MemInv (placeData s ag vd va bs) := by
  unfold placeData
  refine foldl_memInv (fun _ _ h₁ => ?_) h
  extract_lets
  split
  · exact writeFor_memInv h₁
  · exact performWrite_memInv h₁
  · exact h₁

theorem storageSlot_memInv {s t} (h : MemInv s) : SlotInv (storageSlot s t) := by
  unfold storageSlot
  extract_lets _ _ f
  have h₁ : ∀ s x, MemInv s → SlotInv (f s x) := by
    intro _ _ h₂
    unfold f
    split
    · exact .wait (askReclaim_memInv h₂)
    · exact .lost h₂
  split
  · exact .ok h
  · split
    next e => exact h₁ _ _ ((engReadAt_memInv h).of_fault e)
    next e => exact .wait ((engReadAt_memInv h).of_wait e)
    next s₁ _ e₁ =>
      have h₃ : MemInv s₁ := (engReadAt_memInv h).of_ok e₁
      split
      · exact .lost h₃
      · extract_lets
        split
        · exact .wait (dropArrived_memInv h₃)
        · split
          next e => exact h₁ _ _ ((ringClaim_memInv h₃).of_fault e)
          next e => exact .wait ((ringClaim_memInv h₃).of_wait e)
          next e => exact .wait (dropArrived_memInv ((ringClaim_memInv h₃).of_ok e))
          next e => exact .ok (dropArrived_memInv ((ringClaim_memInv h₃).of_ok e))

theorem storageOver_memInv {s i t} (h : MemInv s) : MemInv (storageOver s i t) :=
  dropArrived_memInv (ite_memInv h (unpinRange_memInv h))

theorem execStorageTransferDone_memInv {i ok data s} (h : MemInv s) :
    OutInv (execStorageTransferDone i ok data s) := by
  unfold execStorageTransferDone
  split
  · exact .next h
  · split
    next e => exact State.done_memInv ((storageSlot_memInv h).of_wait e)
    next e => exact State.done_memInv (storageOver_memInv ((storageSlot_memInv h).of_lost e))
    next s₁ _ e₁ =>
      have h₁ : MemInv s₁ := (storageSlot_memInv h).of_ok e₁
      extract_lets _ _ _ _ _ _ s₂
      have h₂ : MemInv s₂ := ite_memInv (placeData_memInv h₁) h₁
      split
      · exact homeWait_memInv h₁
      · refine ite_outInv (State.done_memInv h₂) ?_
        split
        next s₃ e₂ =>
          have h₃ : MemInv s₃ := (engWriteAt_memInv h₂).of_wait e₂
          exact State.done_memInv h₃
        next s₄ _ e₃ =>
          have h₄ : MemInv s₄ := (engWriteAt_memInv h₂).of_fault e₃
          exact ite_outInv (State.done_memInv (askReclaim_memInv h₄))
            (State.done_memInv (storageOver_memInv h₄))
        next s₅ _ e₄ =>
          have h₅ : MemInv s₅ := (engWriteAt_memInv h₂).of_ok e₄
          exact State.done_memInv (storageOver_memInv h₅)

theorem execMgmtReadTelemetry_memInv {host deck s} (h : MemInv s) :
    OutInv (execMgmtReadTelemetry host deck s) :=
  ite_outInv (.next h) (ite_outInv (State.done_memInv (tell_memInv h)) (State.done_memInv (tell_memInv h)))

theorem bootDeck_memInv {s d} (h : MemInv s) : MemInv (bootDeck s d) :=
  State.setDeck_memInv (State.setBoot_memInv h)

theorem execModuleReset_memInv {s} : OutInv (execModuleReset s) := by
  unfold execModuleReset
  extract_lets r
  have hr : MemInv r := wf_reset
  exact State.done_memInv (foldl_memInv (fun _ _ => bootDeck_memInv) hr)

theorem flashImage_memInv {s d stage img} (h : MemInv s) : MemInv (flashImage s d stage img) :=
  ite_memInv (State.setBoot_memInv h) (State.setBoot_memInv h)

theorem execMgmtLoadFirmware_memInv {host deck stage img raise s} (h : MemInv s) :
    OutInv (execMgmtLoadFirmware host deck stage img raise s) :=
  ite_outInv (.next h) (ite_outInv (State.done_memInv (tell_memInv h))
    (State.done_memInv (tell_memInv (ite_memInv (foldl_memInv (fun _ _ => flashImage_memInv) h)
      (foldl_memInv (fun _ _ => flashImage_memInv) h)))))

theorem clearTiles_memInv {s p} (h : MemInv s) : MemInv (clearTiles s p) := h.withAcc (wf_memClear _ _ h.acc)

theorem grantPier_memInv {s p vd tenant stks} (h : MemInv s) : MemInv (grantPier s p vd tenant stks) := by
  unfold grantPier
  exact foldl_memInv (fun _ _ => State.setCtx_memInv)
    (State.setDeck_memInv (foldl_memInv (fun _ _ => State.setCore_memInv)
      (clearTiles_memInv (State.setPier_memInv h))))

theorem execFirmwareGrant_memInv {cfg s} (h : MemInv s) : OutInv (execFirmwareGrant cfg s) :=
  ite_outInv (.next h) (State.done_memInv (foldl_memInv (fun _ _ => grantPier_memInv)
    (State.setVdev_memInv h)))

theorem clearEntries_memInv {s vd job tab} (h : MemInv s) : MemInv (clearEntries s vd job tab) :=
  ite_memInv h (foldl_memInv (fun _ _ => sysWrite_memInv) h)

theorem execJobAdmission_memInv {cfg s} (h : MemInv s) : OutInv (execJobAdmission cfg s) := by
  unfold execJobAdmission
  split
  · exact .next h
  · refine ite_outInv (.next h) (ite_outInv (State.done_memInv (State.emit_memInv h)) ?_)
    split
    · exact State.done_memInv (State.emit_memInv h)
    · exact State.done_memInv (State.emit_memInv (clearEntries_memInv
        (foldl_memInv (fun _ _ => State.setPier_memInv) (setCounter_memInv (State.setJob_memInv h)))))

theorem execThermalThrottle_memInv {deck temp s} (h : MemInv s) : OutInv (execThermalThrottle deck temp s) :=
  ite_outInv (.next h) (ite_outInv (State.done_memInv (State.setDeck_memInv h))
    (State.done_memInv (foldl_memInv (fun _ _ => State.setPier_memInv)
      (State.setDeck_memInv (State.setDeck_memInv h)))))

theorem execThermalStop_memInv {deck temp s} (h : MemInv s) : OutInv (execThermalStop deck temp s) := by
  unfold execThermalStop
  extract_lets _ s₁ _ _ s₂
  have h₁ : MemInv s₁ := State.setDeck_memInv h
  have h₂ : MemInv s₂ := foldl_memInv (fun _ _ => State.setDeck_memInv) h₁
  exact ite_outInv (.next h) (ite_outInv (State.done_memInv h₁)
    (ite_outInv (State.done_memInv h₁) (State.done_memInv h₂)))

theorem countCorrected_memInv {s u} (h : MemInv s) : MemInv (countCorrected s u) := by
  unfold countCorrected
  extract_lets
  split <;> exact h

theorem execScrubPass_memInv {u r s} (h : MemInv s) : OutInv (execScrubPass u r s) := by
  unfold execScrubPass
  refine ite_outInv (.next h) ?_
  split
  · exact .next h
  · exact ite_outInv (.next h) (State.done_memInv (countCorrected_memInv h))
  · extract_lets _ _ s₁ s₂
    have h₁ : MemInv s₁ := ite_memInv h h
    have h₂ : MemInv s₂ := countUncorr_memInv h₁
    refine State.done_memInv ?_
    split
    · exact memerrNotice_memInv h₂
    · exact h₂

/-! ### The next turn -/

theorem nextTurn_memInv {s} (h : MemInv s) : MemInv (nextTurn s).2 := by
  unfold nextTurn
  split <;> exact h

theorem chargeCore_memInv {s k n} (h : MemInv s) : MemInv (chargeCore s k n) :=
  ite_memInv (State.setCore_memInv h) (ite_memInv h (State.countEvent_memInv h))

theorem issueCycle_memInv {s c} (h : MemInv s) : MemInv (issueCycle s c) :=
  ite_memInv (State.countEvent_memInv (chargeCore_memInv (State.setCore_memInv h)))
    (chargeCore_memInv (State.setCore_memInv h))

theorem elapse_memInv {s p n} (h : MemInv s) : MemInv (elapse s p n) :=
  ite_memInv h (foldl_memInv (fun _ _ => chargeCore_memInv) (State.countEvent_memInv h))

theorem replayCore_memInv {s k} (h : MemInv s) : MemInv (replayCore s k) :=
  ite_memInv h (State.countEvent_memInv (State.setPier_memInv (chargeCore_memInv (State.setCore_memInv h))))

theorem issueTurn_memInv {s c} (h : MemInv s) : PreparedInv (issueTurn s c) := by
  unfold issueTurn
  extract_lets _ _ s₁
  have h₁ : MemInv s₁ := fenceOver_memInv (issueCycle_memInv h)
  split
  · exact .atEnd (.next h)
  · split
    · exact .atEnd (State.done_memInv (takeStop_memInv h))
    · split
      next e => exact .atEnd (State.done_memInv (takeFault_memInv ((fetchWord_memInv h₁).of_fault e)))
      next s₂ e₁ =>
        have h₂ : MemInv s₂ := (fetchWord_memInv h₁).of_wait e₁
        exact .atEnd (ite_outInv (State.done_memInv (takeStop_memInv h₂)) (State.done_memInv h₂))
      next s₃ _ e₂ =>
        have h₃ : MemInv s₃ := (fetchWord_memInv h₁).of_ok e₂
        split
        · exact .atEnd (State.done_memInv (takeStop_memInv h₃))
        · split
          · exact .run h₃
          · exact .atEnd (illegalWord_memInv h₃)

theorem prepare_memInv {s} (h : MemInv s) : PreparedInv (prepare s) := by
  unfold prepare
  split
  next e => exact issueTurn_memInv (memInv_of_snd (nextTurn_memInv h) e)
  next e => exact .run (memInv_of_snd (nextTurn_memInv h) e)
  next e => exact .atEnd (State.done_memInv (elapse_memInv (memInv_of_snd (nextTurn_memInv h) e)))
  next e => exact .atEnd (State.done_memInv (dropCached_memInv (memInv_of_snd (nextTurn_memInv h) e)))
  next e => exact .atEnd (State.done_memInv (replayCore_memInv (memInv_of_snd (nextTurn_memInv h) e)))
  next e => exact .atEnd (State.done_memInv (storeTables_memInv (memInv_of_snd (nextTurn_memInv h) e)))
  next e => exact .atEnd (State.done_memInv (writeReadings_memInv (memInv_of_snd (nextTurn_memInv h) e)))
  next e => exact .atEnd (State.done_memInv (enrolHost_memInv (memInv_of_snd (nextTurn_memInv h) e)))
  next s₁ e₁ =>
    have h₁ : MemInv s₁ := memInv_of_snd (nextTurn_memInv h) e₁
    exact .atEnd (State.done_memInv h₁)

/-! ### Every instruction and event, and the step -/

theorem exec_memInv {s} (h : MemInv s) (i : Instr) : OutInv (exec i s) := by
  unfold exec
  cases i with
  | illegal _ => exact conclude_memInv (trapFree_memInv h)
  | nop | pref _ => exact conclude_memInv (gate_memInv h (fun _ => .ok h))
  | add _ | sub _ | mul _ | mulh _ | mulhn _ | div _ | divn _ | rem _ | remn _ | and _ | or _ | xor _
    | shl _ | shr _ | sar _ | rot _ | min _ | max _ | minn _ | maxn _ | bfx _ | lea _ =>
    exact scalar3_memInv h
  | clz _ | popc _ | mov _ => exact scalar2_memInv h
  | bfi _ | sel _ | movi _ | kget _ | getc _ =>
    exact conclude_memInv (gate_memInv h (fun _ => .ok (setD_memInv h)))
  | addi _ | andi _ | ori _ | xori _ | muli _ => exact scalarI_memInv h
  | shli _ | shri _ | sari _ => exact scalarSh_memInv h
  | cmp _ | cmpn _ | fcmp _ => exact compareR_memInv h
  | cmpi _ | cmpni _ => exact compareI_memInv h
  | kand _ | kor _ | kxor _ => exact guard3_memInv h
  | knot _ | kmov _ => exact guard2_memInv h
  | kclr _ | vnz _ | vtag _ | vsideSet _ =>
    exact conclude_memInv (gate_memInv h (fun _ => .ok (State.setMe_memInv h)))
  | fadd _ | fsub _ | fmul _ | fdiv _ | fmin _ | fmax _ => exact float3_memInv h
  | ffma _ | fsqrt _ => exact conclude_memInv (gate_memInv h (fun _ => .ok (setF_memInv h)))
  | fcvtTo _ | fcvtFrom _ => exact floatCvt_memInv h
  | br _ | brl _ => exact branchB_memInv h
  | jr _ => exact conclude_memInv (gate_memInv h (fun _ => jumpTo_memInv h (fun _ h => h)))
  | jrl _ => exact conclude_memInv (gate_memInv h (fun _ => jumpTo_memInv h (fun _ => setD_memInv)))
  | loop _ => exact execLoop_memInv h
  | trap _ => exact conclude_memInv (gate_memInv h (fun _ => .trapNext (State.takeFree_memInv h)))
  | susp _ => exact execSusp_memInv h
  | yieldUnit => exact conclude_memInv (gate_memInv h (fun _ => suspend_memInv h (fun _ h₁ => h₁)))
  | endUnit => exact execEndUnit_memInv h
  | setc _ => exact execSetc_memInv h
  | rdcyc _ => exact conclude_memInv (gate_memInv h (fun _ => impure_memInv h (.ok (setD_memInv h))))
  | vadd _ | vsub _ | vmul _ | vmin _ | vmax _ | vdiv _ | viadd _ | visub _ | vimul _ | vand _ | vor _
    | vxor _ | vshl _ | vshr _ | vsar _ | vimin _ | vimax _ =>
    exact vector3_memInv h
  | vfma _ => exact execVfma_memInv h
  | vsqrt _ | vrcp _ | vrsq _ | vexp2 _ | vlog2 _ => exact vector2_memInv h
  | vcmp _ | vicmp _ => exact vcompare_memInv h
  | vmov _ | vbcast _ | vperm _ | vslide _ | vsel _ | vcomp _ | vexpd _ | viota _ | vzero _ =>
    exact conclude_memInv (vgate_memInv h (fun _ _ _ => .ok (State.setMe_memInv h)))
  | vextr _ | vsideGet _ => exact conclude_memInv (gate_memInv h (fun _ => .ok (produceWord_memInv h)))
  | vins _ => exact execVins_memInv h
  | vrsum _ | vrmax _ | vrmin _ => exact reduce1_memInv h
  | vdot _ => exact execVdot_memInv h
  | vcvt _ => exact conclude_memInv (vgate_memInv h (fun _ _ _ => .ok (setVF_memInv h)))
  | vpack _ => exact execVpack_memInv h
  | vunpk _ => exact execVunpk_memInv h
  | ldb _ => exact execLdb_memInv h
  | ldh _ => exact execLdh_memInv h
  | ldw _ => exact execLdw_memInv h
  | ldd _ => exact execLdd_memInv h
  | ldbn _ => exact execLdbn_memInv h
  | ldhn _ => exact execLdhn_memInv h
  | ldwn _ => exact execLdwn_memInv h
  | stb _ | sth _ | stw _ | std _ => exact scalarStore_memInv h
  | ldv _ => exact execLdv_memInv h
  | stv _ => exact execStv_memInv h
  | ldx _ => exact execLdx_memInv h
  | stx _ => exact execStx_memInv h
  | tld _ => exact execTld_memInv h
  | tst _ => exact execTst_memInv h
  | atom _ => exact execAtom_memInv h
  | cas _ => exact execCas_memInv h
  | fence _ => exact execFence_memInv h
  | feset _ => exact execFeset_memInv h
  | copy _ | copyg _ | zscan _ | zscanIb _ | trld _ | acrd _ | acwr _ | wmark _ | dinst _ | datom _
    | dver _ | dqry _ | enc _ | dec _ | acci _ | imgbld _ | imginv _ | send _ | sendcM _ =>
    exact cmd3_memInv h
  | jwait _ => exact execJwait_memInv h
  | cgath _ => exact issueCmd_memInv h (fun _ _ _ => markGather_memInv)
  | cscat _ | mma _ | accvt _ | sendc _ => exact issueCmd_memInv h (fun _ _ _ => noMark_memInv)
  | trfree _ | acz _ | dret _ => exact cmd2_memInv h
  | imgld _ => exact issueCmdPre_memInv h (fun _ _ _ => imgldRead_memInv) (fun _ _ _ _ => imgldMark_memInv)
  | post _ => exact issueCmdPre_memInv h (fun _ _ _ => postRead_memInv) (fun _ _ _ _ => postMark_memInv)
  | recv _ => exact execRecv_memInv h
  | rcancel _ => exact execRcancel_memInv h
  | ovpop _ => exact execOvpop_memInv h
  | fork _ => exact execFork_memInv h
  | join _ => exact execJoin_memInv h
  | spawn _ => exact execSpawn_memInv h
  | launch _ => exact execLaunch_memInv h
  | qpush _ => exact execQpush_memInv h
  | qpop _ => exact execQpop_memInv h
  | crwait _ => exact execCrwait_memInv h
  | cnew _ | cnewPhase _ => exact cnewForm_memInv h
  | cnewFree _ => exact execCnewFree_memInv h
  | cadd _ => exact execCadd_memInv h
  | cwait _ => exact conclude_memInv (gateE_memInv h (fun _ => ask_memInv h (fun _ _ => cwaitDone_memInv)))
  | cwaitPh _ => exact execCwaitPh_memInv h
  | expect _ => exact execExpect_memInv h
  | arrive _ => exact execArrive_memInv h
  | cancelUnit _ => exact conclude_memInv (gateE_memInv h (fun _ => impure_memInv h (post_memInv h)))
  | cancelLaunch _ | cancelGraph _ | cancelPhase _ | cancelJob _ => exact cancelForm_memInv h
  | perfrd _ => exact execPerfrd_memInv h
  | accnt _ => exact execAccnt_memInv h
  | tlbinv _ | tlbinvAll _ => exact tlbinvForm_memInv h
  | lease _ => exact execLease_memInv h
  | unlease _ => exact execUnlease_memInv h
  | pgadv _ => exact execPgadv_memInv h
  | pgqry _ => exact execPgqry_memInv h
  | pgqryRes _ => exact execPgqryRes_memInv h
  | hset _ => exact execHset_memInv h
  | hget _ => exact execHget_memInv h
  | relayout _ => exact execRelayout_memInv h
  | rlwait _ => exact execRlwait_memInv h
  | rprobe _ => exact execRprobe_memInv h
  | rinv _ => exact execRinv_memInv h
  | chash _ => exact execChash_memInv h
  | entset _ => exact execEntset_memInv h
  | eretResume _ => exact execEretResume_memInv h
  | eretEnd _ => exact execEretEnd_memInv h
  | eretPark => exact execEretPark_memInv h
  | preempt _ => exact execPreempt_memInv h
  | relocOut _ => exact execRelocOut_memInv h
  | relocIn _ => exact execRelocIn_memInv h
  | relocDrain _ => exact execRelocDrain_memInv h
  | dbghalt _ => exact execDbghalt_memInv h
  | dbghaltResume _ => exact haltForm_memInv h (fun _ => .ok (foldl_memInv (fun _ _ => setHalt_memInv) h))
  | dbghaltStep _ => exact execDbghaltStep_memInv h
  | ximm _ | modPfx _ | hint _ => exact addPrefix_memInv h
  | widxWrite _ _ => exact State.done_memInv (writeWidx_memInv h)
  | queueRegisterWrite _ _ _ | linkUp _ => exact State.done_memInv h
  | packetAdmit _ => exact execPacketAdmit_memInv h
  | admissionNotice _ _ => exact execAdmissionNotice_memInv h
  | unitGenerate _ => exact execUnitGenerate_memInv h
  | reuseCopyDone _ => exact execReuseCopyDone_memInv h
  | launchComplete _ => exact execLaunchComplete_memInv h
  | recordOffer _ _ => exact execRecordOffer_memInv h
  | dequeEntryResume _ => exact execDequeEntryResume_memInv h
  | contextFreePop _ => exact execContextFreePop_memInv h
  | stolenRecordArrive _ => exact execStolenRecordArrive_memInv h
  | budgetExhausted _ | handlerOverrun _ => exact stopEvent_memInv h
  | preemptArrive _ => exact State.done_memInv (foldl_memInv (fun _ _ => preReach_memInv) h)
  | frameSave _ => exact execFrameSave_memInv h
  | framePoolSupply _ => exact execFramePoolSupply_memInv h
  | noticeRaise _ => exact execNoticeRaise_memInv h
  | pagerResolve _ _ => exact execPagerResolve_memInv h
  | unitRelease _ _ _ => exact execUnitRelease_memInv h
  | loadComplete _ _ => exact execLoadComplete_memInv h
  | granuleWaitIssue _ => exact execGranuleWaitIssue_memInv h
  | storeBufferDrain _ =>
    exact State.done_memInv (foldl_memInv (fun _ _ => advanceStop_memInv) (drainOne_memInv h))
  | remoteRetryTimeout _ => exact execRemoteRetryTimeout_memInv h
  | linkDown _ => exact ite_outInv (.next h) (State.done_memInv h)
  | fabricRead _ => exact execFabricRead_memInv h
  | fabricWrite _ => exact execFabricWrite_memInv h
  | fabricAtom _ => exact execFabricAtom_memInv h
  | fabricCas _ => exact ite_outInv (.next h) (fabricRmw_memInv h)
  | fabricReply _ => exact execFabricReply_memInv h
  | fabricAck _ => exact execFabricAck_memInv h
  | fabricFwd _ => exact execFabricFwd_memInv h
  | fabricPagePull _ => exact execFabricPagePull_memInv h
  | fabricSystem _ _ _ => exact execFabricSystem_memInv h
  | flitReservedDiscard _ _ | uetUnsupportedPacket _ =>
    exact ite_outInv (.next h) (State.done_memInv (State.setDeck_memInv h))
  | migrateThreshold _ _ => exact execMigrateThreshold_memInv h
  | migrateHandover _ => exact execMigrateHandover_memInv h
  | collapseRequest _ _ _ _ _ _ => exact execCollapseRequest_memInv h
  | shootdownPier _ _ => exact execShootdownPier_memInv h
  | shootdownAck _ _ => exact execShootdownAck_memInv h
  | relayoutStart _ _ => exact execRelayoutStart_memInv h
  | relayoutTileConvert _ _ => exact execRelayoutTileConvert_memInv h
  | relayoutDrainAck _ _ => exact execRelayoutDrainAck_memInv h
  | relayoutFinish _ => exact execRelayoutFinish_memInv h
  | copyJobStart _ _ => exact execCopyJobStart_memInv h
  | ringClaimRetry _ _ => exact execRingClaimRetry_memInv h
  | copySector _ => exact execCopySector_memInv h
  | copyResume _ _ => exact execCopyResume_memInv h
  | zscanTile _ _ => exact execZscanTile_memInv h
  | cgathRowArrive _ _ _ => exact execCgathRowArrive_memInv h
  | cscatRowApply _ _ _ => exact execCscatRowApply_memInv h
  | matrixAccept _ => exact execMatrixAccept_memInv h
  | mmaBlock _ => exact execMmaBlock_memInv h
  | mmaRowComplete _ => exact execMmaRowComplete_memInv h
  | trldSlotWrite _ => exact execTrldSlotWrite_memInv h
  | accPortRow _ => exact execAccPortRow_memInv h
  | aczTile _ => exact execAczTile_memInv h
  | trussBoundaryMove _ => exact execTrussBoundaryMove_memInv h
  | spanJobStart _ => exact execSpanJobStart_memInv h
  | encSpan _ => exact encGrant_memInv h (fun _ _ => encStep_memInv)
  | decSpan _ => exact encGrant_memInv h (fun _ _ => decStep_memInv)
  | acciSpan _ => exact execAcciSpan_memInv h
  | acciStallResume _ _ => exact execAcciStallResume_memInv h
  | acciRestart _ => exact execAcciRestart_memInv h
  | dinstGroupWrite _ => exact encGrant_memInv h (fun _ _ => dinstGroup_memInv)
  | versionAnnounce _ _ => exact execVersionAnnounce_memInv h
  | spanTableCommand _ => exact execSpanTableCommand_memInv h
  | imgldRequest _ => exact execImgldRequest_memInv h
  | imgbldRequest _ => exact execImgbldRequest_memInv h
  | messageCommandStart _ _ => exact execMessageCommandStart_memInv h
  | messageArrive _ _ => exact execMessageArrive_memInv h
  | ingressRelease _ => exact execIngressRelease_memInv h
  | handlerDispatch _ => exact execHandlerDispatch_memInv h
  | deliveryPageResume _ _ => exact execDeliveryPageResume_memInv h
  | counterOpArrive _ => exact execCounterOpArrive_memInv h
  | mgmtQueueCreate _ _ _ => exact execMgmtQueueCreate_memInv h
  | mgmtPreempt _ _ => exact command_memInv h (fun _ h₁ => tell_memInv (ite_memInv h₁ h₁))
  | mgmtExchangeGrant _ _ _ => exact execMgmtExchangeGrant_memInv h
  | exchangeReclaimAck _ _ _ => exact execExchangeReclaimAck_memInv h
  | mgmtStorageTransfer _ _ => exact execMgmtStorageTransfer_memInv h
  | storageTransferDone _ _ _ => exact execStorageTransferDone_memInv h
  | mgmtReadTelemetry _ _ => exact execMgmtReadTelemetry_memInv h
  | mgmtAttestation _ _ =>
    exact command_memInv h (fun _ h₁ => ite_memInv (tell_memInv h₁) (State.emit_memInv h₁))
  | mgmtLoadFirmware _ _ _ _ _ => exact execMgmtLoadFirmware_memInv h
  | mgmtUnknownCommand _ _ => exact ite_outInv (.next h) (State.done_memInv (tell_memInv h))
  | hostMemoryWrite _ _ _ _ => exact execHostMemoryWrite_memInv h
  | hostMemoryRead _ _ _ _ => exact execHostMemoryRead_memInv h
  | moduleReset => exact execModuleReset_memInv
  | pierReset _ => exact State.done_memInv (ite_memInv h (State.setPier_memInv h))
  | firmwareGrant _ => exact execFirmwareGrant_memInv h
  | thermalThrottle _ _ => exact execThermalThrottle_memInv h
  | thermalStop _ _ => exact execThermalStop_memInv h
  | scrubPass _ _ => exact execScrubPass_memInv h
  | relocPagePull _ _ _ _ => exact execRelocPagePull_memInv h
  | leaseRangeResident _ _ => exact execLeaseRangeResident_memInv h
  | jobAdmission _ => exact execJobAdmission_memInv h
  | pagerAdviceApply _ => exact execPagerAdviceApply_memInv h
  | queueErrorReset _ _ => exact execQueueErrorReset_memInv h
  | pierFrequencySet _ _ | overScaledModeEnable _ =>
    exact ite_outInv (.next h) (State.done_memInv (State.setPier_memInv h))

/-- Every step that ends in a next state ends in a canonical one. -/
theorem step_memInv {s} (h : MemInv s) : OutInv (step s) := by
  have hp := prepare_memInv h
  unfold step
  split
  next e => exact hp.of_atEnd e
  next e => exact exec_memInv (hp.of_run e) _

/-- Settles O59: whatever an instruction or event does, it stores through operations that keep the canonical form. -/
theorem stepKeepsMemoriesCanonical : Obligations.StepKeepsMemoriesCanonical :=
  fun _ _ h e => (step_memInv h).of_next e

end Sys2Proof.Machine
end

/-!
## Resets, grant, admission, frequency, temperature and scrubbing (O53)

These operations update many entries of one table in turn: the decks that boot, the cores and contexts of a granted
pier, the piers of a deck. `kmodify` is such a row of updates on the table itself; the `foldl_set…` lemmas say that the
model's folds over the state are that, so that the rest of the state stays as it is, and the `kget_kmodify…` lemmas say
what is read afterwards. For each operation a lemma `exec…_next` then gives its next state.
-/
section
namespace Sys2Proof.Machine

/-! ### Tables: entries kept by their keys, values mapped, a row of updates -/

section
variable {α ι : Type} (d : α)

theorem kget_filter_key (f : Nat → Bool) (a : Nat) :
    ∀ m : KMap α, kget d (m.filter (fun e => f e.1)) a = if f a then kget d m a else d
  | [] => by simp [kget]
  | (k, v) :: m => by
    have ih := kget_filter_key f a m
    by_cases hk : f k <;> by_cases ha : a = k <;> simp_all [kget]

theorem kget_kdel (a b : Nat) (m : KMap α) : kget d (kdel a m) b = if b = a then d else kget d m b := by
  simpa [kdel] using kget_filter_key d (· != a) b m

/-- A map of the values of a table that keeps the default. -/
theorem kget_map_value {d : α} {f : α → α} (hf : f d = d) (a : Nat) :
    ∀ m : KMap α, kget d (m.map (fun e => (e.1, f e.2))) a = f (kget d m a)
  | [] => hf.symm
  | (k, v) :: m => by
    simp only [List.map_cons, kget, kget_map_value hf a m]
    split <;> rfl

/-- For each x of a list in turn, the entry at its key becomes `f x` of what it was. Irreducible, so that no proof runs the
fold on a list that is written out. -/
@[irreducible] def kmodify (key : ι → Nat) (f : ι → α → α) (xs : List ι) (m : KMap α) : KMap α :=
  xs.foldl (fun m x => kput (key x) (f x (kget d m (key x))) m) m

theorem kmodify_nil (key : ι → Nat) (f : ι → α → α) (m : KMap α) : kmodify d key f [] m = m := by
  unfold kmodify; rfl

theorem kmodify_cons (key : ι → Nat) (f : ι → α → α) (x : ι) (xs : List ι) (m : KMap α) :
    kmodify d key f (x :: xs) m = kmodify d key f xs (kput (key x) (f x (kget d m (key x))) m) := by
  unfold kmodify; rfl

/-- An entry sees, in their order, the updates at its own key. -/
theorem kget_kmodify (key : ι → Nat) (f : ι → α → α) (a : Nat) : ∀ (xs : List ι) (m : KMap α),
    kget d (kmodify d key f xs m) a = (xs.filter (fun x => key x == a)).foldl (fun v x => f x v) (kget d m a)
  | [], m => by rw [kmodify_nil]; rfl
  | x :: xs, m => by
    rw [kmodify_cons, kget_kmodify key f a xs]
    by_cases h : key x = a
    · subst h; simp
    · rw [kget_kput_ne d (Ne.symm h), List.filter_cons_of_neg (by simpa using h)]

theorem kget_kmodify_of_ne {key : ι → Nat} {f : ι → α → α} {a : Nat} {xs : List ι} (h : ∀ x ∈ xs, key x ≠ a) (m : KMap α) :
    kget d (kmodify d key f xs m) a = kget d m a := by
  rw [kget_kmodify, List.filter_eq_nil_iff.2 (by simpa using h)]
  rfl

/-- In a list without repeats, an element stands neither before nor behind its place. -/
theorem notMem_of_nodup_middle {as bs : List ι} {x : ι} (h : (as ++ x :: bs).Nodup) : x ∉ as ∧ x ∉ bs := by
  obtain ⟨-, hx, hd⟩ := List.nodup_append.1 h
  exact ⟨fun hm => hd x hm x List.mem_cons_self rfl, (List.nodup_cons.1 hx).1⟩

theorem kget_kmodify_of_mem {key : ι → Nat} {f : ι → α → α} {x : ι} {xs : List ι} (hk : ∀ y z, key y = key z → y = z) (hn : xs.Nodup)
    (hx : x ∈ xs) (m : KMap α) : kget d (kmodify d key f xs m) (key x) = f x (kget d m (key x)) := by
  obtain ⟨as, bs, rfl⟩ := List.append_of_mem hx
  obtain ⟨ha, hb⟩ := notMem_of_nodup_middle hn
  have none {ys : List ι} (h : x ∉ ys) : ys.filter (fun y => key y == key x) = [] :=
    List.filter_eq_nil_iff.2 fun y hy e => h (hk y x (eq_of_beq e) ▸ hy)
  rw [kget_kmodify, List.filter_append, List.filter_cons_of_pos (p := fun y => key y == key x) (beq_self_eq_true _), none ha, none hb]
  rfl

end

/-! ### Folds over the state are rows of updates -/

section
variable {α ι : Type} (key : ι → Nat)

/-- A fold whose steps update one table of a state is a row of updates of that table; `put` gives the state its table. -/
theorem foldl_eq_put_kmodify {d : α} {f : ι → α → α} {put : KMap α → State} {step : State → ι → State}
    (h : ∀ m x, step (put m) x = put (kput (key x) (f x (kget d m (key x))) m)) :
    ∀ (xs : List ι) (m : KMap α), xs.foldl step (put m) = put (kmodify d key f xs m)
  | [], m => by rw [kmodify_nil, List.foldl_nil]
  | x :: xs, m => by rw [kmodify_cons, List.foldl_cons, h, foldl_eq_put_kmodify h xs]

variable (xs : List ι) (s : State)

theorem foldl_setPier (f : ι → Pier → Pier) :
    xs.foldl (fun s x => s.setPier (key x) (f x (s.pier (key x)))) s = { s with piers := kmodify Pier.reset key f xs s.piers } :=
  foldl_eq_put_kmodify key (put := fun m => { s with piers := m }) (fun _ _ => rfl) xs s.piers

theorem foldl_setCore (f : ι → Core → Core) :
    xs.foldl (fun s x => s.setCore (key x) (f x (s.core (key x)))) s = { s with cores := kmodify Core.reset key f xs s.cores } :=
  foldl_eq_put_kmodify key (put := fun m => { s with cores := m }) (fun _ _ => rfl) xs s.cores

theorem foldl_setCtx (f : ι → Ctx → Ctx) :
    xs.foldl (fun s x => s.setCtx (key x) (f x (s.ctx (key x)))) s = { s with ctxs := kmodify Ctx.reset key f xs s.ctxs } :=
  foldl_eq_put_kmodify key (put := fun m => { s with ctxs := m }) (fun _ _ => rfl) xs s.ctxs

theorem foldl_setDeck (f : ι → Deck → Deck) :
    xs.foldl (fun s x => s.setDeck (key x) (f x (s.deck (key x)))) s = { s with decks := kmodify Deck.reset key f xs s.decks } :=
  foldl_eq_put_kmodify key (put := fun m => { s with decks := m }) (fun _ _ => rfl) xs s.decks

end

/-! ### Module reset and boot (R407, R409) -/

theorem State.deck_setDeck (s : State) (d e : Nat) (x : Deck) : (s.setDeck d x).deck e = if e = d then x else s.deck e :=
  kget_kput _ _ _ _ _

theorem State.boot_setBoot (s : State) (d e : Nat) (x : Boot) : (s.setBoot d x).boot e = if e = d then x else s.boot e :=
  kget_kput _ _ _ _ _

/-- Of the state, a stage's check reads only the fused minimum version. -/
theorem bootStage_congr {s t : State} (h : s.fuseVer = t.fuseVer) : bootStage s = bootStage t := by
  have hi : imageOk s = imageOk t := by funext hash i; simp [imageOk, h]
  funext hash slots active
  simp [bootStage, hi]

theorem bootSlot_congr {s t : State} (h : s.fuseVer = t.fuseVer) : bootSlot s = bootSlot t := by
  have hi : imageOk s = imageOk t := by funext hash i; simp [imageOk, h]
  funext hash slots active
  simp [bootSlot, hi]

theorem foldl_bootDeck_frame (ds : List Nat) (s : State) :
    ds.foldl bootDeck s = { s with boots := (ds.foldl bootDeck s).boots, decks := (ds.foldl bootDeck s).decks } :=
  List.foldlRecOn (motive := fun t => t = { s with boots := t.boots, decks := t.decks }) ds bootDeck rfl
    fun t h d _ => by rw [h]; rfl

theorem boot_foldl_bootDeck_of_notMem {ds : List Nat} {d : Nat} (h : d ∉ ds) (s : State) :
    (ds.foldl bootDeck s).boot d = s.boot d :=
  List.foldlRecOn (motive := fun t => t.boot d = s.boot d) ds bootDeck rfl fun t ht e he =>
    (State.boot_setBoot t e d _).trans (by rw [if_neg (ne_of_mem_of_not_mem he h).symm, ht])

theorem deck_foldl_bootDeck_of_notMem {ds : List Nat} {d : Nat} (h : d ∉ ds) (s : State) :
    (ds.foldl bootDeck s).deck d = s.deck d :=
  List.foldlRecOn (motive := fun t => t.deck d = s.deck d) ds bootDeck rfl fun t ht e he =>
    (State.deck_setDeck (t.setBoot e _) e d _).trans (by rw [if_neg (ne_of_mem_of_not_mem he h).symm]; exact ht)

/-- In a row of boots, each deck boots as it would from its own slots at the start: no other deck touches them. -/
theorem foldl_bootDeck_of_mem {ds : List Nat} {d : Nat} (hn : ds.Nodup) (hd : d ∈ ds) (s : State) :
    ∃ u, u.fuseVer = s.fuseVer ∧ u.fuseKey = s.fuseKey ∧ u.boot d = s.boot d ∧
      (ds.foldl bootDeck s).boot d = (bootDeck u d).boot d ∧ (ds.foldl bootDeck s).deck d = (bootDeck u d).deck d := by
  obtain ⟨as, bs, rfl⟩ := List.append_of_mem hd
  obtain ⟨ha, hb⟩ := notMem_of_nodup_middle hn
  refine ⟨as.foldl bootDeck s, ?_, ?_, boot_foldl_bootDeck_of_notMem ha s, ?_, ?_⟩
  · rw [foldl_bootDeck_frame]
  · rw [foldl_bootDeck_frame]
  · rw [List.foldl_append]; exact boot_foldl_bootDeck_of_notMem hb _
  · rw [List.foldl_append]; exact deck_foldl_bootDeck_of_notMem hb _

@[simp] theorem State.boot_setBoot_same (s : State) (d : Nat) (x : Boot) : (s.setBoot d x).boot d = x := kget_kput_same ..
@[simp] theorem State.boot_setDeck (s : State) (d e : Nat) (x : Deck) : (s.setDeck d x).boot e = s.boot e := rfl

/-- A boot keeps the slots, and the first stage runs from the slot that it booted. -/
theorem bootDeck_boot (s : State) (d : Nat) :
    ((bootDeck s d).boot d).slots1 = (s.boot d).slots1 ∧ ((bootDeck s d).boot d).slots2 = (s.boot d).slots2 ∧
      ((bootDeck s d).boot d).active1 = bootSlot s s.fuseKey (s.boot d).slots1 (s.boot d).active1 := by
  simp [bootDeck]

/-- The state that a module reset begins to boot: every item at its reset value but the flash, the fuses and the module's place in the fabric. -/
def resetKeeping (s : State) : State :=
  { State.reset with
    boots := s.boots, fuseVer := s.fuseVer, fuseKey := s.fuseKey, serial := s.serial, hosts := s.hosts
    ownPrefix := s.ownPrefix, out := s.out, nextUid := s.nextUid, cur := s.cur, agenda := s.agenda, free := s.free }

/-- A module reset changes boots and decks alone after that, and each deck boots from its own slots. -/
theorem execModuleReset_next (s : State) : ∃ t, execModuleReset s = .next t ∧
    t = { resetKeeping s with boots := t.boots, decks := t.decks } ∧
    ∀ d < 16, ∃ u, u.fuseVer = t.fuseVer ∧ u.fuseKey = t.fuseKey ∧ u.boot d = s.boot d ∧
      t.boot d = (bootDeck u d).boot d ∧ t.deck d = (bootDeck u d).deck d := by
  have hf := foldl_bootDeck_frame (List.range 16) (resetKeeping s)
  refine ⟨(List.range 16).foldl bootDeck (resetKeeping s),
    State.done_of (s := (List.range 16).foldl bootDeck (resetKeeping s)) (by rw [hf]; rfl), hf, fun d hd => ?_⟩
  obtain ⟨u, hv, hk, hb, ht⟩ := foldl_bootDeck_of_mem List.nodup_range (List.mem_range.2 hd) (resetKeeping s)
  refine ⟨u, hv.trans ?_, hk.trans ?_, hb, ht⟩ <;> rw [foldl_bootDeck_frame]

/-! ### Pier reset (R154, R193) -/

theorem execPierReset_next (p : Nat) {s : State} (hs : s.broken = none) : ∃ t, execPierReset p s = .next t ∧
    t.pier p = { Pier.reset with slots := (s.pier p).slots } ∧ (∀ q, q ≠ p → t.pier q = s.pier q) ∧
    (∀ k, t.core k = if k / 8 = p then Core.reset else s.core k) ∧ (∀ c, t.ctx c = if c / 32 = p then Ctx.reset else s.ctx c) ∧
    t.granEmpty = s.granEmpty.filter (fun g => g / 8192 / 8 != p) ∧ t.mem = s.mem ∧ t.spad = s.spad ∧ t.acc = s.acc := by
  have core (k : Nat) : kget Core.reset (s.cores.filter (fun e => !(e.1 / 8 == p))) k = if k / 8 = p then Core.reset else s.core k := by
    rw [kget_filter_key Core.reset (fun n => !(n / 8 == p))]
    by_cases h : k / 8 = p <;> simp [h, State.core]
  have ctx (c : Nat) : kget Ctx.reset (s.ctxs.filter (fun e => e.1 / 32 != p)) c = if c / 32 = p then Ctx.reset else s.ctx c := by
    rw [kget_filter_key Ctx.reset (fun n => n / 32 != p)]
    by_cases h : c / 32 = p <;> simp [h, State.ctx]
  have pier (q : Nat) : kget Pier.reset (kdel p s.piers) q = if q = p then Pier.reset else s.pier q := kget_kdel _ _ _ _
  unfold execPierReset
  extract_lets mine kept s'
  by_cases hk : kept.isEmpty = true
  · rw [if_pos hk]
    refine ⟨s', State.done_of hs, ?_, fun q hq => (pier q).trans (if_neg hq), core, ctx, rfl, rfl, rfl, rfl⟩
    rw [← show kept = (s.pier p).slots from rfl, List.isEmpty_iff.1 hk]
    exact (pier p).trans (if_pos rfl)
  · rw [if_neg hk]
    refine ⟨_, State.done_of hs, ?_, fun q hq => ?_, core, ctx, rfl, rfl, rfl, rfl⟩
    · exact (State.pier_setPier_same ..).trans (congrArg (fun x : Pier => { x with slots := kept }) ((pier p).trans (if_pos rfl)))
    · rw [State.pier_setPier, if_neg hq]; exact (pier q).trans (if_neg hq)

/-! ### Grant of piers (R96, R186, R257) -/

/-- A pier as a grant leaves it. -/
def grantedPier (vd : Nat) (x : Pier) : Pier :=
  { x with owner := some vd, trsplit := 0, split := 0, splitWait := [], slots := [], marks := []
           dslots := [], tracked := [], images := [], tlb := [], events := [], jobs := [], recvs := []
           recvStates := [], overflow := [], deliveries := [], held := [], fullRaised := false
           annHeld := [], fifos := [], deque := [], dqWait := [], entries := [] }

/-- The i-th context of a granted pier. -/
def grantedCtx (vd tenant : Nat) (stks : List Nat) (i : Nat) (x : Ctx) : Ctx :=
  { x with vd := vd, tenant := BitVec.ofNat 16 tenant, stkbase := BitVec.ofNat 64 (stks.getD i 0) }

/-- A grant changes one pier, its tiles, the translations of its cores and of its deck, and its contexts. -/
theorem grantPier_eq (s : State) (p vd tenant : Nat) (stks : List Nat) :
    grantPier s p vd tenant stks = { s with
      piers := kput p (grantedPier vd (s.pier p)) s.piers
      acc := memClear s.acc (p * 2 ^ 17) (p * 2 ^ 17 + 2 ^ 17), poison := (clearTiles s p).poison
      cores := kmodify Core.reset (p * 8 + ·) (fun _ x => { x with utlb := [] }) (List.range 8) s.cores
      decks := kput (deckOfPier p) { s.deck (deckOfPier p) with walks := [] } s.decks
      ctxs := kmodify Ctx.reset (p * 32 + ·) (grantedCtx vd tenant stks) (List.range 32) s.ctxs } := by
  unfold grantPier
  refine (foldl_setCtx (p * 32 + ·) _ _ (grantedCtx vd tenant stks)).trans ?_
  rw [foldl_setCore (p * 8 + ·) _ _ (fun _ x => { x with utlb := [] })]
  rfl

theorem grantPier_pier (s : State) (p vd tenant : Nat) (stks : List Nat) (q : Nat) :
    (grantPier s p vd tenant stks).pier q = if q = p then grantedPier vd (s.pier p) else s.pier q := by
  rw [State.pier, grantPier_eq, kget_kput]
  rfl

theorem grantPier_core (s : State) (p vd tenant : Nat) (stks : List Nat) {k : Nat} (hk : k < 8) :
    (grantPier s p vd tenant stks).core (p * 8 + k) = { s.core (p * 8 + k) with utlb := [] } := by
  rw [State.core, grantPier_eq, kget_kmodify_of_mem Core.reset (fun _ _ => Nat.add_left_cancel) List.nodup_range (List.mem_range.2 hk)]
  rfl

theorem grantPier_ctx (s : State) (p vd tenant : Nat) (stks : List Nat) {i : Nat} (hi : i < 32) :
    (grantPier s p vd tenant stks).ctx (p * 32 + i) = grantedCtx vd tenant stks i (s.ctx (p * 32 + i)) := by
  rw [State.ctx, grantPier_eq, kget_kmodify_of_mem Ctx.reset (fun _ _ => Nat.add_left_cancel) List.nodup_range (List.mem_range.2 hi)]
  rfl

theorem grantPier_ctx_of_ne (s : State) (p vd tenant : Nat) (stks : List Nat) {c : Nat} (hc : c / 32 ≠ p) :
    (grantPier s p vd tenant stks).ctx c = s.ctx c := by
  have hne : ∀ i ∈ List.range 32, p * 32 + i ≠ c := fun i hi => by
    have := List.mem_range.1 hi
    omega
  rw [State.ctx, grantPier_eq, kget_kmodify_of_ne Ctx.reset hne, State.ctx]

theorem grantPier_acc (s : State) (p vd tenant : Nat) (stks : List Nat) (h : Memory.wf s.acc = true) (a : Nat) :
    memGet (grantPier s p vd tenant stks).acc a = if p * 2 ^ 17 ≤ a ∧ a < (p + 1) * 2 ^ 17 then 0 else memGet s.acc a := by
  rw [grantPier_eq, Nat.succ_mul]
  exact memGet_memClear _ _ a _ none h

/-- The virtual device that a grant makes. -/
def grantedVDev (cfg : GrantCfg) : VDev :=
  { piers := cfg.piers, root := cfg.root, peerTab := cfg.peerTab, tracking := cfg.tracking
    migThresh := if cfg.migThresh == 0 then 256 else cfg.migThresh
    tenant := cfg.tenant, recPool := cfg.recPool, framePool := cfg.framePool, stackPool := cfg.stackPool.drop (32 * cfg.piers.length)
    reuseBase := cfg.reuseBase, reuseQuota := cfg.reuseQuota
    reuseFree := (List.range cfg.reuseQuota).map (fun i => cfg.reuseBase + 8192 * i), reserving := none, coresQ := []
    quiesced := false, movedTo := none, movedFrom := none, recFixes := [], tablePool := cfg.tablePool, jobs := [] }

theorem getD_take_of_lt {l : List Nat} {i n : Nat} (h : i < n) : (l.take n).getD i 0 = l.getD i 0 := by
  rw [List.getD_eq_getElem?_getD, List.getElem?_take_of_lt h, List.getD_eq_getElem?_getD]

/-- The grant of one pier that is free. -/
theorem execFirmwareGrant_next {cfg : GrantCfg} {p : Nat} {s : State} (hs : s.broken = none) (hv : s.vdev? cfg.vd = none)
    (hc : cfg.piers = [p]) (hp : p < 12800) (ho : (s.pier p).owner = none) (hu : s.unpowered p = false)
    (hb : (s.deck (deckOfPier p)).booted = true) (hi : ∀ i < 32, (s.ctx (p * 32 + i)).busy = false)
    (hn : 32 ≤ cfg.stackPool.length) (hm : cfg.migThresh < 65536) (hr : cfg.root % 4096 = 0) :
    execFirmwareGrant cfg s = .next (grantPier (s.setVdev cfg.vd (grantedVDev cfg)) p cfg.vd cfg.tenant (cfg.stackPool.take 32)) := by
  have hidle : (List.range 32).all (fun i => !(s.ctx (p * 32 + i)).busy) = true := by simpa using hi
  unfold execFirmwareGrant
  extract_lets free need v s'
  have hfree : free p = true := by simp [free, hp, ho, hu, hb, hidle]
  have hneed : need = 32 := by simp [need, hc]
  rw [if_neg, hc]
  · simp only [List.length_singleton, List.range_one, List.zip_cons_cons, List.zip_nil_right, List.foldl_cons, List.foldl_nil, Nat.mul_zero,
      List.drop_zero]
    exact State.done_of (by rw [grantPier_eq]; exact hs)
  · simp [hv, hc, rising, hfree, hneed, hr]
    omega

/-! ### Admission of a job (R24, R32, R96, R290) -/

/-- The configuration of a job that an admission does not ignore. -/
theorem jobCfg_ok {cfg : JobCfg} {v : VDev} (hf : cfg.fentry % 4 = 0) (hl : cfg.fentry < 2 ^ 48) (hd : cfg.deck < 16)
    (hq : v.quiesced = false) : (cfg.fentry % 4 != 0 || cfg.fentry / 2 ^ 48 != 0 || decide (cfg.deck > 15) || v.quiesced) = false := by
  rw [hf, Nat.div_eq_of_lt hl, hq, decide_eq_false (by omega)]
  rfl

theorem execJobAdmission_small {cfg : JobCfg} {v : VDev} {s : State} (hs : s.broken = none) (hv : s.vdev? cfg.vd = some v)
    (hf : cfg.fentry % 4 = 0) (hl : cfg.fentry < 2 ^ 48) (hd : cfg.deck < 16) (hq : v.quiesced = false) (hn : cfg.frameQuota < 64) :
    execJobAdmission cfg s = .next { s with out := s.out ++ [.mgmt false []] } := by
  simp only [execJobAdmission, hv]
  rw [if_neg (by rw [jobCfg_ok hf hl hd hq]; decide), if_pos hn]
  exact State.done_of hs

/-- Without an entry-point table, the copies of the job's entries are all that there is to clear. -/
theorem clearEntries_noTable (s : State) (vd job : Nat) : clearEntries s vd job 0 =
    { s with piers := s.piers.map (fun e => (e.1, { e.2 with entries := e.2.entries.filter (fun x => x.1 / 256 != job) })) } := rfl

theorem foldl_const_idem {α ι : Type} {f : α → α} (hf : ∀ a, f (f a) = f a) (a : α) :
    ∀ xs : List ι, xs ≠ [] → xs.foldl (fun v _ => f v) a = f a
  | [x], _ => rfl
  | x :: y :: xs, _ => by
    rw [List.foldl_cons, foldl_const_idem hf (f a) (y :: xs) (by simp), hf]

/-- The state that the admission of job n without an entry-point table answers with. -/
def admitted (s : State) (cfg : JobCfg) (v : VDev) (n : Nat) : State :=
  { s with
    vdevs := kput cfg.vd { v with jobs := v.jobs ++ [n] } s.vdevs
    launches := kdel n s.launches
    jobs := kput n { vd := cfg.vd, tenant := v.tenant, fentry := cfg.fentry, handlers := cfg.handlers, entryTab := 0
                     counterQuota := cfg.counterQuota, frameQuota := cfg.frameQuota, cancelled := false, cause := .none } s.jobs
    counters := kput n ⟨n, 0, 0, .level, false, 0, [], false⟩ s.counters
    piers := (kmodify Pier.reset (fun p => p) (fun _ x => { x with stealr := 4 }) v.piers s.piers).map
      (fun e => (e.1, { e.2 with entries := e.2.entries.filter (fun x => x.1 / 256 != n) }))
    out := s.out ++ [.mgmt true [BitVec.ofNat 64 n]] }

theorem execJobAdmission_next {cfg : JobCfg} {v : VDev} {n : Nat} {s : State} (hs : s.broken = none) (hv : s.vdev? cfg.vd = some v)
    (hf : cfg.fentry % 4 = 0) (hl : cfg.fentry < 2 ^ 48) (hd : cfg.deck < 16) (hq : v.quiesced = false) (hn : 64 ≤ cfg.frameQuota)
    (hi : freeCounterId s cfg.deck = some n) (he : cfg.entryTab = 0) : execJobAdmission cfg s = .next (admitted s cfg v n) := by
  simp only [execJobAdmission, hv, hi, he]
  rw [if_neg (by rw [jobCfg_ok hf hl hd hq]; decide), if_neg (by omega), clearEntries_noTable,
    foldl_setPier (fun p => p) _ _ (fun _ x => { x with stealr := 4 })]
  exact State.done_of hs

theorem admitted_pier (s : State) (cfg : JobCfg) (v : VDev) (n p : Nat) :
    (admitted s cfg v n).pier p = { s.pier p with
      entries := (s.pier p).entries.filter (fun e => e.1 / 256 != n)
      stealr := if p ∈ v.piers then 4 else (s.pier p).stealr } := by
  refine (kget_map_value (f := fun x : Pier => { x with entries := x.entries.filter (fun e => e.1 / 256 != n) }) rfl p _).trans ?_
  by_cases hp : p ∈ v.piers
  · have hne : v.piers.filter (fun q => q == p) ≠ [] := fun h => by
      simpa using (List.filter_eq_nil_iff.1 h) p hp
    rw [kget_kmodify, foldl_const_idem (f := fun x : Pier => { x with stealr := 4 }) (fun _ => rfl) _ _ hne, if_pos hp]
    rfl
  · rw [kget_kmodify_of_ne _ (fun q hq => ne_of_mem_of_not_mem hq hp), if_neg hp]
    rfl

/-! ### Frequency and the over-scaled mode (R11, R69) -/

theorem onlyPier_setPier (s : State) (p : Nat) (x : Pier) : OnlyPier s (s.setPier p x) p :=
  ⟨rfl, fun q hq => by rw [State.pier_setPier, if_neg hq]⟩

theorem execPierFrequencySet_next {p f : Nat} {s : State} (hs : s.broken = none) (hp : p < 12800) (hl : 600 ≤ f) (hu : f ≤ 1900) :
    execPierFrequencySet p f s = .next (s.setPier p { s.pier p with freq := f }) := by
  unfold execPierFrequencySet
  rw [if_neg (by simp; omega)]
  exact State.done_of hs

theorem execOverScaledModeEnable_next {p : Nat} {s : State} (hs : s.broken = none) (hp : p < 12800) :
    execOverScaledModeEnable p s = .next (s.setPier p { s.pier p with overScaled := true }) := by
  unfold execOverScaledModeEnable
  rw [if_neg (by omega)]
  exact State.done_of hs

theorem State.countEvent_pier (s : State) (p ev n q : Nat) : (s.countEvent p ev n).pier q =
    if q = p then { s.pier p with events := kput ev (kget 0 (s.pier p).events ev + BitVec.ofNat 64 n) (s.pier p).events } else s.pier q :=
  State.pier_setPier _ _ _ _

theorem State.countEvent_events (s : State) (p ev n e : Nat) : kget 0 ((s.countEvent p ev n).pier p).events e =
    if e = ev then kget 0 (s.pier p).events ev + BitVec.ofNat 64 n else kget 0 (s.pier p).events e := by
  rw [State.countEvent_pier, if_pos rfl]
  exact kget_kput _ _ _ _ _

theorem chargeCore_broken (s : State) (k n : Nat) : (chargeCore s k n).broken = s.broken := by
  unfold chargeCore
  extract_lets
  split
  · rfl
  · split <;> rfl

theorem chargeCore_cycles (s : State) (k n : Nat) :
    ((chargeCore s k n).core k).cycles = (s.core k).cycles + BitVec.ofNat 64 n := by
  have h : ((s.setCore k { s.core k with cycles := (s.core k).cycles + BitVec.ofNat 64 n }).core k).cycles =
      (s.core k).cycles + BitVec.ofNat 64 n := by rw [State.core_setCore_same]
  unfold chargeCore
  extract_lets
  split
  · exact h
  · split <;> exact h

/-- Cycles of a core count no event but event 8. -/
theorem chargeCore_events (s : State) (k n : Nat) {e : Nat} (he : e ≠ 8) :
    kget 0 ((chargeCore s k n).pier (pierOfCore k)).events e = kget 0 (s.pier (pierOfCore k)).events e := by
  unfold chargeCore
  extract_lets
  split
  · rfl
  · split
    · rfl
    · rw [State.countEvent_events, if_neg he]; rfl

/-- The state in which a replay has taken its three cycles. -/
def replayCharged (s : State) (k : Nat) : State :=
  chargeCore (s.setCore k { s.core k with replays := (s.core k).replays + 1 }) k 3

theorem replayCore_overScaled {s : State} {k : Nat} (ho : (s.pier (pierOfCore k)).overScaled = true) :
    replayCore s k = ((replayCharged s k).setPier (pierOfCore k)
      { (replayCharged s k).pier (pierOfCore k) with overScaled := decide ((s.core k).replays + 1 < 2) }).countEvent (pierOfCore k) 1 1 := by
  unfold replayCore
  exact if_neg (by rw [ho]; decide)

/-- A replay turn in the over-scaled mode: three cycles and event 1; the first replay of an instruction keeps the mode. -/
theorem step_replay {s : State} {k : Nat} {ts : List Turn} (hs : s.broken = none) (ha : s.agenda = .replay k :: ts)
    (ho : (s.pier (pierOfCore k)).overScaled = true) : ∃ t, step s = .next t ∧
      kget 0 (t.pier (pierOfCore k)).events 1 = kget 0 (s.pier (pierOfCore k)).events 1 + 1 ∧
      (t.pier (pierOfCore k)).overScaled = decide ((s.core k).replays = 0) ∧ (t.core k).cycles = (s.core k).cycles + 3 := by
  have hstep : step s = (replayCore { s with agenda := ts } k).done := by simp only [step, prepare, nextTurn, ha]
  rw [replayCore_overScaled (show (State.pier { s with agenda := ts } (pierOfCore k)).overScaled = true from ho)] at hstep
  refine ⟨_, hstep.trans (State.done_of ?_), ?_, ?_, ?_⟩
  · exact (chargeCore_broken _ _ _).trans hs
  · rw [State.countEvent_events, if_pos rfl, State.pier_setPier_same]
    exact congrArg (· + 1) (chargeCore_events _ _ _ (by decide))
  · rw [State.countEvent_pier, if_pos rfl, State.pier_setPier_same]
    exact decide_eq_decide.2 (by show (s.core k).replays + 1 < 2 ↔ _; omega)
  · refine (chargeCore_cycles _ _ _).trans ?_
    rw [State.core_setCore_same]
    rfl

/-! ### Temperature (R9, R411) -/

theorem deckOfPier_lt {p : Nat} (hp : p < 12800) : deckOfPier p < 16 := by
  simp only [deckOfPier, pierX, pierY]
  omega

/-- The piers of a deck are the piers whose deck it is. -/
theorem mem_piersOfDeck {d p : Nat} : p ∈ piersOfDeck d ↔ deckOfPier p = d := by
  simp only [piersOfDeck, List.mem_flatMap, List.mem_map, List.mem_range, deckOfPier, pierX, pierY, pierAt]
  constructor
  · rintro ⟨j, hj, i, hi, rfl⟩
    omega
  · intro h
    exact ⟨p / 200 % 32, by omega, p % 200 % 25, by omega, by omega⟩

/-- Each pier of a deck is listed once. -/
theorem nodup_piersOfDeck (d : Nat) : (piersOfDeck d).Nodup := by
  refine List.pairwise_flatMap.2 ⟨fun j _ => List.pairwise_map.2 (List.nodup_range.imp fun {a b} hab => ?_), ?_⟩
  · simp only [pierAt]
    omega
  · refine List.nodup_range.imp fun {i j} hij => ?_
    simp only [List.mem_map, List.mem_range, pierAt]
    rintro _ ⟨a, ha, rfl⟩ _ ⟨b, hb, rfl⟩ h
    omega

/-- The piers of a deck that a throttling step lowers. -/
def hotPiers (s : State) (deck : Nat) : List Nat := (piersOfDeck deck).filter (fun p => (s.pier p).freq > 600)

theorem mem_hotPiers {s : State} {deck p : Nat} : p ∈ hotPiers s deck ↔ deckOfPier p = deck ∧ 600 < (s.pier p).freq := by
  simp [hotPiers, mem_piersOfDeck]

theorem nodup_hotPiers (s : State) (deck : Nat) : (hotPiers s deck).Nodup := (nodup_piersOfDeck deck).filter _

/-- One throttling step lowers each pier of the deck that is above the lowest frequency, once. -/
theorem execThermalThrottle_next {deck : Nat} {temp : BitVec 16} {s : State} (hs : s.broken = none) (hd : deck < 16) :
    ∃ t, execThermalThrottle deck temp s = .next t ∧ t = { s with decks := t.decks, piers := t.piers } ∧ (t.deck deck).junction = temp ∧
      ∀ p, t.pier p = if deckOfPier p = deck ∧ 760 < temp.toInt ∧ 600 < (s.pier p).freq then
        { s.pier p with freq := max 600 ((s.pier p).freq - 100) } else s.pier p := by
  unfold execThermalThrottle
  rw [if_neg (by omega)]
  extract_lets _ s1 ps _ s2
  rw [show ps = hotPiers s deck from rfl,
    foldl_setPier (fun p => p) _ _ (fun _ x => { x with freq := max 600 (x.freq - 100) })]
  have hj : (s1.deck deck).junction = temp := by rw [State.deck_setDeck_same]
  by_cases hc : temp.toInt ≤ 760 ∨ hotPiers s deck = []
  · rw [if_pos (by simpa using hc)]
    refine ⟨s1, State.done_of hs, rfl, hj, fun p => (if_neg ?_).symm⟩
    rintro ⟨h1, h2, h3⟩
    rcases hc with hc | hc
    · omega
    · exact List.ne_nil_of_mem (mem_hotPiers.2 ⟨h1, h3⟩) hc
  · rw [if_neg (by simpa using hc)]
    refine ⟨_, State.done_of hs, rfl, (congrArg Deck.junction (State.deck_setDeck_same s1 deck _)).trans hj, fun p => ?_⟩
    by_cases hm : p ∈ hotPiers s deck
    · rw [if_pos ⟨(mem_hotPiers.1 hm).1, by omega, (mem_hotPiers.1 hm).2⟩]
      exact kget_kmodify_of_mem Pier.reset (key := fun p => p) (fun _ _ h => h) (nodup_hotPiers s deck) hm s.piers
    · rw [if_neg fun h => hm (mem_hotPiers.2 ⟨h.1, h.2.2⟩)]
      exact kget_kmodify_of_ne Pier.reset (fun q hq => ne_of_mem_of_not_mem hq hm) s.piers

theorem execThermalStop_cool {deck : Nat} {temp : BitVec 16} {s : State} (hs : s.broken = none) (hd : deck < 16) (ht : temp.toInt < 840) :
    execThermalStop deck temp s = .next (s.setDeck deck { s.deck deck with junction := temp }) := by
  simp only [execThermalStop]
  rw [if_neg (by omega), if_pos ht]
  exact State.done_of hs

/-- A state in which every deck has stopped and every pier is powered down. -/
def poweredDown (s : State) : State :=
  { s with
    decks := kmodify Deck.reset (fun d => d) (fun _ x => { x with stopped := true, walks := [] }) (List.range 16) s.decks
    piers := s.piers.map (fun e => (e.1, { e.2 with poweredDown := true, tlb := [] }))
    cores := s.cores.map (fun e => (e.1, { e.2 with utlb := [] })) }

/-- With no unit left on a context, the module powers down. -/
theorem execThermalStop_idle {deck : Nat} {temp : BitVec 16} {s : State} (hs : s.broken = none) (hd : deck < 16) (ht : 840 ≤ temp.toInt)
    (hi : s.ctxs.all (fun c => !c.2.busy) = true) :
    execThermalStop deck temp s = .next (poweredDown (s.setDeck deck { s.deck deck with junction := temp })) := by
  unfold execThermalStop
  rw [if_neg (by omega)]
  extract_lets _ s1 busy new s2
  have hb : busy = false := by
    refine List.any_eq_false.2 fun c hc => ?_
    simp [(by simpa using List.all_eq_true.1 hi c hc : c.2.busy = false)]
  have h2 : s2 = _ := foldl_setDeck (fun d => d) (List.range 16) s1 (fun _ x => { x with stopped := true, walks := [] })
  rw [if_neg (by omega), if_neg (by rw [hb]; decide), h2]
  exact State.done_of hs

theorem poweredDown_stopped (s : State) {d : Nat} (hd : d < 16) : ((poweredDown s).deck d).stopped = true := by
  rw [State.deck, poweredDown, kget_kmodify_of_mem Deck.reset (fun _ _ h => h) List.nodup_range (List.mem_range.2 hd)]

theorem poweredDown_unpowered (s : State) {p : Nat} (hp : p < 12800) : (poweredDown s).unpowered p = true := by
  rw [State.unpowered, poweredDown_stopped s (deckOfPier_lt hp), Bool.or_true]

theorem poweredDown_piers (s : State) : ∀ e ∈ (poweredDown s).piers, e.2.poweredDown = true ∧ e.2.tlb = [] := by
  intro e he
  obtain ⟨x, -, rfl⟩ := List.mem_map.1 he
  exact ⟨rfl, rfl⟩

/-- With units on contexts, the first step of a stop asks for every virtual device to be pre-empted. -/
theorem execThermalStop_busy {deck : Nat} {temp : BitVec 16} {s : State} (hs : s.broken = none) (hd : deck < 16) (ht : 840 ≤ temp.toInt)
    (hb : s.ctxs.any (fun c => c.2.busy && c.2.role != .firmware) = true) (hp : s.preempts = []) : ∃ t,
      execThermalStop deck temp s = .next t ∧ t.preempts = s.vdevs.map (fun v => preRequest s none (.vd v.1)) := by
  unfold execThermalStop
  rw [if_neg (by omega)]
  extract_lets _ s1 busy new
  rw [if_neg (by omega), if_pos (show busy = true from hb)]
  refine ⟨_, State.done_of hs, ?_⟩
  show s.preempts ++ (s.vdevs.map (fun v => preRequest s none (.vd v.1))).filter (fun q => !s.preempts.contains q) = _
  simp [hp]

/-! ### Scrubbing (R388 to R390) -/

theorem execScrubPass_clean {u : ScrubUnit} {s : State} (hu : unitExists u = true) : execScrubPass u .clean s = .next s := by
  simp [execScrubPass, hu]

section
variable {c o : Nat} {s : State}

theorem execScrubPass_corrected (hs : s.broken = none) (hu : unitExists (.spad c o) = true) (hp : .spad c o ∉ s.poison) :
    execScrubPass (.spad c o) .corrected s = .next (s.countEvent (c / 8) 15 1) := by
  simp only [execScrubPass, hu]
  rw [if_neg (by simp), if_neg (by simpa using hp)]
  exact State.done_of hs

theorem execScrubPass_unowned (hs : s.broken = none) (hu : unitExists (.spad c o) = true) (hp : .spad c o ∉ s.poison)
    (ho : (s.pier (c / 8)).owner = none) : execScrubPass (.spad c o) .uncorrectable s =
      .next (countUncorr { s with poison := s.poison ++ [.spad c o] } (deckOfPier (c / 8))) := by
  have hc : s.poison.contains (.spad c o) = false := by simpa using hp
  simp only [execScrubPass, hu, unitPlace, poisonsUnit, pierOfCore, ho, hc]
  exact State.done_of hs

theorem execScrubPass_owned {vd : Nat} (hs : s.broken = none) (hu : unitExists (.spad c o) = true) (hp : .spad c o ∉ s.poison)
    (ho : (s.pier (c / 8)).owner = some vd) :
    let t := countUncorr { s with poison := s.poison ++ [.spad c o] } (deckOfPier (c / 8))
    execScrubPass (.spad c o) .uncorrectable s =
      .next (memerrNotice t vd (noticeTo t vd).1 (c / 8) (BitVec.ofNat 64 (2 ^ 20 + c % 8 * 2 ^ 17 + o))) := by
  have hc : s.poison.contains (.spad c o) = false := by simpa using hp
  simp only [execScrubPass, hu, unitPlace, poisonsUnit, pierOfCore, ho, hc]
  exact State.done_of hs

end

/-- Settles O53: each operation's next state, read where the statement asks. -/
theorem resetGrantAndSensors : Obligations.ResetGrantAndSensors := by
  intro s hs
  refine ⟨?_, ?_, ?_, ?_, ?_, ?_, ?_, ?_⟩
  · obtain ⟨t, he, ht, hd⟩ := execModuleReset_next s
    refine ⟨t, he, ht, fun d hlt => ?_⟩
    obtain ⟨u, hv, hk, hb, hboot, hdeck⟩ := hd d hlt
    obtain ⟨h1, h2, ha⟩ := bootDeck_boot u d
    rw [hboot, hdeck, h1, h2, ha, ← bootStage_congr hv, ← bootSlot_congr hv, ← hk, ← hb]
    refine ⟨?_, ?_, rfl, rfl, rfl⟩
    · refine Eq.trans (congrArg Deck.booted (State.deck_setDeck_same ..)) ?_
      rfl
    · refine Eq.trans (congrArg Boot.meas (State.boot_setBoot_same ..)) ?_
      rfl
  · intro p
    obtain ⟨t, he, hp, hq, hc, hx, hg, hm⟩ := execPierReset_next p hs
    refine ⟨t, he, hp, fun k hk => ?_, fun c hlt => ?_, fun g => ?_, hq, fun k hk => ?_, fun c hne => ?_, hm⟩
    · rw [hc, if_pos (by omega)]
    · rw [hx, if_pos (by omega)]
    · simp [hg, Nat.div_div_eq_div_mul]
    · rw [hc, if_neg hk]
    · rw [hx, if_neg hne]
  · intro cfg p hv hc hp ho hu hb hi hn hm hr
    have hpier := (grantPier_pier (s.setVdev cfg.vd (grantedVDev cfg)) p cfg.vd cfg.tenant (cfg.stackPool.take 32) p).trans (if_pos rfl)
    refine ⟨_, grantedVDev cfg, execFirmwareGrant_next hs hv hc hp ho hu hb hi hn hm hr, ?_, hc, rfl, rfl, ?_, rfl, ?_, ?_⟩
    · rw [State.vdev?, grantPier_eq]; exact kget?_kput_same ..
    · simp [grantedVDev, hc]
    · simp [grantedVDev]
    rw [hpier]
    refine ⟨rfl, rfl, rfl, rfl, rfl, rfl, rfl, rfl, rfl, rfl, rfl, rfl, fun k hk => ?_, fun i hlt => ?_, fun hw a => ?_, ?_, ?_,
      fun q hq => ?_, fun c hne => ?_⟩
    · rw [grantPier_core _ _ _ _ _ hk]
    · rw [grantPier_ctx _ _ _ _ _ hlt]
      exact ⟨rfl, rfl, congrArg (BitVec.ofNat 64) (getD_take_of_lt hlt)⟩
    · exact grantPier_acc (s.setVdev cfg.vd (grantedVDev cfg)) p cfg.vd cfg.tenant _ hw a
    · rw [grantPier_eq]; rfl
    · rw [grantPier_eq]; rfl
    · rw [grantPier_pier, if_neg hq]; rfl
    · rw [grantPier_ctx_of_ne _ _ _ _ _ hne]; rfl
  · intro cfg v n hv hf hl hd hq
    refine ⟨execJobAdmission_small hs hv hf hl hd hq, fun hn hi he => ?_⟩
    refine ⟨_, execJobAdmission_next hs hv hf hl hd hq hn hi he, kget?_kput_same .., kget?_kput_same .., kget?_kput_same ..,
      ⟨fun p hp => ?_, fun p hp => ?_⟩, rfl, rfl, rfl⟩
    · rw [admitted_pier, if_pos hp]
    · rw [admitted_pier, if_neg hp]
  · intro p hp
    exact ⟨fun f hl hu => ⟨_, execPierFrequencySet_next hs hp hl hu, onlyPier_setPier .., State.pier_setPier_same ..⟩,
      _, execOverScaledModeEnable_next hs hp, onlyPier_setPier .., State.pier_setPier_same ..⟩
  · intro k ts ha ho
    exact step_replay hs ha ho
  · intro deck temp hd
    obtain ⟨t, he, ht, hj, hp⟩ := execThermalThrottle_next (temp := temp) hs hd
    exact ⟨⟨t, he, ht, hj, fun p _ => hp p⟩, fun ht => ⟨_, execThermalStop_cool hs hd ht, rfl, State.deck_setDeck_same ..⟩,
      fun ht hi => ⟨_, execThermalStop_idle hs hd ht hi, fun _ => poweredDown_stopped _, fun _ => poweredDown_unpowered _, poweredDown_piers _⟩,
      fun ht hb hp => execThermalStop_busy hs hd ht hb hp⟩
  · intro u hu
    refine ⟨execScrubPass_clean hu, ?_, ?_, ?_⟩
    · rintro c o rfl hp
      exact ⟨_, execScrubPass_corrected hs hu hp, onlyPier_setPier .., (State.countEvent_events ..).trans (if_pos rfl)⟩
    · rintro c o rfl hp ho
      exact ⟨_, execScrubPass_unowned hs hu hp ho, rfl, congrArg Deck.uncorr (State.deck_setDeck_same ..), rfl⟩
    · rintro c o vd v rfl hp ho -
      exact ⟨_, _, execScrubPass_owned hs hu hp ho, rfl, rfl, rfl, rfl, rfl, rfl, rfl⟩

end Sys2Proof.Machine
end
